-- ==== Sys2Proof/Word.lean ====
section
/-! DEFINITION. The machine's word types and their plainest arithmetic (00_scope.md R3, R5: bit 0 is the
least significant bit, integers in pseudocode are exact and unbounded until a width is written). -/

namespace Sys2Proof

/-- A 32-bit register value or instruction word (R9, R32). -/
abbrev Word := BitVec 32

/-- A 64-bit value: a register pair, an address, an itinerary word (R9, R210). -/
abbrev DWord := BitVec 64

/-- A byte of memory. -/
abbrev Byte := BitVec 8

/-- One bit per lane of a warp: lane `i` is bit `i`. -/
abbrev LaneMask := BitVec 32

/-- The lane numbers of a warp in ascending order (R7). -/
def lanes : List Nat :=
  [0, 1, 2, 3, 4, 5, 6, 7, 8, 9, 10, 11, 12, 13, 14, 15,
   16, 17, 18, 19, 20, 21, 22, 23, 24, 25, 26, 27, 28, 29, 30, 31]

/-- A lane mask with every lane set. -/
def allLanes : LaneMask := 0xFFFFFFFF#32

/-- The lanes a mask names, in ascending order. -/
def LaneMask.toList (m : LaneMask) : List Nat := lanes.filter (fun i => m.getLsbD i)

/-- The mask of the lanes at which a test holds. -/
def maskOf (f : Nat → Bool) : LaneMask :=
  lanes.foldl (fun m i => if f i then m ||| (1#32 <<< i) else m) 0#32

/-- How many lanes a mask names. -/
def LaneMask.count (m : LaneMask) : Nat := (LaneMask.toList m).length

/-- The lowest-numbered lane of a mask, if it names one. -/
def LaneMask.lowest (m : LaneMask) : Option Nat := (LaneMask.toList m).head?

/-- The pair value with the given low and high words (R9: low half in the even register). -/
def pairOf (lo hi : Word) : DWord := hi ++ lo

/-- The low 32 bits of a 64-bit value. -/
def loWord (x : DWord) : Word := x.setWidth 32

/-- The high 32 bits of a 64-bit value. -/
def hiWord (x : DWord) : Word := (x >>> 32).setWidth 32

/-- Bits `hi` down to `lo` of a natural number, as a number. -/
def bitsNat (x hi lo : Nat) : Nat := (x >>> lo) % 2 ^ (hi + 1 - lo)

/-- One bit of a natural number. -/
def bitNat (x i : Nat) : Bool := x.testBit i

/-- The signed reading of the low `w` bits of a number. -/
def signedNat (w x : Nat) : Int :=
  let y := x % 2 ^ w
  if y < 2 ^ (w - 1) then (y : Int) else (y : Int) - (2 ^ w : Nat)

/-- An integer reduced to `w` bits (`trunc` of R87). -/
def truncInt (w : Nat) (x : Int) : BitVec w := BitVec.ofInt w x

end Sys2Proof
end

