-- ==== Sys2Proof/Syntax.lean ====
section
/-! DEFINITION. The syntax of every step of the part: one constructor of `Instr` per row of the opcode table
(instructions, clause headers, itinerary words, hardware events, host commands, mailbox messages), with the
operand records they carry. -/

namespace Sys2Proof

/-- Trap and fault causes (R304) and the host-record causes of R255, R283, R311, R332, R341, R356, R359, R360. -/
inductive Cause where
  | illegalClause | illegalOpcode | illegalOperand | illegalClass | roleViolation | landingPad | privilege
  | translation | protection | misaligned | scopeMismatch | poison | remoteFailed | apertureIncomplete | key
  | arith | barrierConflict | nestingDepth | launchRefused | budget | software | breakpoint
  | accSuspect | macroTrap
  /-- no cause of the spec: a table walk must first ask a home for an entry (R309) -/
  | walkWait
  deriving DecidableEq, Repr

/-- The fields of an instruction word in format R (R32) with its extension word (R33): `ext` is the extension
word, and is zero when the instruction has none. -/
structure Ops where
  /-- switch marker -/
  s : Bool
  /-- destination specifier, or a field the opcode defines -/
  d : BitVec 6
  a : BitVec 6
  b : BitVec 6
  /-- last use of A -/
  la : Bool
  /-- last use of B -/
  lb : Bool
  /-- function code -/
  f : BitVec 4
  ext : Word
  deriving DecidableEq, Repr

/-- The fields of a clause header below its signature (R29). -/
structure Header where
  gsense : Bool
  guard : BitVec 3
  wait : BitVec 6
  eng : BitVec 3
  n : BitVec 4
  deriving DecidableEq, Repr

/-- The fields of an itinerary word below its operation (R210). -/
structure Itin where
  flags : BitVec 4
  peer : BitVec 6
  sa : BitVec 4
  sb : BitVec 4
  cr : BitVec 4
  red : BitVec 4
  imm : Word
  deriving DecidableEq, Repr

/-- Names a warp: its workgroup's serial number in the model, and its `wid` (R16). -/
structure WarpId where
  wg : Nat
  wid : Nat
  deriving DecidableEq, Repr

/-- An agent that holds copies of grains (R241, R244, R245): a core's L1, a core's stash windows, a tile
directory holding a partial, or another package as a whole (number 1,023 is the companion processor). -/
inductive Party where
  | core (pkg id : Nat)
  | stash (pkg id : Nat)
  | tile (pkg id : Nat)
  | package (pkg : Nat)
  deriving DecidableEq, Repr

/-- A request or waybill ticket (R263). -/
structure Ticket where
  kind : BitVec 2
  pkg : BitVec 10
  unit : BitVec 14
  index : BitVec 14
  deriving DecidableEq, Repr

/-- What a core may keep from a reply that fills a sector group (R241, R249). -/
inductive Grant where
  | none | untracked | tracked | owned
  deriving DecidableEq, Repr

/-- A reply to a request (R249, R266, R268): a word, the bytes of a fill with what the core may keep of
them and the version granted, an acknowledgement, or a failure. -/
inductive Reply where
  | value (x : DWord)
  | fill (cells : List Host.Cell) (grant : Grant) (ver : BitVec 8)
  | ack
  | failed (c : Cause)
  deriving DecidableEq, Repr

/-- A flit as it arrives: its header and its 120 payload bytes (R330). -/
structure Flit where
  header : DWord
  payload : List Byte
  deriving DecidableEq, Repr

/-- The kinds of an inbound UALink request (R337). -/
inductive PeerOp where
  | read | write | atomic (f : BitVec 4) | compareSwap | unsupported
  deriving DecidableEq, Repr

/-- An inbound UALink request (R337, R339). -/
structure PeerReq where
  id : Nat
  peer : Nat
  op : PeerOp
  /-- the address is physical -/
  translated : Bool
  addr : DWord
  len : Nat
  /-- bytes of a write with their offsets (the enabled ones) -/
  bytes : List Host.Cell
  /-- operand, and the new value of a compare-and-swap -/
  operand : DWord
  newval : DWord
  /-- an atomic of 64 bits -/
  wide : Bool
  deriving DecidableEq, Repr

/-- A posted-reservation request for one piece of a rank transfer (R215). -/
structure PostedReq where
  ctx : Nat
  gen : BitVec 4
  buf : Nat
  first : Nat
  last : Nat
  srcPkg : Nat
  piece : Nat
  deriving DecidableEq, Repr

/-- A Courier message between two contexts (R209, R214): the context here, the sender's generation, the
peer's rank and the number of the match. The bytes of a granted piece, or their acknowledgement, name the piece, with the
offset in the slot of each byte (R215). -/
structure CtxMsg where
  ctx : Nat
  gen : BitVec 4
  rank : Nat
  seq : Nat
  posted : Option (PostedReq × List Nat) := none
  deriving DecidableEq, Repr

/-- The common part of a host command (R345): the master whose ring it came from, its tag and its
completion word address. -/
structure Cmd where
  master : Nat
  tag : Word
  compl : DWord
  deriving DecidableEq, Repr

/-- Where an uncorrectable soft error struck (R359). -/
inductive ErrorSite where
  /-- the 32-byte sector of memory holding this cell key -/
  | sector (key : Nat)
  /-- an accumulator tile of a workgroup -/
  | tile (wg acc : Nat)
  /-- the 32-byte sector of a workgroup's scratchpad allotment holding this offset -/
  | pad (wg off : Nat)
  deriving DecidableEq, Repr

/-- An agent with an incarnation number (R255): a package, the companion processor or a UALink peer. -/
inductive Incarnate where
  | package (n : Nat) | companion | peer (n : Nat)
  deriving DecidableEq, Repr

/-- Every step of the part, one constructor per row of the opcode table. -/
inductive Instr where
  | clauseIssue (h : Header)
  -- ALU class (R58)
  | iadd (o : Ops) | isub (o : Ops) | imul (o : Ops) | imac (o : Ops)
  | imin (o : Ops) | imax (o : Ops) | iabs (o : Ops) | ineg (o : Ops)
  | andOp (o : Ops) | orOp (o : Ops) | xorOp (o : Ops) | andnOp (o : Ops) | ornOp (o : Ops) | notOp (o : Ops)
  | shl (o : Ops) | shr (o : Ops) | sar (o : Ops) | rol (o : Ops)
  | ones (o : Ops) | clz (o : Ops) | ctz (o : Ops) | bitrev (o : Ops)
  | bfx (o : Ops) | bfi (o : Ops) | icmp (o : Ops) | sel (o : Ops) | mov (o : Ops) | movs (o : Ops)
  | lea (o : Ops) | plog (o : Ops)
  | fadd (o : Ops) | fmul (o : Ops) | fma (o : Ops) | fmin (o : Ops) | fmax (o : Ops) | famax (o : Ops)
  | fcmp (o : Ops) | fabs (o : Ops) | fneg (o : Ops) | fcopys (o : Ops) | cvt (o : Ops)
  | rcp (o : Ops) | rsq (o : Ops) | sqrt (o : Ops) | exp2 (o : Ops)
  | log2 (o : Ops) | sin (o : Ops) | cos (o : Ops) | tanh (o : Ops)
  | qscale (o : Ops) | qpack (o : Ops) | qunpk (o : Ops)
  | lxch (o : Ops) | lanesAll (o : Ops) | lanesAny (o : Ops) | lanesSame (o : Ops)
  | lanesMask (o : Ops) | lanesFirst (o : Ops)
  | wred (o : Ops) | scan (o : Ops) | segred (o : Ops)
  -- MEM class (R59)
  | ld (o : Ops) | st (o : Ops) | atom (o : Ops) | red (o : Ops) | cas (o : Ops) | pref (o : Ops)
  | stashMap (o : Ops) | stashUnmap (o : Ops) | stashFlush (o : Ops) | stashInv (o : Ops) | stashClean (o : Ops)
  | waita (o : Ops) | fence (o : Ops) | pfence (o : Ops) | qfence (o : Ops)
  | barArrive (o : Ops) | barSync (o : Ops) | barSyncPath (o : Ops)
  | ringw (o : Ops) | ringwCfg (o : Ops) | ringa (o : Ops)
  | ringaComplete (w : WarpId)
  -- MX class (R60) and the events of the pair
  | mmaBf16 (o : Ops) | mmaF16 (o : Ops) | mmaNi (o : Ops)
  | accz (o : Ops) | accld (o : Ops) | accst (o : Ops)
  | mmaRelease (wg : Nat) | mmaStep (pair : Nat) | accTurn (wg : Nat)
  | clovePattern (pair : Nat) (failed : BitVec 8)
  -- TILE class (R60) and the events of the Porter
  | tcopy (o : Ops) | tgath (o : Ops) | tscat (o : Ops) | twalk (o : Ops) | itin (o : Ops)
  | porterCommandStart (wg queue : Nat) | porterCommandComplete (wg queue : Nat)
  -- CTL class (R60)
  | braLane (o : Ops) | braLead (o : Ops) | braSplit (o : Ops)
  | jmpx (o : Ops) | call (o : Ops) | callx (o : Ops) | ret (o : Ops) | lpad (o : Ops)
  | exit (o : Ops) | yieldOp (o : Ops) | nop (o : Ops) | macroRun (o : Ops)
  | launch (o : Ops) | waitkids (o : Ops) | tfence (o : Ops) | isync (o : Ops) | trap (o : Ops) | bkpt (o : Ops)
  -- SYS class (R60)
  | srd (o : Ops) | swr (o : Ops)
  | purseGet (o : Ops) | purseSplit (o : Ops) | purseAdd (o : Ops) | purseSetrest (o : Ops)
  | mcload (o : Ops) | tret (o : Ops)
  -- events of warps, workgroups and the dispatcher
  | variableResultReturn (w : WarpId) (id : Nat)
  | memoryReply (req : Nat) (r : Reply)
  | handlerEntry (w : WarpId)
  | activeSetSwap (core partition : Nat)
  | formedWarpEmit (wg : Nat) (target : Word)
  | formerTimeout (wg : Nat) (target : Word)
  | waitaWake (w : WarpId) | waitaPeriodicWake (w : WarpId)
  | graceExhaustion (wg : Nat) | forcedYield (wg : Nat) | workgroupSave (wg : Nat)
  | workgroupPlace (wg core : Nat) | workgroupComplete (wg : Nat)
  -- queues and packets
  | notify (queue : Nat) (index : DWord)
  | gridPacket (packet : Nat) | barrierAndPacket (packet : Nat) | dependencyRead (packet : Nat)
  | itineraryPacket (packet : Nat) | packetComplete (packet : Nat)
  | hostFaultRecordPost
  -- the home (R249, R250)
  | own (req : Nat) | wi (req : Nat) | si (req : Nat) | wtr (req : Nat) | wtw (req : Nat)
  | atHome (req : Nat) | acc (req : Nat)
  | invalidationAcknowledgement (grain : Nat) (by_ : Party) (inc : Byte)
  | recallAnswer (grain : Nat) (by_ : Party) (has : Bool) (bytes : List Host.Cell) (inc : Byte)
  | writeBack (grain : Nat) (by_ : Party) (ver : Byte) (bytes : List Host.Cell) (inc : Byte)
  | partialReturn (grain : Nat) (by_ : Party) (words : List (Nat × Nat)) (inc : Byte)
  | cleanEvictionNotice (grain : Nat) (by_ : Party) (inc : Byte)
  | invalidation (grain : Nat) (target : Party) | recallHeld (grain : Nat) (target : Party) (toT : Bool)
  | cancelled (grain : Nat) (target : Party)
  | coreEviction (core grain : Nat) | tileDirectoryEviction (tile grain : Nat)
  | recallTimeout (grain : Nat)
  -- the Caravan network
  | waystationArrival (stage req : Nat)
  | replySplit (wb : Ticket) (r : Reply) | split (wb : Ticket) | waybillTimeout (wb : Ticket)
  | apertureLoad (req : Nat) | memberReadReply (slot member : Nat) | memberReread (slot member : Nat)
  | slotTimeout (slot : Nat)
  -- the fabric
  | rotationComplete (port : Nat) | drainMarker (port round : Nat) | drainComplete (pkg : Nat)
  | ualinkRequest (r : PeerReq) | peerTimeout (req : Nat) | companionLinkFailure
  | invalidationComplete (inv : Nat) | vacateComplete (cmd : Nat) | powerGrant (tile : Nat)
  -- the Courier's operations (R213)
  | send (c : Itin) | recv (c : Itin) | recvred (c : Itin) | reduce (c : Itin) | copy (c : Itin) | mcast (c : Itin)
  | waitSig (c : Itin) | waitFlag (c : Itin) | waitSent (c : Itin)
  | signalPeer (c : Itin) | signalSet (c : Itin) | signalAdd (c : Itin)
  | setc (c : Itin) | setcRank (c : Itin) | setcCopy (c : Itin) | addc (c : Itin) | addcWrap (c : Itin)
  | loop (c : Itin) | loopGrp (c : Itin) | endl (c : Itin) | brc (c : Itin) | brcRank (c : Itin)
  | joinq (c : Itin) | mark (c : Itin) | markNocompl (c : Itin) | halt (c : Itin)
  -- the Courier's events
  | chunkOpComplete | grant (m : CtxMsg) | chunkData (m : CtxMsg) (bytes : List Byte)
  | chunkAcknowledgement (m : CtxMsg) (ok : Bool) | signalArrival (m : CtxMsg)
  | postedReservationRequest (m : PostedReq) | postedGrant (piece : Nat) (granted : Bool)
  | watchdog (ctx : Nat)
  | itineraryFault (w : DWord) | remoteReplyTimeout (req : Nat)
  -- host commands (R345)
  | regq (c : Cmd) (queue : Nat) (desc : DWord) (space : Nat)
  | vacate (c : Cmd) (gridid : Word) (list : DWord) | returnCores (c : Cmd) (gridid : Word) (list : DWord)
  | answerReplay (c : Cmd) (token : DWord) | answerDeliver (c : Cmd) (token : DWord) | answerAbort (c : Cmd) (token : DWord)
  | icinv (c : Cmd) | tlbinv (c : Cmd) (space : Nat) (base len : DWord)
  | space (c : Cmd) (num : Nat) (root keys : DWord)
  | groupwr (c : Cmd) (index : Nat) (entry : DWord) | groupfree (c : Cmd) (index : Nat)
  | ctxfree (c : Cmd) (ctx : Nat) | routewr (c : Cmd) (dest : Nat) (entry : DWord)
  | keyload (c : Cmd) (port dir slot : Nat) (buffer : DWord) | keyrotate (c : Cmd) (port dir : Nat)
  | drain (c : Cmd) | abort (c : Cmd) (isCtx : Bool) (target : Word)
  | peerwr (c : Cmd) (peer : Nat) (entry : DWord) | peerreset (c : Cmd) (peer : Nat)
  | readctr (c : Cmd) (set : Nat) (dest : DWord) (clear : Bool) | fqreg (c : Cmd) (base : DWord) (size : Nat)
  | declare (c : Cmd) (agent : Incarnate) | tmoset (c : Cmd) (recallUs replyUs : Nat) | linkmode (c : Cmd) (mode : Nat)
  | publish (fromPeer : Bool) (sender num : Nat) (v : Word)
  -- arrivals on the fabric's links; a constructor with fields beyond the 244th is never built by a definition
  | flitReceive (port : Nat) (f : Flit) | nak (port : Nat) (seq : Byte) | flitAcknowledgement (port : Nat) (seq : Byte)
  | groupFillTimeout (port : Nat) | verdict (port msg : Nat) (pass : Bool)
  -- mailbox messages
  | claim (m : Nat) (prio : Byte) (a : DWord) | handover (m target : Nat) | accept (m : Nat) | handoverExpiry
  | region (m num : Nat) (base len : DWord) (pubIsPeer : Bool) (pub : Nat) (verAddr : DWord)
  | keyset (m id : Nat) (key : Nat) | setpower (m tile watts : Nat) | setclove (m steps : Nat) | attest (m : Nat) (nonce : Nat)
  -- bring-up, power, thermal, soft errors
  | powerGood (signatureOk : Bool) (failedStacks failedPorts : List Nat)
  | packageReset (signatureOk : Bool) (failedStacks failedPorts : List Nat)
  | claimWindowClose
  | thermalHold (tile : Nat) | thermalThrottle (tile : Nat) | thermalTrip (tile : Nat) | thermalRecovery (tile celsius : Nat)
  | correctedError (onTile : Bool) (n : Nat) | uncorrectableError (site : ErrorSite)
  | hostFaultQueueReadIndex (index : DWord)
  deriving DecidableEq, Repr

end Sys2Proof
end

