-- ==== Sys2Proof/Config.lean ====
section
/-! DEFINITION. What one part fixes, and the FREE VALUES: opaque constants with no body, so that nothing can
evaluate one or prove a value of it. Each is named in the assumption log. -/

namespace Sys2Proof.Config

/-- This package's `pkgid` in the pod (R16: 0 to 992). DESIGN CHOICE 0, log 13. -/
def pkgid : Nat := 0

/-- The package whose home serves a 512-byte unit of COMMON memory (R239: the pod hash is not given). FREE, log 9. -/
opaque podHash : Nat → Nat

/-- The stack whose home waystation serves a 512-byte unit (R239, R257: the hash and the attachment are not given). FREE, log 9. -/
opaque homeStack : Nat → Nat

/-- Whether a wake that finds its condition false completes the WAITA anyway (R166: either is allowed). FREE, log 14. -/
opaque waitaEarly : Nat → Bool

/-- Whether an element of a member line that was stored to while it was read is the old one (R281: each element is old or new,
independently): the free-value counter and the element. FREE, log 29. -/
opaque tornElement : Nat → Nat → Bool

/-- Whether a write to a workgroup's image area fails, with POISON or a fault that cannot be replayed (R296; the area's place in memory is
not given). FREE, log 35. -/
opaque imageFails : Nat → Bool

/-- How the resolved operands of a matrix-queue entry are packed in a workgroup's image (R314 gives only the entry's size). FREE, log 109. -/
opaque mxOperands : Nat → List (BitVec 8)

/-- The identifier proposed for a new grid (R16 states only that it is unique among live grids). FREE, log 15. -/
opaque gridIdent : Nat → BitVec 32

/-- Where the dispatcher's search for a core begins (R289 leaves the choice among cores with room open). FREE, log 16. -/
opaque coreStart : Nat → Nat

/-- The credits of a virtual channel of a link direction (R327 gives no number): port, class, and channel 0–2 adaptive, 3 lane A, 4 lane B.
FREE, log 36. -/
opaque channelCredits : Nat → Nat → Nat → Nat

/-- Whether a port is cabled to a neighbour (R323: the pod manager cables them). FREE, log 36. -/
opaque cabled : Nat → Bool

/-- How many flits follow the first of a message of this package, and their payloads (R330: the messages' layouts are not given): the message's
number, and the flit. FREE, log 36. -/
opaque messageFlits : Nat → Nat
opaque messagePayload : Nat → Nat → List (BitVec 8)

/-- The messages that the payloads of ejected flits carry (R330: the messages' layouts are not given). FREE, log 36. -/
opaque carried : List (List (BitVec 8)) → List Instr

/-- How many of the hops before forwarded a flit before their inbound group verified (R333 names nothing that tells). FREE, log 36. -/
opaque earlyHops : Nat → Nat

/-- Whether a request's projected power stays within the tile's cap (R355 gives no figures): the free-value
counter, the tile and its cap in watts. FREE, log 17. -/
opaque powerFits : Nat → Nat → Nat → Bool

/-- The key under which a key id enciphers before any KEYSET has loaded one (R357 does not say). FREE, log 10. -/
opaque unsetKey : Nat → Nat

/-- The signature of an attestation report (R358: RSA-3072 over SHA-256 by a fused key). FREE, log 10. -/
opaque attestSignature : List Nat → Nat

/-- The SHA-256 hash of the running firmware, and the fuse serial (R358). FREE, log 10. -/
opaque firmwareHash : Nat
opaque fuseSerial : Nat

/-- Where in the package's DRAM the firmware has its itineraries and command rings (R224, R351: chosen by the firmware). FREE, log 11. -/
opaque firmwareArea : Nat

end Sys2Proof.Config
end

