-- ==== Sys2Proof/Machine/Forms.lean ====
section
/-! DEFINITION. The instruction forms of format R: major opcodes (R57 to R60), which opcodes are always extended
(R33), and what each field of each form may name (R34, R42, R45, R61, R85, R119, R128, R130, R139, R140, R161,
R165, R171, R174, R182, R190, R196). -/

namespace Sys2Proof

/-- What a field of a form takes (the columns of R85 and of the field tables of the instruction chapters). -/
inductive Col where
  /-- "—": the field holds 61 (R34) -/
  | unused
  /-- a 32-bit source: vector, uniform, `lid`, `z`, `lpc` or `imm` -/
  | src
  /-- a 64-bit source: even vector or uniform pair, `z` or `imm` -/
  | srcPair
  /-- an even vector or uniform pair, neither `z` nor `imm` -/
  | basePair
  /-- a 32-bit destination of a fixed-latency ALU form: vector, uniform, `z` or `lpc` -/
  | dst
  /-- a 32-bit destination of a variable-latency form: vector, uniform or `z` (R34: not `lpc`) -/
  | dstVar
  /-- a pair destination: even vector or uniform pair, or `z` -/
  | dstPair
  /-- a quad destination, or `z` -/
  | dstQuad
  /-- a vector destination: v0–v47 or `lpc` -/
  | dstVec
  /-- a vector destination or `z` -/
  | dstVecZ
  /-- an even vector pair destination -/
  | dstVecPair
  /-- a pair destination that must be a pair (R140), not `z` -/
  | dstPairOnly
  /-- a 32-bit data source in `D`: anything but `imm` -/
  | data
  /-- a 64-bit data source in `D`: even pair or `z` -/
  | dataPair
  /-- a 128-bit data source in `D`: quad or `z` -/
  | dataQuad
  /-- a CAS quad base: an even register for .32, a quad for .64; never `z` -/
  | casPair
  | casQuad
  /-- a predicate: bits [5:3] zero -/
  | pred
  /-- a BRA condition: [5] NEG, [4:3] zero -/
  | cond
  /-- a sub-code at most the bound -/
  | sub (max : Nat)
  /-- one of v0–v47 -/
  | vec
  /-- one of v0–v47, or 61 (LAUNCH) -/
  | vecOrNone
  /-- a uniform register, or `z` -/
  | uni
  /-- a uniform register, or `z`, as a destination (R165) -/
  | uniDst
  /-- a uniform register, `z` or `imm` -/
  | uniImm
  /-- an even uniform pair -/
  | uniPair
  /-- k0, k4 or k8 -/
  | uniQuad
  /-- a field of a MACRO, substituted into its body (R46) -/
  | subst
  deriving DecidableEq, Repr

/-- Whether a specifier code names a vector register of R9 (v0–v47, `lid`, `lpc`). -/
def isVectorCode (c : BitVec 6) : Bool := c.toNat < 48 || c == 60#6 || c == 62#6

/-- Whether a specifier code names one of k0–k11. -/
def isUniformCode (c : BitVec 6) : Bool := 48 ≤ c.toNat && c.toNat < 60

/-- Whether a specifier code may stand in a field of a column (R9, R34). -/
def Col.admits (col : Col) (c : BitVec 6) : Bool :=
  let n := c.toNat
  let reg := decide (n < 60)
  let even := reg && n % 2 == 0
  let quad := reg && n % 4 == 0
  match col with
  | .unused => n == 61
  | .src => true
  | .srcPair => even || n == 61 || n == 63
  | .basePair => even
  | .dst => reg || n == 61 || n == 62
  | .dstVar => reg || n == 61
  | .dstPair => even || n == 61
  | .dstQuad => quad || n == 61
  | .dstVec => n < 48 || n == 62
  | .dstVecZ => n < 48 || n == 61 || n == 62
  | .dstVecPair => n < 48 && n % 2 == 0
  | .dstPairOnly => even
  | .data => n != 63
  | .dataPair => even || n == 61
  | .dataQuad => quad || n == 61
  | .casPair => even
  | .casQuad => quad
  | .pred => n < 8
  | .cond => n &&& 0x18 == 0
  | .sub max => n ≤ max
  | .vec => n < 48
  | .vecOrNone => n < 48 || n == 61
  | .uni => (48 ≤ n && n < 60) || n == 61
  | .uniDst => (48 ≤ n && n < 60) || n == 61
  | .uniImm => (48 ≤ n && n < 60) || n == 61 || n == 63
  | .uniPair => 48 ≤ n && even
  | .uniQuad => n == 48 || n == 52 || n == 56
  | .subst => true

/-- Whether a field of the column is read as a register specifier, so that code 63 there means an
immediate (R33) and a last-use bit may stand with it (R34). -/
def Col.isSource : Col → Bool
  | .src | .srcPair | .basePair | .vec | .uni | .uniImm | .uniPair | .subst => true
  | _ => false

/-- Whether a field of the column is a destination register specifier (R37). -/
def Col.isDest : Col → Bool
  | .dst | .dstVar | .dstPair | .dstQuad | .dstVec | .dstVecZ | .dstVecPair | .dstPairOnly
  | .casPair | .casQuad | .vecOrNone | .uniDst => true
  | _ => false

/-- The major opcode and the fields of a format R step; `none` for steps that are not instruction words. -/
def Instr.opcode : Instr → Option (BitVec 7 × Ops)
  | .iadd o => some (0x00#7, o)
  | .isub o => some (0x01#7, o)
  | .imul o => some (0x02#7, o)
  | .imac o => some (0x03#7, o)
  | .imin o => some (0x04#7, o)
  | .imax o => some (0x05#7, o)
  | .iabs o | .ineg o => some (0x06#7, o)
  | .andOp o | .orOp o | .xorOp o | .andnOp o | .ornOp o | .notOp o => some (0x07#7, o)
  | .shl o | .shr o | .sar o | .rol o => some (0x08#7, o)
  | .ones o | .clz o | .ctz o | .bitrev o => some (0x09#7, o)
  | .bfx o => some (0x0A#7, o)
  | .bfi o => some (0x0B#7, o)
  | .icmp o => some (0x0C#7, o)
  | .sel o => some (0x0D#7, o)
  | .mov o => some (0x0E#7, o)
  | .movs o => some (0x0F#7, o)
  | .lea o => some (0x10#7, o)
  | .plog o => some (0x11#7, o)
  | .fadd o => some (0x14#7, o)
  | .fmul o => some (0x15#7, o)
  | .fma o => some (0x16#7, o)
  | .fmin o => some (0x17#7, o)
  | .fmax o | .famax o => some (0x18#7, o)
  | .fcmp o => some (0x19#7, o)
  | .fabs o | .fneg o | .fcopys o => some (0x1A#7, o)
  | .cvt o => some (0x1B#7, o)
  | .rcp o | .rsq o | .sqrt o | .exp2 o | .log2 o | .sin o | .cos o | .tanh o => some (0x1C#7, o)
  | .qscale o => some (0x1D#7, o)
  | .qpack o => some (0x1E#7, o)
  | .qunpk o => some (0x1F#7, o)
  | .lxch o => some (0x20#7, o)
  | .lanesAll o | .lanesAny o | .lanesSame o | .lanesMask o | .lanesFirst o => some (0x21#7, o)
  | .wred o => some (0x22#7, o)
  | .scan o => some (0x23#7, o)
  | .segred o => some (0x24#7, o)
  | .ld o => some (0x30#7, o)
  | .st o => some (0x31#7, o)
  | .atom o => some (0x32#7, o)
  | .red o => some (0x33#7, o)
  | .cas o => some (0x34#7, o)
  | .pref o => some (0x35#7, o)
  | .stashMap o | .stashUnmap o | .stashFlush o | .stashInv o | .stashClean o => some (0x36#7, o)
  | .waita o => some (0x37#7, o)
  | .fence o => some (0x38#7, o)
  | .pfence o => some (0x39#7, o)
  | .qfence o => some (0x3A#7, o)
  | .barArrive o | .barSync o | .barSyncPath o => some (0x3B#7, o)
  | .ringw o | .ringwCfg o => some (0x3C#7, o)
  | .ringa o => some (0x3D#7, o)
  | .mmaBf16 o => some (0x40#7, o)
  | .mmaF16 o => some (0x41#7, o)
  | .mmaNi o => some (0x42#7, o)
  | .accz o => some (0x43#7, o)
  | .accld o => some (0x44#7, o)
  | .accst o => some (0x45#7, o)
  | .tcopy o => some (0x50#7, o)
  | .tgath o => some (0x51#7, o)
  | .tscat o => some (0x52#7, o)
  | .twalk o => some (0x53#7, o)
  | .itin o => some (0x54#7, o)
  | .braLane o | .braLead o | .braSplit o => some (0x60#7, o)
  | .jmpx o => some (0x61#7, o)
  | .call o => some (0x62#7, o)
  | .callx o => some (0x63#7, o)
  | .ret o => some (0x64#7, o)
  | .lpad o => some (0x65#7, o)
  | .exit o => some (0x66#7, o)
  | .yieldOp o => some (0x67#7, o)
  | .nop o => some (0x68#7, o)
  | .macroRun o => some (0x69#7, o)
  | .launch o => some (0x6A#7, o)
  | .waitkids o => some (0x6B#7, o)
  | .tfence o => some (0x6C#7, o)
  | .isync o => some (0x6D#7, o)
  | .trap o => some (0x6E#7, o)
  | .bkpt o => some (0x6F#7, o)
  | .srd o => some (0x70#7, o)
  | .swr o => some (0x71#7, o)
  | .purseGet o | .purseSplit o | .purseAdd o | .purseSetrest o => some (0x72#7, o)
  | .mcload o => some (0x73#7, o)
  | .tret o => some (0x74#7, o)
  | _ => none

/-- The engine class of an opcode, allotted or not (R57). -/
def classOfOp (op : BitVec 7) : Nat :=
  let n := op.toNat
  if n < 0x30 then 0 else if n < 0x40 then 1 else if n < 0x50 then 2 else if n < 0x60 then 3
  else if n < 0x70 then 4 else 5

/-- The always-extended opcodes (R33). -/
def alwaysExtended (op : BitVec 7) : Bool :=
  let n := op.toNat
  n == 0x24 || (0x30 ≤ n && n ≤ 0x37) || n == 0x3A || (0x40 ≤ n && n ≤ 0x45) || (0x50 ≤ n && n ≤ 0x54)
    || n == 0x60 || n == 0x61 || n == 0x62 || n == 0x63 || n == 0x65 || n == 0x69 || n == 0x70 || n == 0x71

/-- The width in bits of a system register (R17), by number; `none` for a number not listed. -/
def sysRegWidth (n : Nat) : Option Nat :=
  match n with
  | 0x000 | 0x001 => some 48
  | 0x003 => some 64
  | 0x002 | 0x010 | 0x011 | 0x012 | 0x013 | 0x014 | 0x015 | 0x016
  | 0x020 | 0x030 | 0x031 | 0x040 | 0x050 => some 32
  | _ => none

/-- The columns of `D`, `A` and `B` of a format R step. Where a form takes "a uniform register" `z` may stand too, since R9
calls it one; where it takes "an even uniform pair", or an even pair to write, `z` may not, its code being odd
(DESIGN CHOICE, log 21: R9 and the forms that list `z` apart leave both open). -/
def Instr.columns : Instr → Col × Col × Col
  | .iadd o | .isub o => if o.f = 1 then (.dstPair, .srcPair, .srcPair) else (.dst, .src, .src)
  | .imul o => if 3 ≤ o.f.toNat then (.dstPair, .src, .src) else (.dst, .src, .src)
  | .imac o => if 1 ≤ o.f.toNat then (.dstPair, .src, .src) else (.dst, .src, .src)
  | .imin o | .imax o => if 2 ≤ o.f.toNat then (.dstPair, .srcPair, .srcPair) else (.dst, .src, .src)
  | .iabs o => if o.f = 1 then (.dstPair, .srcPair, .unused) else (.dst, .src, .unused)
  | .ineg o => if o.f = 3 then (.dstPair, .srcPair, .unused) else (.dst, .src, .unused)
  | .andOp _ | .orOp _ | .xorOp _ | .andnOp _ | .ornOp _ => (.dst, .src, .src)
  | .notOp _ => (.dst, .src, .unused)
  | .shl o | .shr o | .sar o | .rol o =>
      if 4 ≤ o.f.toNat then (.dstPair, .srcPair, .src) else (.dst, .src, .src)
  | .ones _ | .clz _ | .ctz _ | .bitrev _ => (.dst, .src, .unused)
  | .bfx _ | .bfi _ => (.dst, .src, .src)
  | .icmp _ | .fcmp _ => (.pred, .src, .src)
  | .sel _ => (.dst, .src, .src)
  | .mov o => if o.f = 1 then (.dstPair, .srcPair, .unused) else (.dst, .src, .unused)
  | .movs _ => (.dst, .sub 11, .unused)
  | .lea _ => (.dstPair, .srcPair, .src)
  | .plog _ => (.pred, .pred, .pred)
  | .fadd _ | .fmul _ | .fma _ | .fmin _ | .fmax _ | .famax _ | .fcopys _ => (.dst, .src, .src)
  | .fabs _ | .fneg _ => (.dst, .src, .unused)
  | .cvt o =>
      if o.f = 2 ∨ o.f = 3 then (.dst, .src, .sub 0)
      else if 8 ≤ o.f.toNat then (.dst, .basePair, .sub 3) else (.dst, .src, .sub 3)
  | .rcp _ | .rsq _ | .sqrt _ | .exp2 _ | .log2 _ | .sin _ | .cos _ | .tanh _ => (.dstVar, .src, .unused)
  | .qscale _ => (.dst, .src, .src)
  | .qpack _ => (.dstVec, .src, .src)
  | .qunpk _ => (.dstVecPair, .src, .src)
  | .lxch _ => (.dst, .src, .src)
  | .lanesAll _ | .lanesAny _ | .lanesSame _ => (.pred, .pred, .unused)
  | .lanesMask _ => (.dst, .pred, .unused)
  | .lanesFirst _ => (.pred, .unused, .unused)
  | .wred _ => (.dst, .src, .unused)
  | .scan _ | .segred _ => (.dstVecZ, .src, .unused)
  | .ld o => (if o.f = 6 then .dstQuad else if o.f = 5 then .dstPair else .dstVar, .basePair, .src)
  | .st o => (if o.f = 6 then .dataQuad else if o.f = 5 then .dataPair else .data, .basePair, .src)
  | .atom o => (if o.ext.toNat / 64 % 4 = 1 then .dstPair else .dstVar, .basePair, .src)
  | .red o => (if o.ext.toNat / 64 % 4 = 1 then .dataPair else .data, .basePair, .src)
  | .cas o => (if o.ext.toNat / 64 % 4 = 1 then .casQuad else .casPair, .basePair, .src)
  | .pref _ => (.unused, .basePair, .src)
  | .stashMap _ => (.sub 7, .uniPair, .uni)
  | .stashUnmap _ | .stashFlush _ | .stashInv _ | .stashClean _ => (.sub 7, .unused, .unused)
  | .waita _ => (.uniDst, .uniPair, .uni)
  | .fence _ => (.sub 3, .unused, .unused)
  | .pfence _ | .qfence _ => (.unused, .unused, .unused)
  | .barArrive _ | .barSync _ | .barSyncPath _ => (.sub 15, .uniImm, .unused)
  | .ringw _ => (.sub 63, .unused, .unused)
  | .ringwCfg _ => (.sub 63, .uniImm, .unused)
  | .ringa _ => (.sub 63, .unused, .unused)
  | .mmaBf16 o | .mmaF16 o =>
      (if o.ext.toNat / 64 % 4 = 0 then .unused else .uniPair, .unused, .unused)
  | .mmaNi o => (if o.ext.toNat / 64 % 4 = 0 then .unused else .uniPair, .vec, .vec)
  | .accz _ => (.unused, .unused, .unused)
  | .accld _ => (.unused, .uniPair, .uni)
  | .accst _ => (.uni, .uniPair, .uni)
  | .tcopy _ | .tgath _ | .tscat _ | .twalk _ => (.unused, .uniPair, .unused)
  | .itin _ => (.uniPair, .uniPair, .uni)
  | .braLane _ | .braLead _ => (.unused, .cond, .unused)
  | .braSplit _ => (.sub 63, .cond, .unused)
  | .jmpx _ => (.unused, .vec, .unused)
  | .call _ => (.vec, .unused, .unused)
  | .callx _ => (.vec, .vec, .unused)
  | .ret _ => (.unused, .vec, .unused)
  | .macroRun _ => (.subst, .subst, .subst)
  | .launch _ => (.vecOrNone, .basePair, .unused)
  | .trap _ => (.unused, .uniImm, .unused)
  | .srd o => (if sysRegWidth (o.ext.toNat % 4096) = some 32 then .dstVar else .dstPairOnly, .unused, .unused)
  | .swr o => (.unused, if sysRegWidth (o.ext.toNat % 4096) = some 32 then .uni else .uniPair, .unused)
  | .purseGet _ => (.dstPairOnly, .sub 1, .unused)
  | .purseSplit _ => (.uniQuad, .uniPair, .unused)
  | .purseAdd _ => (.uniQuad, .unused, .unused)
  | .purseSetrest _ => (.unused, .uniImm, .unused)
  | .mcload _ => (.unused, .uniPair, .uniImm)
  | _ => (.unused, .unused, .unused)

/-- Whether a format R step has an extension word (R33): its opcode is always extended, or a field that its
form reads as a register specifier holds 63. -/
def Instr.extended (i : Instr) : Bool :=
  match i.opcode with
  | none => false
  | some (op, o) =>
    alwaysExtended op || (i.columns.2.1.isSource && o.a == 63#6) || (i.columns.2.2.isSource && o.b == 63#6)

/-- The pipe that issues an instruction (R83, R291): 0 vector, 1 uniform and branch, 2 memory, 3 special function, 4 engine command. -/
def Instr.pipe (i : Instr) : Option Nat :=
  match i.opcode with
  | none => none
  | some (op, o) =>
    let cls := classOfOp op
    let uniform := fun (c : Col) (r : BitVec 6) => !c.isSource || !(isVectorCode r)
    let scalar := isUniformCode o.d && i.columns.1.isDest
      || (i.columns.1 == .pred && i.columns.2.1.isSource && uniform i.columns.2.1 o.a && uniform i.columns.2.2 o.b)
    some (if op = 0x1C#7 then 3 else if cls = 0 then (if scalar then 1 else 0) else if cls = 1 then 2 else if cls < 4 then 4 else 1)

/-- The length in bytes of an instruction's encoding (R33). -/
def Instr.lenBytes (i : Instr) : Nat := if i.extended then 8 else 4

/-- Whether the extension word of a step meets its layout (R40 to R47, R59, R61, R128, R155, R161, R165, R196). -/
def Instr.extOk (i : Instr) : Bool :=
  match i with
  | .ld o | .st o => let x := o.ext.toNat; bitsNat x 5 3 ≤ 5 && bitsNat x 2 0 ≤ 4
  | .pref o => let x := o.ext.toNat; bitsNat x 5 3 ≤ 5 && bitsNat x 2 0 ≤ 4 && !bitNat x 7
  | .atom o =>
      let x := o.ext.toNat
      bitsNat x 5 3 ≤ 5 && bitsNat x 2 0 ≤ 4 && bitsNat x 7 6 ≤ 1 && !(9 ≤ o.f.toNat && bitsNat x 7 6 == 1)
  | .red o =>
      let x := o.ext.toNat
      bitsNat x 5 3 ≤ 5 && bitsNat x 2 0 ≤ 5 && bitsNat x 7 6 ≤ 1 && !(9 ≤ o.f.toNat && bitsNat x 7 6 == 1)
  | .cas o => let x := o.ext.toNat; bitsNat x 5 3 ≤ 5 && bitsNat x 2 0 ≤ 4 && bitsNat x 7 6 ≤ 1
  | .stashMap o => let x := o.ext.toNat; bitsNat x 5 3 ≤ 5 && bitsNat x 2 0 ≤ 4 && bitsNat x 7 6 == 0
  | .stashUnmap o | .stashFlush o | .stashClean o =>
      let x := o.ext.toNat; bitsNat x 5 3 ≤ 5 && bitsNat x 2 0 == 0 && bitsNat x 31 6 == 0
  | .stashInv o => o.ext == 0#32
  | .waita o =>
      let x := o.ext.toNat
      bitsNat x 5 3 ≤ 5 && (bitsNat x 2 0 == 0 || bitsNat x 2 0 == 2) && bitsNat x 7 6 == 0
  | .qfence o => let x := o.ext.toNat; x != 0 && x < 64
  | .segred o =>
      let x := o.ext.toNat
      let carry := fun c => (48 ≤ c && c < 60) || c == 61
      x < 2 ^ 15 && carry (bitsNat x 11 6) && carry (bitsNat x 5 0)
  | .mmaBf16 o | .mmaF16 o =>
      let x := o.ext.toNat
      x < 2 ^ 31 && bitsNat x 30 25 == 0 && !bitNat x 20
        && (!bitNat x 7 || bitsNat x 19 14 == 0) && (!bitNat x 6 || bitsNat x 13 8 == 0)
  | .mmaNi o =>
      let x := o.ext.toNat
      let last := (bitsNat x 20 20 + bitsNat x 24 21) / 2
      x < 2 ^ 31 && bitsNat x 30 28 ≤ 6 && bitsNat x 27 25 ≤ 6
        && (!bitNat x 7 || bitsNat x 19 14 == 0) && (!bitNat x 6 || bitsNat x 13 8 == 0)
        && o.a.toNat + last < 48 && o.b.toNat + last < 48
  | .accz o => let x := o.ext.toNat; x < 64
  | .accld o | .accst o => bitsNat o.ext.toNat 7 6 == 0
  | .tcopy o | .tgath o | .tscat o | .twalk o => let x := o.ext.toNat; x < 256 && bitsNat x 5 0 == 0
  | .itin o => o.ext.toNat < 64
  | .braLane o | .braLead o | .braSplit o | .call o => bitsNat o.ext.toNat 1 0 == 0
  | .jmpx o | .callx o | .lpad o => o.ext.toNat < 4096
  | .macroRun o => let x := o.ext.toNat; x < 2 ^ 16 && bitsNat x 7 6 == 0
  | .srd o | .swr o => o.ext.toNat < 4096 && (sysRegWidth o.ext.toNat).isSome
  | .mcload o => o.b != 63#6 || o.ext.toNat ≤ 63
  | i => i.extended || (match i.opcode with | some (_, o) => o.ext == 0#32 | none => true)

/-- Whether a step with a uniform destination reads a vector source or has a per-lane value
(R16, R34: ILLEGAL_OPERAND). -/
def Instr.uniformClash (i : Instr) : Bool :=
  match i.opcode with
  | none => false
  | some (_, o) =>
    let (cd, ca, cb) := i.columns
    cd.isDest && isUniformCode o.d
      && ((ca.isSource && isVectorCode o.a) || (cb.isSource && isVectorCode o.b)
        || (match i with | .movs _ => o.a == 0#6 | _ => false))

/-- The control transfers (R37): they must be the last instruction of their clause. -/
def Instr.isControlTransfer : Instr → Bool
  | .braLane _ | .braLead _ | .braSplit _ | .jmpx _ | .call _ | .callx _ | .ret _ | .exit _ | .yieldOp _ | .tret _ => true
  | i => match i.opcode with | some (_, o) => i.columns.1.isDest && o.d == 62#6 | none => false

/-- The instructions of the synchronisation subset, which every role may issue (R39). -/
def Instr.isSyncSubset : Instr → Bool
  | .fence _ | .pfence _ | .qfence _ | .barArrive _ | .barSync _ | .barSyncPath _ | .ringw _ | .ringwCfg _ | .ringa _
  | .waita _ => true
  | _ => false

/-- The accumulator tile an instruction names (R43, R44). -/
def Instr.accTile : Instr → Option Nat
  | .mmaBf16 o | .mmaF16 o | .mmaNi o | .accz o | .accld o | .accst o => some (o.ext.toNat % 64)
  | _ => none

/-- Whether the access requires level 1 at level 0, or is to a register that may not be written (R17, R21). -/
def Instr.needsPrivilege (i : Instr) (level : Nat) : Bool :=
  match i with
  | .mcload _ => level == 0
  | .swr o =>
    let n := o.ext.toNat
    if n = 0x010 ∨ n = 0x030 ∨ n = 0x031 then false
    else if n ≤ 0x003 ∨ n = 0x040 then level == 0
    else true
  | _ => false

/-- POWER_GOOD. -/
def Instr.isPowerGood : Instr → Bool
  | .powerGood _ _ _ => true
  | _ => false

/-- The master from whose ring a host command comes (R345). -/
def Instr.ring : Instr → Option Nat
  | .regq c _ _ _ | .vacate c _ _ | .returnCores c _ _ | .answerReplay c _ | .answerDeliver c _ | .answerAbort c _ | .icinv c
  | .tlbinv c _ _ _ | .space c _ _ _ | .groupwr c _ _ | .groupfree c _ | .ctxfree c _ | .routewr c _ _ | .keyload c _ _ _ _
  | .keyrotate c _ _ | .drain c | .abort c _ _ | .peerwr c _ _ | .peerreset c _ | .readctr c _ _ _ | .fqreg c _ _ | .declare c _
  | .tmoset c _ _ | .linkmode c _ => some c.master
  | _ => none

/-- A message to the management mailbox. -/
def Instr.isMail : Instr → Bool
  | .claim _ _ _ | .handover _ _ | .accept _ | .region _ _ _ _ _ _ _ | .publish _ _ _ _ | .keyset _ _ _ | .setpower _ _ _
  | .setclove _ _ | .attest _ _ => true
  | _ => false

/-- Happenings outside the package's digital part, which a reset does not undo: host commands and mailbox messages not yet taken,
power, temperature and soft errors. -/
def Instr.isOutside : Instr → Bool
  | .powerGood _ _ _ | .packageReset _ _ _ | .claimWindowClose | .handoverExpiry | .thermalHold _ | .thermalThrottle _
  | .thermalTrip _ | .thermalRecovery _ _ | .correctedError _ _ | .uncorrectableError _ | .hostFaultQueueReadIndex _ => true
  | i => i.isMail || i.ring.isSome

/-- BRA.SPLIT, the one instruction by which lanes leave their warp (R115). -/
def Instr.isSplit : Instr → Bool
  | .braSplit _ => true
  | _ => false

/-- WAITKIDS, which a macro performs as NOP (R126). -/
def Instr.isWaitkids : Instr → Bool
  | .waitkids _ => true
  | _ => false

end Sys2Proof
end

