-- ==== Sys2Proof/WellFormed.lean ====
section
/-! DEFINITION. Well-formedness of the encoded steps: clause headers (R30), instruction words with their
extension words (the function code, and check 3 of R38: R9, R33, R34, R40 to R47, R61) and itinerary words (R210, R211, R213). -/

namespace Sys2Proof

/-- A clause header's field conditions (R30); the signature and the zero bits are the decoder's. -/
def Header.ok (h : Header) : Bool :=
  h.n != 0#4 && decide (h.eng.toNat ≤ 5) && !(h.gsense && h.guard == 0#3)

/-- A last-use bit stands only on a source that names one of v0–v47 (R34). -/
def lastUseOk (last : Bool) (col : Col) (c : BitVec 6) : Bool :=
  !last || (col.isSource && decide (c.toNat < 48))

/-- Whether `F` is a function code that the opcode tables allot to the instruction (R58, R59, R60, R62). -/
def Instr.funcOk (i : Instr) : Bool :=
  let among := fun (o : Ops) (fs : List Nat) => fs.contains o.f.toNat
  let upTo := fun (o : Ops) (n : Nat) => decide (o.f.toNat ≤ n)
  match i with
  | .iadd o | .isub o | .imin o | .imax o | .plog o | .lxch o | .scan o | .segred o | .waita o | .mmaNi o => upTo o 3
  | .imul o | .accst o => upTo o 4
  | .imac o => upTo o 2
  | .iabs o | .bfx o | .mov o | .qpack o | .pref o | .ringa o | .accld o | .twalk o => upTo o 1
  | .ineg o => among o [2, 3]
  | .shl o => among o [0, 4]
  | .shr o => among o [1, 5]
  | .sar o => among o [2, 6]
  | .rol o => among o [3, 7]
  | .icmp o | .wred o => upTo o 9
  | .sel _ => true
  | .lea o | .fcmp o => upTo o 7
  | .fadd o | .fmul o | .fma o => upTo o 11
  | .fmin o | .fmax o => upTo o 2
  | .fabs o => among o [0, 4, 8]
  | .fneg o => among o [1, 5, 9]
  | .fcopys o => among o [2, 6, 10]
  | .cvt o => upTo o 9
  | .qunpk o => !(among o [7, 15])
  | .ld o => upTo o 6
  | .st o => among o [0, 2, 4, 5, 6]
  | .atom o => upTo o 12
  | .red o => upTo o 12 && !(among o [8])
  | .fence o => upTo o 5
  | .pfence o => upTo o 7 && !(among o [0])
  | .ringw o => upTo o 1 && o.a == 61#6
  | .ringwCfg o => upTo o 1 && o.a != 61#6
  | .orOp o | .rsq o | .clz o | .lanesAny o | .stashUnmap o | .barSync o | .braLead o | .purseSplit o => among o [1]
  | .xorOp o | .sqrt o | .ctz o | .lanesSame o | .stashFlush o | .barSyncPath o | .braSplit o | .purseAdd o => among o [2]
  | .andnOp o | .exp2 o | .bitrev o | .lanesMask o | .stashInv o | .purseSetrest o => among o [3]
  | .ornOp o | .log2 o | .famax o | .lanesFirst o | .stashClean o => among o [4]
  | .notOp o | .sin o => among o [5]
  | .cos o => among o [6]
  | .tanh o => among o [7]
  | i => match i.opcode with | some (_, o) => o.f == 0#4 | none => true

/-- Check 3 of R38 for an instruction word, but for the accumulator allotment (which the workgroup holds). -/
def Instr.fieldsOk (i : Instr) (op : BitVec 7) (o : Ops) : Bool :=
  let (cd, ca, cb) := i.columns
  cd.admits o.d && ca.admits o.a && cb.admits o.b
    && (!alwaysExtended op || (o.a != 63#6 && o.b != 63#6))
    && lastUseOk o.la ca o.a && lastUseOk o.lb cb o.b
    && i.extOk && !i.uniformClash

/-- Whether flags [1:0] and `PEER` of an itinerary word name a peer as R211 says. -/
def Itin.peerOk (c : Itin) : Bool := !(c.flags.getLsbD 1) || decide (c.peer.toNat < 16)

/-- Which fields an itinerary operation uses; a field it does not use must be zero (R210). -/
structure ItinUse where
  /-- flags whose value is free -/
  flags : BitVec 4 := 0#4
  /-- the value of the other flags -/
  mode : BitVec 4 := 0#4
  peer : Bool := false
  /-- 0: unused, 1: a slot 0–7, 2: any value -/
  sa : Nat := 0
  sb : Nat := 0
  cr : Bool := false
  red : Bool := false
  /-- the immediate bits that may be nonzero -/
  imm : Word := 0#32

/-- A four-bit slot field within its use. -/
def slotOk (use : Nat) (x : BitVec 4) : Bool :=
  match use with
  | 0 => x == 0#4
  | 1 => !(x.getLsbD 3)
  | _ => true

/-- The fields of a word meet a use. -/
def Itin.meets (c : Itin) (u : ItinUse) : Bool :=
  (c.flags &&& ~~~u.flags) == u.mode
    && (if u.peer then c.peerOk else c.peer == 0#6)
    && slotOk u.sa c.sa && slotOk u.sb c.sb
    && (u.cr || c.cr == 0#4)
    && (if u.red then decide (1 ≤ c.red.toNat) && decide (c.red.toNat ≤ 7) else c.red == 0#4)
    && (c.imm &&& ~~~u.imm) == 0#32

/-- The use of an itinerary operation (R213). -/
def Instr.itinUse : Instr → Option (Itin × ItinUse)
  | .send c => some (c, { flags := 3#4, peer := true, sa := 1, cr := true })
  | .recv c => some (c, { flags := 3#4, peer := true, sb := 1, cr := true })
  | .recvred c => some (c, { flags := 3#4, peer := true, sa := 1, sb := 1, cr := true, red := true })
  | .reduce c => some (c, { sa := 1, sb := 1, cr := true, red := true })
  | .copy c => some (c, { sa := 1, sb := 1, cr := true })
  | .mcast c => some (c, { flags := 3#4, peer := true, sa := 1, cr := true, imm := 0xFFFF#32 })
  | .waitSig c => some (c, { flags := 3#4, peer := true })
  | .waitFlag c => some (c, { mode := 4#4, sa := 2, cr := true })
  | .waitSent c => some (c, { mode := 8#4 })
  | .signalPeer c => some (c, { flags := 3#4, peer := true })
  | .signalSet c => some (c, { mode := 4#4, sa := 2, imm := 0xFFFFFFFF#32 })
  | .signalAdd c => some (c, { mode := 8#4, sa := 2, imm := 0xFFFFFFFF#32 })
  | .setc c => some (c, { cr := true, imm := 0xFFFFFFFF#32 })
  | .setcRank c => some (c, { mode := 4#4, cr := true, imm := 0xFFFFFFFF#32 })
  | .setcCopy c => some (c, { mode := 8#4, sa := 2, cr := true, imm := 0xFFFFFFFF#32 })
  | .addc c => some (c, { cr := true, imm := 0xFFFFFFFF#32 })
  | .addcWrap c => some (c, { mode := 4#4, cr := true, imm := 0xFFFFFFFF#32 })
  | .loop c => some (c, { imm := 0xFFFFFFFF#32 })
  | .loopGrp c => some (c, { mode := 4#4, imm := 0xFFFFFFFF#32 })
  | .endl c => some (c, {})
  | .brc c => some (c, { flags := 3#4, cr := true, imm := 0xFFFFFFFF#32 })
  | .brcRank c => some (c, { flags := 3#4, mode := 4#4, cr := true, imm := 0xFFFF0000#32 })
  | .joinq c => some (c, { imm := 0x1F#32 })
  | .mark c => some (c, { cr := true, imm := 0xFFFFFFFF#32 })
  | .markNocompl c => some (c, { mode := 4#4, cr := true, imm := 0xFFFFFFFF#32 })
  | .halt c => some (c, {})
  | _ => none

/-- Whether an itinerary word may be executed: every unused field is zero (R210), and an MCAST names a
target (R213). -/
def Instr.itinOk (i : Instr) : Bool :=
  match i.itinUse with
  | none => false
  | some (c, u) => c.meets u && (match i with | .mcast _ => c.imm != 0#32 | _ => true)

/-- Well-formedness of a step. Steps without an encoding (hardware events, host commands, messages) carry no
condition. -/
def Instr.wellFormed (i : Instr) : Bool :=
  match i with
  | .clauseIssue h => h.ok
  | i =>
    match i.opcode with
    | some (op, o) => i.funcOk && i.fieldsOk op o && (i.extended || o.ext == 0#32)
    | none => match i.itinUse with | some _ => i.itinOk | none => true

end Sys2Proof
end

