-- ==== Sys2Proof/Decode.lean ====
section
/-! DEFINITION. The decoder and the encoder: instruction words (R32, R33, R57 to R60), clause headers (R29, R30)
and itinerary words (R210, R213), on values, on bytes, and on the opcode table's numbering. -/

namespace Sys2Proof

/-- Why a decoder refuses bytes. -/
inductive Reject where
  /-- the bytes end within the instruction -/
  | truncated
  /-- the signature is not 0xC5 or bits [23:17] are not zero (R30) -/
  | badHeader
  /-- `OP` or `F` is not allotted (R62, R63) -/
  | unallotted
  /-- a field breaks check 3 of R38, or R210 -/
  | illegalFields
  deriving DecidableEq, Repr

/-- The fields of a format R word (R32). -/
def Ops.ofWord (w : Word) (ext : Word) : Ops :=
  { s := w.getLsbD 24, d := w.extractLsb' 18 6, a := w.extractLsb' 12 6, b := w.extractLsb' 6 6,
    la := w.getLsbD 5, lb := w.getLsbD 4, f := w.extractLsb' 0 4, ext := ext }

/-- The format R word of an opcode and fields (R32). -/
def Ops.toWord (op : BitVec 7) (o : Ops) : Word :=
  op ++ BitVec.ofBool o.s ++ o.d ++ o.a ++ o.b ++ BitVec.ofBool o.la ++ BitVec.ofBool o.lb ++ o.f

/-- The instruction of an opcode and function code with given fields (R58, R59, R60); `none` where the
encoding is not allotted (R62). -/
def instrOf (op f : Nat) (o : Ops) : Option Instr :=
  match op with
  | 0x00 => if f ≤ 3 then some (.iadd o) else none
  | 0x01 => if f ≤ 3 then some (.isub o) else none
  | 0x02 => if f ≤ 4 then some (.imul o) else none
  | 0x03 => if f ≤ 2 then some (.imac o) else none
  | 0x04 => if f ≤ 3 then some (.imin o) else none
  | 0x05 => if f ≤ 3 then some (.imax o) else none
  | 0x06 => if f ≤ 1 then some (.iabs o) else if f ≤ 3 then some (.ineg o) else none
  | 0x07 => if f = 0 then some (.andOp o) else if f = 1 then some (.orOp o) else if f = 2 then some (.xorOp o) else if f = 3 then some (.andnOp o) else if f = 4 then some (.ornOp o) else if f = 5 then some (.notOp o) else none
  | 0x08 => if f = 0 ∨ f = 4 then some (.shl o) else if f = 1 ∨ f = 5 then some (.shr o) else if f = 2 ∨ f = 6 then some (.sar o) else if f = 3 ∨ f = 7 then some (.rol o) else none
  | 0x09 => if f = 0 then some (.ones o) else if f = 1 then some (.clz o) else if f = 2 then some (.ctz o) else if f = 3 then some (.bitrev o) else none
  | 0x0A => if f ≤ 1 then some (.bfx o) else none
  | 0x0B => if f = 0 then some (.bfi o) else none
  | 0x0C => if f ≤ 9 then some (.icmp o) else none
  | 0x0D => if f ≤ 15 then some (.sel o) else none
  | 0x0E => if f ≤ 1 then some (.mov o) else none
  | 0x0F => if f = 0 then some (.movs o) else none
  | 0x10 => if f ≤ 7 then some (.lea o) else none
  | 0x11 => if f ≤ 3 then some (.plog o) else none
  | 0x14 => if f ≤ 11 then some (.fadd o) else none
  | 0x15 => if f ≤ 11 then some (.fmul o) else none
  | 0x16 => if f ≤ 11 then some (.fma o) else none
  | 0x17 => if f ≤ 2 then some (.fmin o) else none
  | 0x18 => if f ≤ 2 then some (.fmax o) else if f = 4 then some (.famax o) else none
  | 0x19 => if f ≤ 7 then some (.fcmp o) else none
  | 0x1A => if f = 0 ∨ f = 4 ∨ f = 8 then some (.fabs o) else if f = 1 ∨ f = 5 ∨ f = 9 then some (.fneg o) else if f = 2 ∨ f = 6 ∨ f = 10 then some (.fcopys o) else none
  | 0x1B => if f ≤ 9 then some (.cvt o) else none
  | 0x1C => if f = 0 then some (.rcp o) else if f = 1 then some (.rsq o) else if f = 2 then some (.sqrt o) else if f = 3 then some (.exp2 o) else if f = 4 then some (.log2 o) else if f = 5 then some (.sin o) else if f = 6 then some (.cos o) else if f = 7 then some (.tanh o) else none
  | 0x1D => if f = 0 then some (.qscale o) else none
  | 0x1E => if f ≤ 1 then some (.qpack o) else none
  | 0x1F => if f ≠ 7 ∧ f ≠ 15 then some (.qunpk o) else none
  | 0x20 => if f ≤ 3 then some (.lxch o) else none
  | 0x21 => if f = 0 then some (.lanesAll o) else if f = 1 then some (.lanesAny o) else if f = 2 then some (.lanesSame o) else if f = 3 then some (.lanesMask o) else if f = 4 then some (.lanesFirst o) else none
  | 0x22 => if f ≤ 9 then some (.wred o) else none
  | 0x23 => if f ≤ 3 then some (.scan o) else none
  | 0x24 => if f ≤ 3 then some (.segred o) else none
  | 0x30 => if f ≤ 6 then some (.ld o) else none
  | 0x31 => if f = 0 ∨ f = 2 ∨ f = 4 ∨ f = 5 ∨ f = 6 then some (.st o) else none
  | 0x32 => if f ≤ 12 then some (.atom o) else none
  | 0x33 => if f ≤ 12 ∧ f ≠ 8 then some (.red o) else none
  | 0x34 => if f = 0 then some (.cas o) else none
  | 0x35 => if f ≤ 1 then some (.pref o) else none
  | 0x36 => if f = 0 then some (.stashMap o) else if f = 1 then some (.stashUnmap o) else if f = 2 then some (.stashFlush o) else if f = 3 then some (.stashInv o) else if f = 4 then some (.stashClean o) else none
  | 0x37 => if f ≤ 3 then some (.waita o) else none
  | 0x38 => if f ≤ 5 then some (.fence o) else none
  | 0x39 => if 1 ≤ f ∧ f ≤ 7 then some (.pfence o) else none
  | 0x3A => if f = 0 then some (.qfence o) else none
  | 0x3B => if f = 0 then some (.barArrive o) else if f = 1 then some (.barSync o) else if f = 2 then some (.barSyncPath o) else none
  | 0x3C => if f ≤ 1 ∧ o.a = 61#6 then some (.ringw o) else if f ≤ 1 then some (.ringwCfg o) else none
  | 0x3D => if f ≤ 1 then some (.ringa o) else none
  | 0x40 => if f = 0 then some (.mmaBf16 o) else none
  | 0x41 => if f = 0 then some (.mmaF16 o) else none
  | 0x42 => if f ≤ 3 then some (.mmaNi o) else none
  | 0x43 => if f = 0 then some (.accz o) else none
  | 0x44 => if f ≤ 1 then some (.accld o) else none
  | 0x45 => if f ≤ 4 then some (.accst o) else none
  | 0x50 => if f = 0 then some (.tcopy o) else none
  | 0x51 => if f = 0 then some (.tgath o) else none
  | 0x52 => if f = 0 then some (.tscat o) else none
  | 0x53 => if f ≤ 1 then some (.twalk o) else none
  | 0x54 => if f = 0 then some (.itin o) else none
  | 0x60 => if f = 0 then some (.braLane o) else if f = 1 then some (.braLead o) else if f = 2 then some (.braSplit o) else none
  | 0x61 => if f = 0 then some (.jmpx o) else none
  | 0x62 => if f = 0 then some (.call o) else none
  | 0x63 => if f = 0 then some (.callx o) else none
  | 0x64 => if f = 0 then some (.ret o) else none
  | 0x65 => if f = 0 then some (.lpad o) else none
  | 0x66 => if f = 0 then some (.exit o) else none
  | 0x67 => if f = 0 then some (.yieldOp o) else none
  | 0x68 => if f = 0 then some (.nop o) else none
  | 0x69 => if f = 0 then some (.macroRun o) else none
  | 0x6A => if f = 0 then some (.launch o) else none
  | 0x6B => if f = 0 then some (.waitkids o) else none
  | 0x6C => if f = 0 then some (.tfence o) else none
  | 0x6D => if f = 0 then some (.isync o) else none
  | 0x6E => if f = 0 then some (.trap o) else none
  | 0x6F => if f = 0 then some (.bkpt o) else none
  | 0x70 => if f = 0 then some (.srd o) else none
  | 0x71 => if f = 0 then some (.swr o) else none
  | 0x72 => if f = 0 then some (.purseGet o) else if f = 1 then some (.purseSplit o) else if f = 2 then some (.purseAdd o) else if f = 3 then some (.purseSetrest o) else none
  | 0x73 => if f = 0 then some (.mcload o) else none
  | 0x74 => if f = 0 then some (.tret o) else none
  | _ => none

/-- The instruction that a word stands for, its extension word not yet attached; `none` when `OP` or `F` is not
allotted (check 1 of R38). -/
def decodeWord (w : Word) : Option Instr :=
  instrOf (w.extractLsb' 25 7).toNat (w.extractLsb' 0 4).toNat (Ops.ofWord w 0#32)

/-- The instruction of a word and the word after it, which is its extension word if it has one (R33). -/
def decodePair (w ext : Word) : Option Instr :=
  match decodeWord w with
  | none => none
  | some i =>
    if i.extended then instrOf (w.extractLsb' 25 7).toNat (w.extractLsb' 0 4).toNat (Ops.ofWord w ext)
    else some i

/-- A clause header's fields; `none` when the signature or the zero bits are wrong (R30). -/
def decodeHeader (w : Word) : Option Header :=
  if w.extractLsb' 17 15 = 0x6280#15 then
    some { gsense := w.getLsbD 16, guard := w.extractLsb' 13 3, wait := w.extractLsb' 7 6,
           eng := w.extractLsb' 4 3, n := w.extractLsb' 0 4 }
  else none

/-- The word of a clause header (R29). -/
def Header.toWord (h : Header) : Word :=
  0x6280#15 ++ BitVec.ofBool h.gsense ++ h.guard ++ h.wait ++ h.eng ++ h.n

/-- The fields of an itinerary word (R210). -/
def Itin.ofWord (w : DWord) : Itin :=
  { flags := w.extractLsb' 54 4, peer := w.extractLsb' 48 6, sa := w.extractLsb' 44 4,
    sb := w.extractLsb' 40 4, cr := w.extractLsb' 36 4, red := w.extractLsb' 32 4, imm := w.extractLsb' 0 32 }

/-- The itinerary word of an operation and fields (R210). -/
def Itin.toWord (op : BitVec 6) (c : Itin) : DWord :=
  op ++ c.flags ++ c.peer ++ c.sa ++ c.sb ++ c.cr ++ c.red ++ c.imm

/-- The operation of an itinerary word with given fields (R63, R213): the mode of WAIT, SIGNAL and SETC is in
flags [3:2], and flag 2 selects the second form of ADDC, LOOP, BRC and MARK. -/
def itinOf (op : Nat) (c : Itin) : Option Instr :=
  let mode := (c.flags >>> 2).toNat
  let two := c.flags.getLsbD 2
  match op with
  | 0x01 => some (.send c)
  | 0x02 => some (.recv c)
  | 0x03 => some (.recvred c)
  | 0x04 => some (.reduce c)
  | 0x05 => some (.copy c)
  | 0x06 => some (.mcast c)
  | 0x07 => if mode = 0 then some (.waitSig c) else if mode = 1 then some (.waitFlag c)
            else if mode = 2 then some (.waitSent c) else none
  | 0x08 => if mode = 0 then some (.signalPeer c) else if mode = 1 then some (.signalSet c)
            else if mode = 2 then some (.signalAdd c) else none
  | 0x09 => if mode = 0 then some (.setc c) else if mode = 1 then some (.setcRank c)
            else if mode = 2 then some (.setcCopy c) else none
  | 0x0A => if two then some (.addcWrap c) else some (.addc c)
  | 0x0B => if two then some (.loopGrp c) else some (.loop c)
  | 0x0C => some (.endl c)
  | 0x0D => if two then some (.brcRank c) else some (.brc c)
  | 0x0E => some (.joinq c)
  | 0x0F => if two then some (.markNocompl c) else some (.mark c)
  | 0x10 => some (.halt c)
  | _ => none

/-- The operation an itinerary word stands for (R63), its fields unchecked. -/
def decodeItin (w : DWord) : Option Instr := itinOf (w.extractLsb' 58 6).toNat (Itin.ofWord w)

/-- The 6-bit operation of an itinerary step (R63). -/
def Instr.itinOp : Instr → Option (BitVec 6 × Itin)
  | .send c => some (0x01#6, c)
  | .recv c => some (0x02#6, c)
  | .recvred c => some (0x03#6, c)
  | .reduce c => some (0x04#6, c)
  | .copy c => some (0x05#6, c)
  | .mcast c => some (0x06#6, c)
  | .waitSig c | .waitFlag c | .waitSent c => some (0x07#6, c)
  | .signalPeer c | .signalSet c | .signalAdd c => some (0x08#6, c)
  | .setc c | .setcRank c | .setcCopy c => some (0x09#6, c)
  | .addc c | .addcWrap c => some (0x0A#6, c)
  | .loop c | .loopGrp c => some (0x0B#6, c)
  | .endl c => some (0x0C#6, c)
  | .brc c | .brcRank c => some (0x0D#6, c)
  | .joinq c => some (0x0E#6, c)
  | .mark c | .markNocompl c => some (0x0F#6, c)
  | .halt c => some (0x10#6, c)
  | _ => none

/-- A 32-bit word from four bytes, the lowest address first (R28). -/
def wordOfBytes (b0 b1 b2 b3 : Byte) : Word := b3 ++ b2 ++ b1 ++ b0

/-- The bytes of a word, lowest address first (R28). -/
def bytesOfWord (w : Word) : List Byte :=
  [w.extractLsb' 0 8, w.extractLsb' 8 8, w.extractLsb' 16 8, w.extractLsb' 24 8]

/-- The bytes of a 64-bit word, lowest address first (R210). -/
def bytesOfDWord (w : DWord) : List Byte := bytesOfWord (loWord w) ++ bytesOfWord (hiWord w)

/-- Decodes an instruction from bytes: the instruction and the bytes after it, or why it is refused. Checks of
R38 that need the clause, the role or the level are the machine's. -/
def decodeInstr : List Byte → Except Reject (Instr × List Byte)
  | b0 :: b1 :: b2 :: b3 :: rest =>
    let w := wordOfBytes b0 b1 b2 b3
    match decodeWord w with
    | none => .error .unallotted
    | some i =>
      if i.extended then
        match rest with
        | e0 :: e1 :: e2 :: e3 :: rest' =>
          match decodePair w (wordOfBytes e0 e1 e2 e3) with
          | none => .error .unallotted
          | some j => if j.wellFormed then .ok (j, rest') else .error .illegalFields
        | _ => .error .truncated
      else if i.wellFormed then .ok (i, rest) else .error .illegalFields
  | _ => .error .truncated

/-- Decodes a clause header from bytes (R28 to R30). -/
def decodeHeaderBytes : List Byte → Except Reject (Header × List Byte)
  | b0 :: b1 :: b2 :: b3 :: rest =>
    match decodeHeader (wordOfBytes b0 b1 b2 b3) with
    | none => .error .badHeader
    | some h => if h.ok then .ok (h, rest) else .error .illegalFields
  | _ => .error .truncated

/-- Decodes an itinerary word from bytes (R210). -/
def decodeItinBytes : List Byte → Except Reject (Instr × List Byte)
  | b0 :: b1 :: b2 :: b3 :: b4 :: b5 :: b6 :: b7 :: rest =>
    match decodeItin (pairOf (wordOfBytes b0 b1 b2 b3) (wordOfBytes b4 b5 b6 b7)) with
    | none => .error .unallotted
    | some i => if i.itinOk then .ok (i, rest) else .error .illegalFields
  | _ => .error .truncated

/-- The words of an encoded step, first word first: a header, an instruction word with its extension word, or an
itinerary word as two 32-bit halves; `none` for a step without an encoding. -/
def encodeWords (i : Instr) : Option (List Word) :=
  match i with
  | .clauseIssue h => some [h.toWord]
  | i =>
    match i.opcode with
    | some (op, o) => some (if i.extended then [o.toWord op, o.ext] else [o.toWord op])
    | none =>
      match i.itinOp with
      | some (op, c) => some [loWord (c.toWord op), hiWord (c.toWord op)]
      | none => none

/-- The bytes of an encoded step, lowest address first. -/
def encode (i : Instr) : Option (List Byte) := (encodeWords i).map (fun ws => ws.flatMap bytesOfWord)

/-- The instruction whose words are given as one number, the first word in the low 32 bits: a clause header
when bits [31:17] are those of R29 (no well-formed instruction has them), else a format R word. -/
def decodeTableWord (_nbits w : Nat) : Option Instr :=
  let w0 : Word := BitVec.ofNat 32 w
  match decodeHeader w0 with
  | some h => some (.clauseIssue h)
  | none => decodePair w0 (BitVec.ofNat 32 (w / 2 ^ 32))

end Sys2Proof
end

