-- ==== Sys2Proof/Machine/Firmware.lean ====
section
/-! DEFINITION. The firmware's itineraries (R2, R224), written over the operations of R213. R224 gives what each does, and lists the words of a
ring all-reduce over N chunks as an example; how the others are made, and that c0 gives a length, is the model's (DESIGN CHOICE, log 11). A
ring or halving itinerary takes m from c0, with 0 for 1; a tree takes its root from c0 [9:0] and the number of chunks less 1 from [31:10]. -/

namespace Sys2Proof.Machine.Firmware

/-- A list of itinerary operations; a branch in it names words of the list alone. -/
abbrev Code := List Instr

/-- An itinerary word's fields, all zero. -/
def blank : Itin := { flags := 0#4, peer := 0#6, sa := 0#4, sb := 0#4, cr := 0#4, red := 0#4, imm := 0#32 }

/-- A peer in an itinerary word (R211): an offset from this rank, that of a chunk register, or rank 0. -/
inductive Peer where
  | offset (n : BitVec 6)
  | reg (r : BitVec 4)
  | zero

/-- The fields with a peer. -/
def Peer.put (p : Peer) (c : Itin) : Itin :=
  match p with
  | .offset n => { c with peer := n }
  | .reg r => { c with flags := 2#4, peer := r.setWidth 6 }
  | .zero => { c with flags := 1#4 }

/-! ## Single words -/

/-- c_r := v. -/
def setI (r : BitVec 4) (v : Word) : Instr := .setc { blank with cr := r, imm := v }
/-- c_r := (rank + v) mod N. -/
def rankPlus (r : BitVec 4) (v : Word) : Instr := .setcRank { blank with flags := 4#4, cr := r, imm := v }
/-- c_r := c_q + v. -/
def copyAdd (r q : BitVec 4) (v : Word) : Instr := .setcCopy { blank with flags := 8#4, sa := q, cr := r, imm := v }
/-- c_r := c_q. -/
def copyR (r q : BitVec 4) : Instr := copyAdd r q 0#32
/-- c_r := (c_r − 1) mod N. -/
def decMod (r : BitVec 4) : Instr := .addc { blank with cr := r, imm := 0xFFFF#32 }
/-- c_r := (c_r + 1) mod 2. -/
def flip (r : BitVec 4) : Instr := .addc { blank with cr := r, imm := 0x20001#32 }
/-- c_r := c_r + v, wrapping. -/
def addW (r : BitVec 4) (v : Word) : Instr := .addcWrap { blank with flags := 4#4, cr := r, imm := v }
/-- Sends the chunk c_r of slot 0. -/
def send (r : BitVec 4) (p : Peer) : Instr := .send (p.put { blank with cr := r })
/-- Receives into the chunk c_r of a slot. -/
def recv (slot r : BitVec 4) (p : Peer) : Instr := .recv (p.put { blank with sb := slot, cr := r })
/-- Receives into the chunk c_r of slot 0, reduced with what it holds. -/
def recvred (red r : BitVec 4) (p : Peer) : Instr := .recvred (p.put { blank with cr := r, red := red })
/-- Reduces the chunk c_r of slot 1 into slot 0. -/
def reduce (red r : BitVec 4) : Instr := .reduce { blank with sa := 1#4, cr := r, red := red }
/-- WAIT.sent. -/
def waitSent : Instr := .waitSent { blank with flags := 8#4 }
/-- Marks the chunk c_r and writes 1 to the completion word. -/
def mark (r : BitVec 4) : Instr := .mark { blank with cr := r, imm := 1#32 }
/-- HALT. -/
def halt : Instr := .halt blank

/-! ## Control -/

/-- The conditions of BRC. -/
def eq : BitVec 4 := 0#4
def ne : BitVec 4 := 1#4
def lt : BitVec 4 := 2#4
def ge : BitVec 4 := 3#4

/-- A branch by a number of words. -/
def brc (cc r : BitVec 4) (k : Nat) (words : Int) : Instr :=
  .brc { blank with flags := cc, cr := r, imm := BitVec.ofInt 16 words ++ BitVec.ofNat 16 k }

/-- Code that runs unless a condition holds of c_r. -/
def skipIf (cc r : BitVec 4) (k : Nat) (b : Code) : Code := brc cc r k (b.length + 1) :: b

/-- Code that runs unless c_r is this rank. -/
def skipIfRank (r : BitVec 4) (b : Code) : Code :=
  .brcRank { blank with flags := 4#4, cr := r, imm := BitVec.ofNat 16 (b.length + 1) ++ 0#16 } :: b

/-- Code that runs until a condition holds of c_r. -/
def loopUntil (cc r : BitVec 4) (k : Nat) (b : Code) : Code :=
  brc cc r k (b.length + 2) :: (b ++ [brc ge 0#4 0 (-(b.length + 1 : Int))])

/-- Code that runs c_r times, counting it down to 0. -/
def countdown (r : BitVec 4) (b : Code) : Code := loopUntil eq r 0 (b ++ [addW r (-1)])

/-- Code that runs N + d times. -/
def loopGrp (d : Word) (b : Code) : Code := .loopGrp { blank with flags := 4#4, imm := d } :: (b ++ [.endl blank])

/-- c_r := c_r + N. -/
def addN (r : BitVec 4) : Code := loopGrp 0#32 [addW r 1#32]

/-- Marks the chunk c1 if it has a FINAL bit (R217). -/
def markNext : Code := skipIf ge 1#4 1024 [.markNocompl { blank with flags := 4#4, cr := 1#4 }]

/-! ## Rings: the chunks of N·m in m runs of N, each passed round the ring by itself -/

/-- c3 := m. -/
def takeM : Code := copyR 3#4 0#4 :: skipIf ne 3#4 0 [setI 3#4 1#32]

/-- One pass of N − 1 steps: the chunk c1 goes to the next rank, and the one before it, by rank c4 in its run, comes from the last. -/
def ringPass (receive : Code) : Code :=
  skipIfRank 5#4 (loopGrp (-1) ([send 1#4 (.offset 1#6), addW 1#4 (-1)] ++ skipIf ne 4#4 0 (addN 1#4) ++ [decMod 4#4] ++ receive))

/-- Runs code for each run of N chunks, with c1 the chunk of rank c4 = rank + first in it, and c5 this rank if N is 1. -/
def ringRuns (first : Word) (b : Code) : Code :=
  takeM ++ countdown 3#4 ([rankPlus 4#4 first, copyR 1#4 2#4, copyR 6#4 4#4] ++ countdown 6#4 [addW 1#4 1#32] ++ [rankPlus 5#4 1#32]
    ++ b ++ addN 2#4)

/-- The previous rank of the ring. -/
def previous : Peer := .offset (-1)

/-- `fw.ring.allreduce`. -/
def ringAllreduce (red : BitVec 4) : Code :=
  ringRuns 0#32 (ringPass [recvred red 1#4 previous] ++ [waitSent] ++ markNext ++ ringPass (recv 0#4 1#4 previous :: markNext))
    ++ [mark 15#4, halt]

/-- `fw.ring.reducescatter`. -/
def ringReducescatter (red : BitVec 4) : Code :=
  ringRuns (-1) (ringPass [recvred red 1#4 previous] ++ markNext) ++ [rankPlus 4#4 0#32, mark 4#4, halt]

/-- `fw.ring.allgather`. -/
def ringAllgather : Code :=
  ringRuns 0#32 (markNext ++ ringPass (recv 0#4 1#4 previous :: markNext)) ++ [mark 15#4, halt]

/-! ## Trees: with v this rank's distance from the root, rank v's children are 2v + 1 and 2v + 2 -/

/-- c7 := the number of chunks, c4 := v; c5 leads to the parent, c11 and c12 to the children, and c10 is how many of the ranks from 2v + 1 on
there are. -/
def treePlace : Code :=
  [copyR 8#4 0#4, setI 7#4 1#32] ++ loopUntil lt 8#4 1024 [addW 8#4 (-1024), addW 7#4 1#32]
  ++ [rankPlus 4#4 0#32, copyR 6#4 8#4] ++ countdown 6#4 [decMod 4#4]
  ++ [copyAdd 11#4 4#4 1#32, copyAdd 12#4 4#4 2#32, copyR 6#4 4#4] ++ loopUntil lt 6#4 2 [decMod 5#4, addW 6#4 (-2)] ++ [decMod 5#4]
  ++ [copyAdd 6#4 4#4 1#32] ++ countdown 6#4 [decMod 10#4]
  ++ [addW 10#4 1#32, copyAdd 6#4 4#4 1#32] ++ countdown 6#4 (skipIf eq 10#4 0 [addW 10#4 (-1)])

/-- `fw.tree.bcast`. -/
def treeBcast : Code :=
  treePlace ++ countdown 7#4 (skipIf eq 4#4 0 [recv 0#4 1#4 (.reg 5#4)] ++ skipIf eq 10#4 0 [send 1#4 (.reg 11#4)]
    ++ skipIf lt 10#4 2 [send 1#4 (.reg 12#4)] ++ markNext ++ [addW 1#4 1#32]) ++ [mark 15#4, halt]

/-- `fw.tree.reduce`: the result stands, marked, at the root. -/
def treeReduce (red : BitVec 4) : Code :=
  treePlace ++ countdown 7#4 (skipIf eq 10#4 0 [recvred red 1#4 (.reg 11#4)] ++ skipIf lt 10#4 2 [recvred red 1#4 (.reg 12#4)]
    ++ skipIf eq 4#4 0 [send 1#4 (.reg 5#4)] ++ skipIf ne 4#4 0 markNext ++ [addW 1#4 1#32]) ++ skipIf ne 4#4 0 [mark 15#4] ++ [halt]

/-! ## Recursive halving, then doubling: in each step a rank and the one whose number differs in the bit H = c2 exchange c11 = H·m chunks -/

/-- c_r := ⌊c_r / 2⌋. -/
def halve (r : BitVec 4) : Code := setI 6#4 0#32 :: loopUntil lt r 2 [addW r (-2), addW 6#4 1#32] ++ [copyR r 6#4]

/-- c_r := 2·c_r. -/
def double (r : BitVec 4) : Code := copyR 6#4 r :: countdown 6#4 [addW r 1#32]

/-- c12 := the bit H of this rank; c8 leads to the partner. -/
def partner : Code :=
  [setI 12#4 0#32, rankPlus 4#4 0#32, setI 13#4 0#32]
  ++ loopUntil ne 13#4 0 ([copyR 6#4 2#4, copyR 7#4 4#4]
    ++ countdown 6#4 (skipIf ne 7#4 0 [setI 13#4 1#32, setI 6#4 1#32] ++ skipIf eq 7#4 0 [addW 7#4 (-1)])
    ++ skipIf ne 13#4 0 [copyR 4#4 7#4, flip 12#4])
  ++ [copyR 8#4 2#4] ++ skipIf eq 12#4 0 ([setI 8#4 0#32, copyR 6#4 2#4] ++ countdown 6#4 [decMod 8#4])

/-- One halving step: of the c5-based range, the half of this rank's bit is kept and reduced, through slot 1 where that half lies within it. -/
def halvingStep (red : BitVec 4) : Code :=
  partner ++ [addW 10#4 1#32] ++ skipIf ne 10#4 1 [copyR 15#4 12#4]
  ++ [copyR 13#4 5#4, copyR 14#4 5#4, copyR 6#4 11#4]
  ++ countdown 6#4 (skipIf ne 12#4 0 [addW 13#4 1#32] ++ skipIf eq 12#4 0 [addW 14#4 1#32]) ++ [copyR 5#4 14#4, copyR 6#4 11#4]
  ++ countdown 6#4 (send 13#4 (.reg 8#4) :: skipIf ne 15#4 0 [recv 1#4 14#4 (.reg 8#4), reduce red 14#4]
    ++ skipIf eq 15#4 0 [recvred red 14#4 (.reg 8#4)] ++ [addW 13#4 1#32, addW 14#4 1#32])
  ++ halve 2#4 ++ halve 11#4

/-- One doubling step: the c5-based range goes to the partner, whose range comes. -/
def doublingStep : Code :=
  partner ++ [copyR 13#4 5#4, copyR 1#4 5#4, copyR 6#4 11#4]
  ++ countdown 6#4 (skipIf ne 12#4 0 [addW 1#4 1#32] ++ skipIf eq 12#4 0 [addW 1#4 (-1), addW 5#4 (-1)]) ++ [copyR 6#4 11#4]
  ++ countdown 6#4 ([send 13#4 (.reg 8#4), recv 0#4 1#4 (.reg 8#4)] ++ markNext ++ [addW 13#4 1#32, addW 1#4 1#32])
  ++ double 2#4 ++ double 11#4

/-- `fw.rh.allreduce`. -/
def rhAllreduce (red : BitVec 4) : Code :=
  takeM ++ addN 2#4 ++ halve 2#4 ++ [copyR 6#4 2#4] ++ countdown 6#4 (copyR 7#4 3#4 :: countdown 7#4 [addW 11#4 1#32])
  ++ loopUntil eq 2#4 0 (halvingStep red)
  ++ [waitSent, copyR 1#4 5#4, copyR 6#4 3#4] ++ countdown 6#4 (markNext ++ [addW 1#4 1#32])
  ++ [setI 2#4 1#32, copyR 11#4 3#4] ++ countdown 10#4 doublingStep ++ [setI 1#4 0#32, mark 1#4, halt]

/-! ## The barrier -/

/-- `fw.barrier`: every rank signals rank 0, which signals every rank. -/
def barrier : Code :=
  [rankPlus 4#4 0#32, rankPlus 5#4 1#32] ++ skipIfRank 5#4 (
    skipIf ne 4#4 0 ([setI 1#4 1#32] ++ loopGrp (-1) [.waitSig (Peer.put (.reg 1#4) blank), addW 1#4 1#32]
      ++ [setI 1#4 1#32] ++ loopGrp (-1) [.signalPeer (Peer.put (.reg 1#4) blank), addW 1#4 1#32])
    ++ skipIf eq 4#4 0 [.signalPeer (Peer.put .zero blank), .waitSig (Peer.put .zero blank)]) ++ [halt]

/-! ## The table (R351) -/

/-- The kinds and reduction codes of the 31 firmware itineraries (R351). -/
def kinds : List (Nat × Nat) :=
  let all := fun (k : Nat) => (List.range 7).map (fun (i : Nat) => ((k, i + 1) : Nat × Nat))
  all 1 ++ all 2 ++ [(3, 0), (4, 0)] ++ all 5 ++ all 6 ++ [(7, 0)]

/-- The itinerary of a kind and a reduction code. -/
def code (kind red : Nat) : Code :=
  let r := BitVec.ofNat 4 red
  match kind with
  | 1 => ringAllreduce r
  | 2 => ringReducescatter r
  | 3 => ringAllgather
  | 4 => treeBcast
  | 5 => treeReduce r
  | 6 => rhAllreduce r
  | _ => barrier

/-- The bytes of an itinerary (R210). -/
def bytes (c : Code) : List Byte :=
  c.flatMap (fun i => match i.itinOp with | some (op, f) => bytesOfDWord (f.toWord op) | none => [])

/-- The 128 KiB of the package's 432 GB of DRAM that the firmware has reserved: the itineraries, at 2-KiB steps, and from 64 KiB on the three
command rings (R224, R351: its place is the firmware's). -/
def area : Nat := 131072 * (Config.firmwareArea % 3538944)

/-- The address of itinerary i. -/
def itinerary (i : Nat) : Nat := area + 2048 * i

/-- Whether a DRAM address lies in the itineraries' region, which is read-only (R224). -/
def isCode (pa : Nat) : Bool := decide (area ≤ pa) && decide (pa < area + 65536)

/-- Whether a DRAM address lies in the command rings, which are never given to grids (R351). -/
def isRing (pa : Nat) : Bool := decide (area + 65536 ≤ pa) && decide (pa < area + 131072)

end Sys2Proof.Machine.Firmware
end

