-- ==== Sys2Proof/Machine/Cipher.lean ====
section
/-! DEFINITION. The byte order of memory (R3), and the ciphers that the spec names by their standards: AES-256 (FIPS 197), its Galois/counter
mode for tag groups (R331), and its XTS mode for memory (R357). Bytes are numbers below 256. -/

namespace Sys2Proof.Machine

/-! ## Byte order -/

/-- The number whose little-endian bytes are given (R3). -/
def leNat : List Byte → Nat
  | [] => 0
  | b :: bs => b.toNat + 256 * leNat bs

/-- The little-endian bytes of a number (R3). -/
def leBytes : Nat → Nat → List Byte
  | 0, _ => []
  | n + 1, x => BitVec.ofNat 8 x :: leBytes n (x / 256)

/-- The little-endian bytes of a number, as numbers. -/
def leList : Nat → Nat → List Nat
  | 0, _ => []
  | n + 1, x => x % 256 :: leList n (x / 256)

/-- The number whose little-endian bytes are given as numbers. -/
def leNum : List Nat → Nat
  | [] => 0
  | b :: bs => b + 256 * leNum bs

/-- The number whose bytes are given most significant first. -/
def beNum (bs : List Nat) : Nat := bs.foldl (fun x b => 256 * x + b) 0

/-- The bytes of a number, most significant first. -/
def beList (n x : Nat) : List Nat := (leList n x).reverse

/-! ## AES-256 (FIPS 197) -/

/-- The substitution box in four parts of 64 bytes, the first byte of each in its lowest bits. -/
def aesBox (part : Nat) : Nat :=
  match part with
  | 0 => 0x75B227EBE28012079A059618C323C7041531D871F1E5A534CCF73F362693FDB7C072A49CAFA2D4ADF04759FA7DC982CA76ABD7FE2B670130C56F6BF27B777C63
  | 1 => 0xD2F3FF1021DAB6BCF5389D928F40A351A89F3C507F02F94585334D43FBAAEFD0CF584C4A39BECB6A5BB1FC20ED00D153842FE329B3D63B52A05A6E1B1A2C8309
  | 2 => 0x08AE7A65EAF4566CA94ED58D6D37C8E779E4959162ACD3C25C2406490A3A32E0DB0B5EDE14B8EE4688902A22DC4F816073195D643D7EA7C41744975FEC130CCD
  | _ => 0x16BB54B00F2D99416842E6BF0D89A18CDF2855CEE9871E9B948ED9691198F8E19E1DC186B95735610EF6034866B53E708A8BBD4B1F74DDE8C6B4A61C2E2578BA

/-- The inverse substitution box. -/
def aesUnbox (part : Nat) : Nat :=
  match part with
  | 0 => 0x25D18B6D49A25B76B224D92866A12E084EC3FA420B954CEE3D23C2A632947B54CBE9DEC444438E3487FF2F9B8239E37CFBD7F3819EA340BF38A53630D56A0952
  | 1 => 0x6B8A130103BDAFC1020F3FCA8F1E2CD00645B3B80558E4F70AD3BC8C00ABD890849D8DA75746155EDAB9EDFD5048706C92B6655DCC5CA4D41698688664F6F872
  | 2 => 0xF45ACD78FEC0DB9A2079D2C64B3E56FC1BBE18AA0E62B76F89C5291D711AF1476EDF751CE837F9E28535ADE72274AC9673E6B4F0CECFF297EADC674F4111913A
  | _ => 0x7D0C2155631469E126D677BA7E042B17619953833CBBEBC8B0F52AAE4D3BE0A0EF9CC9939F7AE52D0D4AB519A97F51605FEC8027591012B131C7078833A8DD1F

/-- SubBytes on a byte, and its inverse. -/
def aesSub (x : Nat) : Nat := (aesBox (x / 64) >>> (8 * (x % 64))) % 256
def aesUnsub (x : Nat) : Nat := (aesUnbox (x / 64) >>> (8 * (x % 64))) % 256

/-- The exclusive or of two lists of bytes. -/
def xorBytes (xs ys : List Nat) : List Nat := List.zipWith (fun (a b : Nat) => Nat.xor a b) xs ys

/-- Multiplication by x in GF(2^8). -/
def aesDouble (a : Nat) : Nat := if a < 128 then 2 * a else Nat.xor (2 * a) 0x11B

/-- Multiplication in GF(2^8) by a constant below 16. -/
def aesTimes (c a : Nat) : Nat :=
  let a2 := aesDouble a
  let a4 := aesDouble a2
  let t := fun (i x : Nat) => if c.testBit i then x else 0
  Nat.xor (Nat.xor (t 0 a) (t 1 a2)) (Nat.xor (t 2 a4) (t 3 (aesDouble a4)))

/-- A word of the key schedule put through RotWord (where `turn`) and SubWord. -/
def aesWord (turn : Bool) (w : List Nat) : List Nat := ((if turn then w.drop 1 ++ w.take 1 else w)).map aesSub

/-- The 60 words of the key schedule of a 32-byte key, as its 240 bytes. -/
def aesSchedule (key : List Nat) : List Nat :=
  (List.range 52).foldl (fun (ws : List Nat) k =>
    let i := k + 8
    let last := (ws.drop (4 * i - 4)).take 4
    let temp :=
      if i % 8 = 0 then xorBytes (aesWord true last) [2 ^ (i / 8 - 1), 0, 0, 0]
      else if i % 8 = 4 then aesWord false last
      else last
    ws ++ xorBytes ((ws.drop (4 * i - 32)).take 4) temp) key

/-- ShiftRows, by a multiple of the row's number. -/
def aesShift (turn : Nat) (x : List Nat) : List Nat :=
  (List.range 16).map (fun i => x.getD ((i + 4 * turn * (i % 4)) % 16) 0)

/-- MixColumns with the coefficients of a column, or its inverse with theirs. -/
def aesMix (cs : List Nat) (x : List Nat) : List Nat :=
  (List.range 16).map (fun i =>
    (List.range 4).foldl (fun (v : Nat) j => Nat.xor v (aesTimes (cs.getD ((j + 4 - i % 4) % 4) 0) (x.getD (i / 4 * 4 + j) 0))) 0)

/-- A round key. -/
def roundKey (ks : List Nat) (r : Nat) : List Nat := (ks.drop (16 * r)).take 16

/-- Enciphers a block of 16 bytes under a 32-byte key. -/
def aesEncrypt (key block : List Nat) : List Nat :=
  let ks := aesSchedule key
  let x := (List.range 13).foldl (fun (x : List Nat) r =>
    xorBytes (aesMix [2, 3, 1, 1] (aesShift 1 (x.map aesSub))) (roundKey ks (r + 1))) (xorBytes block (roundKey ks 0))
  xorBytes (aesShift 1 (x.map aesSub)) (roundKey ks 14)

/-- Deciphers a block of 16 bytes under a 32-byte key. -/
def aesDecrypt (key block : List Nat) : List Nat :=
  let ks := aesSchedule key
  let x := (List.range 13).foldl (fun (x : List Nat) r =>
    aesMix [14, 11, 13, 9] (xorBytes ((aesShift 3 x).map aesUnsub) (roundKey ks (13 - r)))) (xorBytes block (roundKey ks 14))
  xorBytes ((aesShift 3 x).map aesUnsub) (roundKey ks 0)

/-! ## Galois/counter mode (SP 800-38D), as R331 uses it -/

/-- The product of two blocks in GF(2^128), a block being the number of its bytes most significant first. -/
def gcmTimes (x y : Nat) : Nat :=
  ((List.range 128).foldl (fun (zv : Nat × Nat) i =>
    let z := if x.testBit (127 - i) then Nat.xor zv.1 zv.2 else zv.1
    (z, if zv.2 % 2 = 1 then Nat.xor (zv.2 / 2) (0xE1 * 2 ^ 120) else zv.2 / 2)) (0, y)).1

/-- The blocks of a list of bytes, the last filled up with zeros. -/
def gcmBlocks (bs : List Nat) : List Nat :=
  (List.range ((bs.length + 15) / 16)).map (fun i =>
    let b := (bs.drop (16 * i)).take 16
    beNum (b ++ List.replicate (16 - b.length) 0))

/-- The block that a counter enciphers to: a 12-byte IV and a 32-bit counter. -/
def gcmBlock (key : Nat) (iv : List Nat) (n : Nat) : List Nat := aesEncrypt (leList 32 key) (iv ++ beList 4 n)

/-- The first 12 bytes of the tag over additional data and ciphertext. -/
def gcmTag (key : Nat) (iv aad text : List Nat) : List Nat :=
  let h := beNum (aesEncrypt (leList 32 key) (List.replicate 16 0))
  let s := (gcmBlocks aad ++ gcmBlocks text ++ [8 * aad.length * 2 ^ 64 + 8 * text.length]).foldl (fun (s b : Nat) => gcmTimes (Nat.xor s b) h) 0
  (xorBytes (beList 16 s) (gcmBlock key iv 1)).take 12

/-- A byte of the key stream. -/
def gcmPad (key : Nat) (iv : List Nat) (n : Nat) : Nat := (gcmBlock key iv (2 + n / 16)).getD (n % 16) 0

/-! ## XTS (IEEE 1619), as R357 uses it -/

/-- The tweak of the next block: multiplication by x in GF(2^128), little-endian. -/
def xtsNext (t : Nat) : Nat := if t < 2 ^ 127 then 2 * t else Nat.xor (2 * t - 2 ^ 128) 0x87

/-- The two blocks of a 32-byte sector put through AES under a 64-byte key: the data key in its first 32 bytes, the tweak key after it. -/
def xtsSector (cipher : List Nat → List Nat → List Nat) (key tweak x : Nat) : Nat :=
  let t0 := aesEncrypt (leList 32 (key / 2 ^ 256)) (leList 16 tweak)
  let t1 := leList 16 (xtsNext (leNum t0))
  let block := fun (t : List Nat) (b : Nat) => xorBytes (cipher (leList 32 key) (xorBytes (leList 16 b) t)) t
  leNum (block t0 x ++ block t1 (x / 2 ^ 128))

/-- Enciphers and deciphers a sector of 32 bytes, given as its little-endian number. -/
def xtsEncrypt (key tweak x : Nat) : Nat := xtsSector aesEncrypt key tweak x
def xtsDecrypt (key tweak x : Nat) : Nat := xtsSector aesDecrypt key tweak x

end Sys2Proof.Machine
end

