-- ==== Sys2Proof/Machine/Map.lean ====
section
/-! DEFINITION. Sparse data by key: lists of key and value pairs in one canonical form, keys strictly rising and no
entry equal to the value an unlisted key reads as. -/

namespace Sys2Proof

/-- A sparse map from numbers, in canonical form. -/
abbrev FMap (α : Type) := List (Nat × α)

/-- The entry of a key, if listed. -/
def FMap.find {α : Type} (m : FMap α) (k : Nat) : Option α :=
  match m with
  | [] => none
  | (j, v) :: rest => if j = k then some v else FMap.find rest k

/-- The value of a key, with the value an unlisted key reads as. -/
def FMap.get {α : Type} (m : FMap α) (d : α) (k : Nat) : α := (FMap.find m k).getD d

/-- Removes a key, wherever it is listed. -/
def FMap.erase {α : Type} (m : FMap α) (k : Nat) : FMap α :=
  match m with
  | [] => []
  | (j, v) :: rest => if j = k then FMap.erase rest k else (j, v) :: FMap.erase rest k

/-- Lists a value under a key, keeping keys strictly rising. -/
def FMap.insert {α : Type} (m : FMap α) (k : Nat) (v : α) : FMap α :=
  match m with
  | [] => [(k, v)]
  | (j, u) :: rest =>
    if k < j then (k, v) :: (j, u) :: rest
    else if k = j then (k, v) :: rest
    else (j, u) :: FMap.insert rest k v

/-- Writes a value under a key, where `d` is what an unlisted key reads as. -/
def FMap.put {α : Type} [DecidableEq α] (m : FMap α) (d : α) (k : Nat) (v : α) : FMap α :=
  if v = d then FMap.erase m k else FMap.insert m k v

/-- Every key of the map is above a bound and keys rise strictly; no value is the default. -/
def FMap.wfFrom {α : Type} [DecidableEq α] (d : α) (lo : Nat) : FMap α → Bool
  | [] => true
  | (k, v) :: rest => decide (lo ≤ k) && decide (v ≠ d) && FMap.wfFrom d (k + 1) rest

/-- The canonical form. -/
def FMap.wf {α : Type} [DecidableEq α] (d : α) (m : FMap α) : Bool := FMap.wfFrom d 0 m

/-- Writes a list of key and value pairs in order. -/
def FMap.putAll {α : Type} [DecidableEq α] (m : FMap α) (d : α) (ps : List (Nat × α)) : FMap α :=
  ps.foldl (fun m p => FMap.put m d p.1 p.2) m

/-- The first element of a list that meets a test, with the rest of the list without it. -/
def takeFirst {α : Type} (p : α → Bool) : List α → Option (α × List α)
  | [] => none
  | x :: xs => if p x then some (x, xs) else (takeFirst p xs).map (fun (y, ys) => (y, x :: ys))

/-- The sorted list with a number added (no repeats). -/
def addNat (x : Nat) : List Nat → List Nat
  | [] => [x]
  | y :: ys => if x < y then x :: y :: ys else if x = y then y :: ys else y :: addNat x ys

end Sys2Proof
end

