-- ==== Sys2Proof/Machine/State.lean ====
section
/-! DEFINITION. The machine's state as plain data: everything the spec gives the machine, the model's own fields
(messages under way, which agent moves next), the reasons a step can stop, and the state after reset. -/

namespace Sys2Proof.Machine

/-- Reasons the machine stops with a fault. -/
inductive Fault where
  /-- Power has been removed by the package trip at 120 °C; nothing runs until power cycles (R356). Raised by the
  step. Safe: the part executes nothing in that state. -/
  | powerRemoved
  deriving DecidableEq, Repr

/-- Reasons a step has no meaning. -/
inductive Refusal where
  /-- The instruction's meaning is not written; raised by its arm of `exec` only. Safe: no claim is made. -/
  | notModelled (mnemonic : String)
  deriving DecidableEq, Repr

/-! ## Warps -/

/-- A failure reported by a reply: its cause, the failed lanes, the address of the lowest (R149, R305). -/
structure Fail where
  cause : Cause
  lanes : LaneMask
  addr : DWord
  deriving DecidableEq, Repr

/-- An operation of a warp that is outstanding in a wait class (R14, R31, R148, R179, R197): its renamed
destinations still to be installed, the values returned, how many replies it awaits. Destination keys: vector
register n, lane i is 32n+i; uniform kn is 2048+n; predicate n, lane i is 4096+32n+i. -/
structure Out where
  id : Nat
  /-- wait class 0–5 -/
  cls : Nat
  /-- has a destination register, so a switch marker waits for it (R35) -/
  hasDest : Bool
  /-- its stores go to companion memory or to memory behind a UALink station, which only a system release awaits (R230) -/
  far : Bool := false
  keys : List Nat
  vals : FMap Word
  waiting : Nat
  fail : Option Fail
  /-- arithmetic flags merged when the result returns (R19) -/
  flags : Word
  /-- an abort discards the result, which is still awaited (R317) -/
  discard : Bool := false
  deriving DecidableEq, Repr

/-- What a trap records (R300, R304, R305). -/
structure TrapRec where
  cause : Cause
  lanes : LaneMask
  addr : DWord
  clause : Word
  index : Nat
  exec : LaneMask
  inmac : Bool
  mop : Nat
  deferred : Bool
  /-- the lane addresses of the access that faulted, which the fault buffer keeps (R310) -/
  addrs : FMap DWord := []
  deriving DecidableEq, Repr

/-- The trap block (R17, R305). -/
structure TrapBlock where
  tcause : Word := 0#32
  tclause : Word := 0#32
  tindex : Word := 0#32
  tlanes : Word := 0#32
  taddrLo : Word := 0#32
  taddrHi : Word := 0#32
  deriving DecidableEq, Repr

/-- The clause a warp is executing (R12, R29, R31). -/
structure Clause where
  /-- offset of the header from the code address -/
  base : Word
  exec : LaneMask
  hdr : Header
  /-- index of the next instruction -/
  idx : Nat
  /-- byte offset of the next instruction from the header -/
  off : Nat
  /-- the new `lpc` of each lane that takes a control transfer (R12) -/
  targets : FMap Word
  /-- lanes marked resting by YIELD in this clause (R123) -/
  yields : LaneMask
  /-- lanes leaving by BRA.SPLIT in this clause (R115) -/
  leaving : LaneMask
  /-- their target and the mask of their live set: their records are written when the clause ends (R115) -/
  split : Option (Word × Nat)
  /-- the instruction at `idx` has issued and been charged, and waits or replays (R145, R148) -/
  charged : Bool
  /-- commands that the waiting instruction joins (R170, R175) -/
  awaits : List Nat
  /-- the span that a BRA taken backward fills the loop buffer with when its transfer takes effect (R35, R135) -/
  fill : Option (Nat × Nat) := none
  /-- the lane addresses with which a replayed access is made again (R310, R312) -/
  addrs : FMap DWord := []
  deriving DecidableEq, Repr

/-- A macro operation (R46). -/
structure MacroOp where
  word : Word
  ext : Word
  subst : BitVec 4
  deriving DecidableEq, Repr

/-- A macro in progress (R125, R127): the caller's fields and the operation reached; the registers it has written
with their values before it. -/
structure MacroRun where
  index : Nat
  /-- the image when the macro began (R128) -/
  ops : List MacroOp
  imm : Word
  d : BitVec 6
  a : BitVec 6
  b : BitVec 6
  la : Bool
  lb : Bool
  s : Bool
  /-- the caller's fields are to be taken again from the MACRO's words, after a restore (R127) -/
  retake : Bool
  /-- operation j -/
  j : Nat
  /-- outstanding operations numbered from here on are the macro's -/
  firstOut : Nat
  /-- destination keys written and the values they held before the macro -/
  saved : FMap Word
  deriving DecidableEq, Repr

/-- The trap frame (R306): each lane's `lpc`, p1–p7, and the trapped clause with its executing lanes and the index to
resume at; a macro that was trapped resumes at its operation (R126). -/
structure Frame where
  lpc : FMap Word
  preds : FMap LaneMask
  cl : Option Clause
  mac : Option MacroRun
  /-- failures of drained results, to take at TRET (R303) -/
  pend : List Fail := []
  /-- what is left of the charge set aside for the trapped MX clause (R181) -/
  res : Option (Bool × Nat × Nat) := none
  deriving DecidableEq, Repr

/-- What a warp waits for. Unless said otherwise the instruction is taken up again when the condition holds. -/
inductive Wait where
  | none
  /-- the switch marker (R35) -/
  | marker
  /-- nothing outstanding in the named classes (R31, R149) -/
  | classes (mask : BitVec 6)
  /-- every arithmetic result returned (R19, R134) -/
  | arith
  /-- loads, atomics and WAITAs returned (R230) -/
  | loads
  /-- a release at a scope satisfied: stores acknowledged, observed writes performed (R230) -/
  | release (scope : Nat)
  /-- the release that a warp holds, at the store, RED, ATOM, CAS, LAUNCH, RINGW or arrival that it keeps from issuing:
  loads returned and, at tile scope or wider, the release satisfied (R168, R230) -/
  | held (scope : Nat)
  /-- the warp's stores performed in L1 (R169) -/
  | stores
  /-- the phase of a barrier in which the warp arrived (R172) -/
  | barrier (n : Nat) (phase : Bool) (path : Bool)
  /-- a ring slot's phase (R177), and whether a flip or a RINGW has set it since; completed by RINGA_COMPLETE -/
  | ring (r slot : Nat) (full met : Bool)
  /-- a word (R166): address, memory key (2^70 plus the offset in the scratchpad), condition, comparand, scope,
  destination code, and the number of the wait, which its reads bear; completed by a reply or a wake -/
  | word (addr : DWord) (key : Nat) (cond : BitVec 4) (cmp : Word) (scope : Nat) (dest : BitVec 6) (num : Nat)
  /-- every child retired (R133) -/
  | kids
  /-- named commands completed (R170, R175) -/
  | commands (ids : List Nat)
  /-- matrix instructions and commands naming a ring (R175) -/
  | ringFree (r : Nat)
  /-- free request entries (R150) -/
  | entries (n : Nat)
  /-- a free entry of the tile task table (R178) -/
  | taskSlot
  /-- no pending store to the grain at this key in the core (R243) -/
  | pending (key size : Nat)
  /-- no request of the warp to these bytes under way: an access that L1 serves keeps program order with it (R228, R229) -/
  | same (key len : Nat)
  /-- no fill of a stash sector of the workgroup under way (R163) -/
  | sectors
  /-- parked on a fault token (R310, R312) -/
  | token (t : Nat)
  /-- the results of the macro's operation just issued (R125) -/
  | macroOp
  /-- the `WAIT` of the clause that an answered warp resumes in (R301) -/
  | header
  /-- reads of page tables, or of the instruction, at homes that must first be asked (R309): the address -/
  | walk (va : Nat)
  /-- reads of memory that the instruction makes by requests of its own -/
  | asks
  /-- a trap waits for outstanding results before its handler (R302); completed by HANDLER_ENTRY -/
  | drain
  deriving DecidableEq, Repr

/-- A warp (R7 to R19, R27, R315). -/
structure Warp where
  present : Bool
  /-- serial number of its workgroup -/
  wg : Nat
  /-- `wid` (R16) -/
  wid : Nat
  /-- 0 general, 1 copy, 2 matrix, 3 vector (R39) -/
  role : Nat
  formed : Bool
  /-- v0–v47: key 32n+lane -/
  vregs : FMap Word
  /-- k0–k11 -/
  kregs : FMap Word
  /-- per lane; an unlisted lane holds 0xFFFF_FFFC (R11) -/
  lpc : FMap Word
  /-- p1–p7 -/
  preds : FMap LaneMask
  tids : FMap Nat
  wident : Word
  aflags : Word
  amask : Word
  tb : TrapBlock
  /-- the trap frame of a warp in its handler (R306) -/
  frame : Option Frame
  /-- a trap taken whose handler is not yet entered, or parked on a token (R302, R310) -/
  trap : Option TrapRec
  /-- failures found together with one that is being taken: they are taken after it, one after another (R303) -/
  pendFails : List Fail
  /-- the `clock.hi` latch (R16) -/
  clockHi : Option Word
  resting : LaneMask
  /-- stopped for a forced yield (R296) -/
  stopped : Bool
  /-- sent to the resting point since the workgroup was last placed (R294) -/
  rested : Bool
  cl : Option Clause
  mac : Option MacroRun
  outs : List Out
  wait : Wait
  /-- the scope of a rel or acqrel fence not yet satisfied (R230) -/
  held : Option Nat
  /-- writes observed through L1 and not yet performed at home (R230): request numbers -/
  observed : List Nat
  /-- the loop buffer: first offset, bytes, words by offset (R135) -/
  loopLo : Nat
  loopHi : Nat
  loopWords : FMap Word
  /-- the partition of its core it has a slot in (R289, R291) -/
  part : Nat
  /-- in the active set (R291) -/
  active : Bool
  age : Nat
  /-- what is left of the charge set aside for the MX clause selected (R181): whether from the grace counters, units, bytes -/
  res : Option (Bool × Nat × Nat) := none
  deriving DecidableEq, Repr

/-- The vacant warp: no lane is live. -/
def Warp.vacant : Warp :=
  { present := false, wg := 0, wid := 0, role := 0, formed := false, vregs := [], kregs := [], lpc := [],
    preds := [], tids := [], wident := 0#32, aflags := 0#32, amask := 0#32, tb := {}, frame := none,
    trap := none, pendFails := [], clockHi := none, resting := 0#32, stopped := false, rested := false, cl := none,
    mac := none, outs := [], wait := .none, held := none, observed := [], loopLo := 0, loopHi := 0,
    loopWords := [], part := 0, active := false, age := 0 }

/-! ## Workgroups -/

/-- A stash window (R22, R161): valid sectors are numbered from the window's start, dirty bytes likewise. -/
structure Window where
  base : DWord
  /-- length in 32-byte sectors -/
  len : Nat
  /-- scratchpad offset in 32-byte units -/
  off : Nat
  pol : Nat
  scope : Nat
  valid : List Nat
  dirty : List Nat
  /-- sectors whose fill failed, until an access takes the failure (R149) -/
  failed : FMap Cause := []
  deriving DecidableEq, Repr

/-- A stage ring (R22, R174): base and stride in 32-byte units. -/
structure Ring where
  n : Nat
  base : Nat
  stride : Nat
  /-- phase bits, 1 full -/
  phase : BitVec 8
  deriving DecidableEq, Repr

/-- A named barrier (R25). -/
structure Barrier where
  phase : Bool
  count : Nat
  arrivals : Nat
  deriving DecidableEq, Repr

/-- A spawn record (R24, R115). The spec gives neither the address of spawn memory in the image area nor the layout of a record's 256 bytes: the
records stand here as a list, with no bytes in memory (DESIGN CHOICE, log 32). -/
structure SpawnRec where
  tid : Nat
  target : Word
  aflags : Word
  /-- p1–p7 in bits [7:1] -/
  preds : BitVec 8
  regs : FMap Word
  origin : Nat
  amask : Word
  deriving DecidableEq, Repr

/-- An operand of an MMA: a ring slot, or far rows with the translations taken at issue (R183, R185). -/
inductive MmaSrc where
  | ring (r slot : Nat)
  | far (base : DWord) (pitch : Nat) (xl : FMap Nat)
  deriving DecidableEq, Repr

/-- What a matrix-queue entry does (R186, R192). -/
inductive MxOp where
  /-- format: 0 bf16, 1 f16, 2 nested integer with planes, signedness, byte-select and scale registers -/
  | mma (fmt ka kb : Nat) (sa sb : Bool) (bsel steps : Nat) (a b : MmaSrc) (scaleA scaleB : FMap Word)
  | accz
  | accld (bf : Bool) (addr : DWord) (pitch : Nat) (xl : FMap Nat)
  | accst (form : Nat) (addr : DWord) (pitch : Nat) (xl : FMap Nat) (flip : Option (Nat × Nat))
  deriving DecidableEq, Repr

/-- An entry of a workgroup's matrix queue (R178, R186). -/
structure MxEntry where
  id : Nat
  wid : Nat
  out : Nat
  acc : Nat
  op : MxOp
  released : Bool
  granted : Bool
  relTime : Nat
  step : Nat
  clause : Word
  index : Nat
  /-- the lanes active at issue, for a failure taken later -/
  lns : LaneMask
  /-- the stores that joins cover for it (R233): request numbers -/
  cover : List Nat := []
  deriving DecidableEq, Repr

/-- A Porter command (R197 to R203): its record, whether its charge is debited and it has started, the element
reached, and the targets already done for a RANK transfer. -/
structure PorterCmd where
  id : Nat
  queue : Nat
  wid : Nat
  out : Nat
  /-- 0 TCOPY, 1 TGATH, 2 TSCAT, 3 TWALK.coo, 4 TWALK.csr -/
  kind : Nat
  record : List Byte
  started : Bool
  granted : Bool
  /-- the charge that its purse was found not to cover (R201) -/
  held : Option Nat
  /-- the element reached, of the target reached (R199) -/
  elem : Nat
  /-- the row of a gather or scatter reached, with its index, read once (R200) -/
  idx : Option (Nat × Nat) := none
  target : Nat
  /-- RANK: each target's package and context, and the generation they are addressed with (R215) -/
  targets : List (Nat × Nat)
  rgen : BitVec 4
  /-- parked on a token; 0 for none -/
  token : Nat
  clause : Word
  index : Nat
  /-- the stores that joins cover for it (R233): request numbers -/
  cover : List Nat := []
  deriving DecidableEq, Repr

/-- Where a workgroup stands (R289). -/
inductive Place where
  | unstarted | running | saved | complete
  deriving DecidableEq, Repr

/-- Why a workgroup was saved, for its purses on resumption (R295). -/
inductive SaveCause where
  | yield | exhaustion | displaced | kids
  deriving DecidableEq, Repr

/-- A workgroup (R7, R10, R17, R22 to R25, R284, R294, R314). -/
structure Workgroup where
  serial : Nat
  x : Nat
  y : Nat
  z : Nat
  size : Nat
  /-- privilege level (R21) -/
  level : Nat
  grid : Word
  core : Nat
  depth : Nat
  ipurse : Nat
  mpurse : Nat
  rest : Word
  grace : DWord
  tvec : Word
  scopechk : Word
  graceUnits : Nat
  graceBytes : Nat
  resting : Bool
  /-- the exhaustion latch (R142, R294) -/
  latch : Bool
  /-- a warp has stopped for the latch (R142) -/
  latchTaken : Bool
  /-- a forced yield has begun (R296) -/
  forced : Bool
  topup : Bool
  refill : Bool
  pktIpurse : Nat
  pktMpurse : Nat
  queue : Nat
  cls : Nat
  share : Nat
  copyWarps : Nat
  matrixWarps : Nat
  vectorWarps : Nat
  /-- the purses held when the S4 forced them to zero (R295, R297) -/
  heldPurses : Option (Nat × Nat)
  /-- the core that a displacement frees for this saved workgroup (R289 rule 3) -/
  heldCore : Option Nat := none
  saveCause : SaveCause
  padUnits : Nat
  pad : FMap Byte
  /-- poisoned sectors of the allotment: offset / 32 (R359) -/
  padPoison : List Nat := []
  windows : FMap Window
  rings : FMap Ring
  bars : FMap Barrier
  macros : FMap (List MacroOp)
  spawn : List SpawnRec
  spawnSerial : Nat
  /-- targets whose 4,096-clock timer has run out (R117) -/
  due : List Word
  accAllot : Nat
  /-- key 4096·tile + 64m + n; an unlisted element is +0.0 -/
  acc : FMap Word
  /-- tile marks: 1 suspect, 2 poison, 3 both -/
  marks : FMap Nat
  mx : List MxEntry
  porter : List PorterCmd
  /-- grids launched by the workgroup and not retired (R133) -/
  kids : List Word
  place : Place
  status : Nat
  code : DWord
  arg : DWord
  space : Nat
  deriving DecidableEq, Repr

/-- The workgroup at its launch values (R17, R27) with no purse: nothing runs in it. -/
def Workgroup.vacant : Workgroup :=
  { serial := 0, x := 0, y := 0, z := 0, size := 0, level := 0, grid := 0#32, core := 0, depth := 0,
    ipurse := 0, mpurse := 0, rest := 0xFFFFFFFC#32, grace := 0x0001000000001000#64, tvec := 0xFFFFFFFC#32,
    scopechk := 0#32, graceUnits := 0, graceBytes := 0, resting := false, latch := false, latchTaken := false,
    forced := false, topup := false, refill := false, pktIpurse := 0, pktMpurse := 0, queue := 0, cls := 0,
    share := 0, copyWarps := 0, matrixWarps := 0, vectorWarps := 0, heldPurses := none, saveCause := .yield,
    padUnits := 0, pad := [], windows := [], rings := [], bars := [], macros := [], spawn := [],
    spawnSerial := 1, due := [], accAllot := 0, acc := [], marks := [], mx := [], porter := [], kids := [],
    place := .complete, status := 0, code := 0#64, arg := 0#64, space := 0 }

/-! ## Grids, queues and packets -/

/-- A packet read from a queue and not complete (R284 to R287). -/
structure Packet where
  id : Nat
  queue : Nat
  /-- address of the packet (0 for a child grid's packet copy) -/
  bytes : List Byte
  started : Bool
  /-- a type-2 packet's dependencies not yet satisfied -/
  deps : List DWord
  /-- token of a parked dependency or completion-word access -/
  token : Nat
  /-- the grid it launched -/
  grid : Word
  /-- status so far: 0 OK, else the largest status code -/
  status : Nat
  /-- the context of an itinerary packet -/
  ctx : Nat
  finished : Bool
  deriving DecidableEq, Repr

/-- A grid (R7, R284, R288). -/
structure Grid where
  id : Word
  /-- 0 when launched by a packet -/
  parent : Word
  parentWg : Nat
  packet : Nat
  depth : Nat
  order : Nat
  queue : Nat
  level : Nat
  space : Nat
  /-- the queue's TOPUP grant (R142) -/
  topup : Bool
  gx : Nat
  gy : Nat
  gz : Nat
  bytes : List Byte
  /-- linear index of the next workgroup to start -/
  nextWg : Nat
  done : Nat
  status : Nat
  started : Bool
  barred : List Nat
  aborted : Bool
  macros : FMap (List MacroOp)
  deriving DecidableEq, Repr

/-- A registered queue (R282, R283). -/
structure Queue where
  desc : DWord
  space : Nat
  readIdx : Nat
  notified : Nat
  deriving DecidableEq, Repr

/-! ## Caches, homes and requests -/

/-- A core's coherence state for a sector group (R241). -/
inductive LineState where
  | s | t | x | p
  deriving DecidableEq, Repr

/-- What a core (or its stash agent, or a tile directory holding a partial) holds of a grain (R241, R251): the
valid bytes, the dirty ones, the grant's version, and for a partial its operation and words. -/
structure Line where
  who : Party
  grain : Nat
  size : Nat
  st : LineState
  cells : FMap Byte
  dirty : List Nat
  ver : Byte
  /-- operation in P: 16·(64-bit) + F -/
  aop : Nat
  words : FMap Nat
  deriving DecidableEq, Repr

/-- A store waiting in a core's pending-store buffer for its home's acknowledgement (R243). -/
structure PendStore where
  core : Nat
  req : Nat
  cells : List Host.Cell
  wg : Nat
  /-- performed at its home (R227): newer writes may stand there by now -/
  done : Bool := false
  deriving DecidableEq, Repr

/-- A write-back buffer entry (R244, R250). -/
structure WbBuf where
  who : Party
  grain : Nat
  ver : Byte
  cells : List Host.Cell
  /-- the stash maintenance that awaits its acknowledgement, if one does (R164) -/
  dest : Option (WarpId × Nat) := none
  deriving DecidableEq, Repr

/-- The kinds of request that reach a home (R249). -/
inductive ReqKind where
  | own | wi | si | wtr | wtw | atomic | acc
  deriving DecidableEq, Repr

/-- How a reply's bytes reach one destination register of a lane (R42, R153): offset in the reply, length,
signed, and the destination key. -/
structure Part where
  lane : Nat
  off : Nat
  len : Nat
  sgn : Bool
  key : Nat
  deriving DecidableEq, Repr

/-- Who receives a reply. -/
inductive ReqDest where
  /-- a warp's outstanding operation, with the parts it fills; the lanes for a failure -/
  | warp (w : WarpId) (out : Nat) (parts : List Part) (lanes : LaneMask)
  | waybill (t : Ticket)
  /-- a prefetch (R155) -/
  | prefetch
  /-- the fill of a sector of a stash window (R163): workgroup, window, sector -/
  | window (serial n sec : Nat)
  /-- a write-back of a stash sector that no instruction awaits, of a workgroup (R253, R299) -/
  | forced (serial : Nat)
  /-- a read of a WAITA (R166): the number of its wait, and whether a wake or a restore asked for it -/
  | waita (w : WarpId) (num : Nat) (woken : Bool)
  /-- the companion, or a core of another package -/
  | outside (id : Nat)
  /-- the home settling a grain for an engine's access -/
  | settle
  /-- an access of an engine, a context, a packet or a walker (R258): its answer is kept in `Fab.asks` -/
  | engine
  deriving DecidableEq, Repr

/-- A request on its way to a home (R42, R249, R258 to R263). -/
structure Req where
  id : Nat
  kind : ReqKind
  /-- memory key of its first byte -/
  key : Nat
  len : Nat
  grain : Nat
  /-- F of R156, 13 LD, 14 ST, 15 CAS -/
  op : Nat
  operand : Nat
  /-- the new value of a CAS -/
  newval : Nat
  cells : List Host.Cell
  scope : Nat
  /-- recorded by the scope checker (R235) -/
  checked : Bool
  schk : Bool
  /-- from a workgroup whose `scopechk`.OFF is set (R262) -/
  off : Bool
  comb : Bool
  reissued : Bool
  /-- expects a value -/
  ret : Bool
  keyid : Nat
  who : Party
  /-- the originating unit, and the narrowest scope that holds all constituents (R235, R262) -/
  unit : BitVec 24
  span : Nat
  /-- the virtual address, for a failure's report -/
  vaddr : DWord
  dest : ReqDest
  /-- the request slot of its core, which its ticket names (R263) -/
  slot : Nat
  /-- the incarnation of its sender (R255) -/
  inc : Byte
  /-- 0 before stage 1, then the stage that holds it; 4 once it has left the last -/
  stage : Nat
  deriving DecidableEq, Repr

/-- An access that an engine, a communicator context, a packet, the control path or a table walk makes by a request of its own (R257,
R258): who made it, its request, what it reads or writes, and its answer: a failure, and the bytes read. It stands until its
agent's step is done. -/
structure Ask where
  agent : Nat
  /-- for a table walk or an instruction fetch (R309) -/
  walk : Bool
  req : Nat
  kind : ReqKind
  key : Nat
  len : Nat
  cells : List Host.Cell
  op : Nat
  operand : Nat
  ans : Option (Option Cause × List Byte)
  deriving DecidableEq, Repr

/-- A directory entry (R245). -/
structure Entry where
  size : Nat
  svalid : Bool
  sunit : BitVec 24
  sscope : Nat
  /-- package pointers in order of acquisition, each with its tile vector -/
  ptrs : List (Nat × BitVec 16)
  owner : Option Party
  tvec : BitVec 16
  aop : Nat
  ver : Byte
  /-- 0 U, 1 T, 2 X, 3 A, 4 TI, 5 XR, 6 AM -/
  st : Nat
  deriving DecidableEq, Repr

/-- The entry a grain without one has (R245). -/
def Entry.u : Entry :=
  { size := 0, svalid := false, sunit := 0#24, sscope := 0, ptrs := [], owner := none, tvec := 0#16,
    aop := 0, ver := 0#8, st := 0 }

/-- A grain in a transient state: the request at its head, the agents whose answers it awaits, what has been
collected, and the requests that wait in order (R248). -/
structure Transient where
  grain : Nat
  head : Nat
  await : List Party
  partials : List (Nat × FMap Nat)
  /-- the state before: 1 T, 2 X, 3 A -/
  was : Nat
  waiting : List Nat
  /-- what completion leaves: 0 nothing held (U); 1 a clean copy at the owner (T); 2 the holders but the oldest
  package; 3 the owner, whose bytes were only read -/
  mode : Nat
  /-- bytes an owner outside sent without giving them up -/
  cells : List Host.Cell
  /-- when the answers were asked for -/
  since : Nat
  /-- the incarnation that the home's messages to them bear (R255) -/
  inc : Byte
  deriving DecidableEq, Repr

/-- A waybill (R264) and whether it is quarantined after a timeout (R267). -/
structure Waybill where
  ticket : Ticket
  /-- 1: 64 bits -/
  w : Bool
  opf : Nat
  ret1 : Bool
  ret2 : Bool
  first : Req
  second : Req
  opnd1 : Nat
  quarantined : Bool
  deriving DecidableEq, Repr

/-- A reduction slot of the package waystation (R271, R272). -/
structure Slot where
  id : Nat
  /-- the aperture load it serves -/
  req : Nat
  group : Nat
  /-- the group entry and its members (base, key id, package) as the load found them -/
  entry : List Byte
  members : List (Nat × Nat × Nat)
  round : Nat
  off : Nat
  accepted : List Nat
  failed : List Nat
  /-- members whose tag has matched and whose data is still to be read, with the line's data as it stood at the tag's read (R271, R281) -/
  tagged : FMap (List Byte)
  vals : List Nat
  deriving DecidableEq, Repr

/-- A reduce-aperture line load: its issuer and the parts of each lane (R152, R272). -/
structure ApLoad where
  id : Nat
  warp : WarpId
  out : Nat
  group : Nat
  round : Nat
  off : Nat
  core : Nat
  user : Bool
  parts : List Part
  lanes : LaneMask
  vaddr : DWord
  deriving DecidableEq, Repr

/-- A group-table entry (R270) with its quarantine mark and its count of incomplete loads (R273). -/
structure Group where
  bytes : List Byte
  quarantined : Bool
  incomplete : Nat
  deriving DecidableEq, Repr

/-- A tile directory's record of a core that holds a grain: its L1, its stash windows, or both (R245). -/
structure TileEntry where
  grain : Nat
  core : Nat
  l1 : Bool
  stash : Bool
  deriving DecidableEq, Repr

/-- Home memory, directory, caches and the combining network. -/
structure Fab where
  lines : List Line
  pend : List PendStore
  wbuf : List WbBuf
  reqs : List Req
  dir : FMap Entry
  trans : List Transient
  tdirs : List TileEntry
  waybills : List Waybill
  groups : FMap Group
  slots : List Slot
  apLoads : List ApLoad
  /-- accesses of engines, contexts, packets and walks that go by requests -/
  asks : List Ask
  /-- Caravan counters (R275): 0–2 merges at the stages, 3 uncombined, 4 SPLIT, 5 timeouts, 6 late replies, 7 stale generation, 8 stale incarnation -/
  counters : FMap Word
  deriving DecidableEq, Repr

/-! ## Courier -/

/-- A send made and not acknowledged (R213, R214). -/
structure CSend where
  rank : Nat
  seq : Nat
  slot : Nat
  chunk : Nat
  granted : Bool
  /-- its charge has been debited (R221) -/
  paid : Bool
  /-- transmitted -/
  sent : Bool
  deriving DecidableEq, Repr

/-- What a context holds about a peer (R362). -/
structure PeerState where
  sends : Nat
  recvs : Nat
  grants : List Nat
  signals : Nat
  deriving DecidableEq, Repr

/-- What a context waits for at its current word. -/
inductive CWait where
  | none
  /-- a receive: rank, match number, slot, chunk, reduction code, source slot -/
  | chunk (rank seq slot chunk red src : Nat)
  | signal (rank : Nat)
  | flag
  | sent
  /-- the send limit of 8 (R213) -/
  | limit
  /-- a COPY or REDUCE reached and waiting for the data path (R220): slots, chunk, reduction code, charged -/
  | path (sa sb chunk red : Nat) (paid : Bool)
  /-- commands of the starting workgroup (R218) -/
  | join (ids : List Nat)
  /-- a receive that its purse does not cover (R221): bytes -/
  | purse (bytes : Nat)
  /-- the tile governor's leave (R201) -/
  | power
  deriving DecidableEq, Repr

/-- A communicator context (R206 to R222). -/
structure Ctx where
  num : Nat
  /-- 0 idle, 1 bound: running until it is ending -/
  st : Nat
  gen : BitVec 4
  quarantined : Bool
  /-- the descriptor as read at the start, then the rank map's N entries (R206) -/
  desc : List Byte
  regs : FMap Word
  pc : DWord
  loops : List (DWord × Nat)
  ops : Nat
  /-- the word being executed, fetched once (R210) -/
  word : Option DWord := none
  /-- the leaf that a stop's record gives as its address (R238) -/
  leaf : Option DWord := none
  final : List Nat
  sends : List CSend
  peers : FMap PeerState
  wait : CWait
  /-- the token it is parked on, 0 for none (R222) -/
  parked : Nat
  /-- writes of its start or of its end still to be made: address and bytes (R208, R222) -/
  todo : List (DWord × List Byte)
  /-- it is ending: 0 by HALT, else the fault code (R208) -/
  ending : Option Nat
  /-- the words of an MCAST not yet queued: ranks (R213) -/
  mcast : List Nat
  /-- starting workgroup serial, its warp and outstanding operation; 0 for a packet -/
  wg : Nat
  wid : Nat
  out : Nat
  packet : Nat
  purse : Nat
  /-- an op of it is held for its workgroup's purse (R221) -/
  held : Bool
  drops : Nat
  space : Nat
  level : Nat
  id : Nat
  /-- the stores that joins cover for its reads (R218, R233): request numbers -/
  cover : List Nat := []
  deriving DecidableEq, Repr

/-- An idle context. -/
def Ctx.idle (n : Nat) : Ctx :=
  { num := n, st := 0, gen := 0#4, quarantined := false, desc := [], regs := [], pc := 0#64, loops := [],
    ops := 0, final := [], sends := [], peers := [], wait := .none, parked := 0, todo := [], ending := none, mcast := [], wg := 0, wid := 0, out := 0, packet := 0,
    purse := 0, held := false, drops := 0, space := 0, level := 0, id := 0 }

/-- A posted-reservation piece of a Porter's RANK transfer (R215). -/
structure Piece where
  id : Nat
  wg : Nat
  cmd : Nat
  /-- the target's package and context, and the generation -/
  pkg : Nat
  ctx : Nat
  gen : BitVec 4
  buf : Nat
  /-- the bytes, by offset in the slot -/
  cells : List Host.Cell
  /-- how many elements it carries -/
  count : Nat
  deriving DecidableEq, Repr

/-- The Courier (R206 to R222). -/
structure Courier where
  /-- the context whose turn it is -/
  cur : Nat
  ctxs : FMap Ctx
  /-- context served last (R220), and the chunk op on the path: context, kind (0 send, 1 copy, 2 reduce), index -/
  last : Nat
  path : Option (Nat × Nat × Nat)
  pieces : List Piece
  /-- pieces of other packages' Porters granted here, whose bytes are awaited (R215) -/
  posted : List PostedReq := []
  deriving DecidableEq, Repr

/-! ## Outbound messages -/

/-- A message that leaves the modelled package. -/
inductive OutMsg where
  | invalidate (grain : Nat) (target : Party) (inc : Byte)
  | recallHeld (grain : Nat) (target : Party) (toT : Bool) (inc : Byte)
  /-- asks an owner outside for its current bytes, which it keeps (R249) -/
  | fetchOwner (grain : Nat) (target : Party) (inc : Byte)
  | cancelled (grain : Nat) (target : Party) (inc : Byte)
  /-- acknowledges a write-back that was accepted -/
  | writeBackAck (grain : Nat) (target : Party) (inc : Byte)
  | reply (id : Nat) (r : Reply) (inc : Byte)
  /-- what the companion-link proxy asks the companion for (R254): 0 exclusive, 1 shared and tracked, 2 uncached -/
  | companion (kind key len : Nat) (inc : Byte)
  | peerAnswer (id peer : Nat) (r : Reply)
  | peerError (id peer : Nat)
  | grant (pkg : Nat) (m : CtxMsg)
  | chunk (pkg : Nat) (m : CtxMsg) (bytes : List Byte)
  | chunkAck (pkg : Nat) (m : CtxMsg) (ok : Bool)
  | signal (pkg : Nat) (m : CtxMsg)
  | postedRequest (pkg : Nat) (m : PostedReq)
  | postedAnswer (pkg piece : Nat) (granted : Bool)
  | postedData (pkg : Nat) (m : PostedReq) (cells : List Host.Cell)
  | postedAck (pkg : Nat) (m : PostedReq) (ok : Bool)
  | flit (port : Nat) (f : Flit)
  | ack (port : Nat) (seq : Byte)
  | nak (port : Nat) (seq : Byte)
  | verdict (port msg : Nat) (pass : Bool)
  /-- a drain marker of a channel of a class: 0–2 adaptive, 3 and 4 the escape channel's lanes (R327, R335) -/
  | marker (port round cls ch : Nat)
  | drainDone (pkg : Nat)
  | interrupt
  | mailboxAnswer (master status : Nat)
  | ringBase (master : Nat) (base : DWord)
  | publishAnswer (fromPeer : Bool) (sender status : Nat)
  /-- a stack or port that failed in training, left down (R350) -/
  | trainingFailure (isPort : Bool) (n : Nat)
  | report (master : Nat) (words : List Nat) (signature : Nat)
  deriving DecidableEq, Repr

/-! ## Host paths and package -/

/-- An address space (R309). -/
structure Space where
  root : DWord
  /-- address of the granted key-id bitmap -/
  keys : DWord
  deriving DecidableEq, Repr

/-- What a token's answer acts on (R312). -/
inductive Parked where
  | warp (w : WarpId)
  | porter (wg cmd : Nat)
  | ctx (n : Nat)
  | packetDep (packet : Nat)
  | packetWord (packet : Nat)
  | grid (packet : Nat)
  | peer (r : PeerReq)
  deriving DecidableEq, Repr

/-- A fault-buffer entry (R310): token and what is parked; cancelled when its workgroup is saved (R312). -/
structure FaultEntry where
  token : Nat
  what : Parked
  cancelled : Bool
  /-- the lane addresses of the faulting access of a warp (R310) -/
  addrs : FMap DWord := []
  deriving DecidableEq, Repr

/-- The fields of a record of the host fault queue (R311). -/
structure Rec where
  kind : Nat
  cause : Nat
  grid : Word := 0#32
  x : Nat := 0
  y : Nat := 0
  z : Nat := 0
  wident : Word := 0#32
  ctx : Nat := 0
  queue : Nat := 0
  core : Nat := 0
  pkg : Nat := Config.pkgid
  addr : DWord := 0#64
  clause : Word := 0#32
  deferred : Bool := false
  inmac : Bool := false
  mop : Nat := 0
  index : Nat := 0
  lanes : Word := 0#32
  elem : Nat := 0
  extra : DWord := 0#64
  token : Nat := 0
  deriving DecidableEq, Repr

/-- A command whose completion is pending (R297, R313, R334, R335). -/
structure PendCmd where
  id : Nat
  cmd : Cmd
  /-- 0 VACATE, 1 TLBINV, 2 DRAIN, 3 KEYROTATE -/
  kind : Nat
  grid : Word
  cores : List Nat
  space : Nat
  base : Nat
  len : Nat
  /-- requests and commands translated under an old entry -/
  old : List Nat
  deriving DecidableEq, Repr

/-- One direction's key slots (R331, R334). -/
structure KeySlots where
  slot0 : Option Nat
  slot1 : Option Nat
  salt0 : Nat
  salt1 : Nat
  active : Bool
  counter0 : Nat
  counter1 : Nat
  rotating : Bool
  deriving DecidableEq, Repr

/-- No keys loaded. -/
def KeySlots.none : KeySlots :=
  { slot0 := Option.none, slot1 := Option.none, salt0 := 0, salt1 := 0, active := false, counter0 := 0, counter1 := 0,
    rotating := false }

/-- What waits to leave on a port: a flit in plaintext with the number under which its verdicts go (0 for none), a verdict on a flit
forwarded under a number (R333), or the marker of a drain round for a class (R335). -/
inductive OutItem where
  | flit (f : Flit) (num : Nat)
  | verdict (num : Nat) (pass : Bool)
  | marker (round cls : Nat)
  deriving DecidableEq, Repr

/-- A flit received and not yet released (R333): its sequence number on the link, its plaintext, the port and number under which it was
forwarded, whether its own group verified, whether it was forwarded before that, how many hops before forwarded it early and have not sent
their verdicts, and how many pass verdicts of theirs are to follow it. -/
structure Skid where
  seq : Nat
  flit : Flit
  out : Option (Nat × Nat)
  own : Option Bool
  early : Bool := false
  need : Nat := 0
  relay : Nat := 0
  deriving DecidableEq, Repr

/-- A fabric link of a port (R330 to R335). -/
structure Link where
  up : Bool
  /-- skid mode for groups that begin, and for the group being gathered -/
  skid : Bool
  groupSkid : Bool
  tx : KeySlots
  rx : KeySlots
  nextSeq : Byte
  expSeq : Byte
  /-- flits sent and not acknowledged, oldest first, each with its plaintext -/
  unacked : List (Flit × Flit)
  /-- flits of the inbound group being gathered -/
  group : List Flit
  /-- flits of the outbound group so far, as sent -/
  openGroup : List Flit
  /-- what waits to be sent -/
  outq : List OutItem
  /-- the sequence numbers under which flits with a number left -/
  sentAs : FMap Nat := []
  replays : Nat
  held : List Skid
  /-- drain rounds whose markers have arrived -/
  markers : List Nat
  deriving DecidableEq, Repr

/-- A link that is down. -/
def Link.down : Link :=
  { up := false, skid := false, groupSkid := false, tx := KeySlots.none, rx := KeySlots.none, nextSeq := 0#8, expSeq := 0#8,
    unacked := [], group := [], openGroup := [], outq := [], replays := 0, held := [], markers := [] }

/-- A region declared for publication (R354). -/
structure Region where
  base : DWord
  len : DWord
  pubIsPeer : Bool
  pub : Nat
  verAddr : DWord
  version : Nat
  deriving DecidableEq, Repr

/-- A tile's governor and thermal state (R355, R356). -/
structure Gov where
  cap : Nat
  /-- requests waiting for leave, oldest first: (workgroup or context + 2^32, entry) -/
  queue : List (Nat × Nat)
  hold : Bool
  throttled : Bool
  deriving DecidableEq, Repr

/-- A governor with the default cap (R355). -/
def Gov.default : Gov := { cap := 280, queue := [], hold := false, throttled := false }

/-- A core pair's self-test state (R195): fenced sub-arrays (bits 3–0 the even core, 7–4 the odd), steps since
the last pattern, tiles written since the last passing pattern as (workgroup, tile). -/
structure Pair where
  fenced : BitVec 8
  steps : Nat
  written : List (Nat × Nat)
  /-- the clove interval in force (R195, R360: a new one takes effect at the next pattern) -/
  interval : Nat
  deriving DecidableEq, Repr

/-- A pair at reset. -/
def Pair.fresh : Pair := { fenced := 0#8, steps := 0, written := [], interval := 4096 }

/-- Host paths of the package (R282, R309 to R312, R324 to R345). -/
structure HostPaths where
  queues : FMap Queue
  /-- for each priority, the queue for which the dispatcher last placed a workgroup (R288) -/
  served : FMap Nat
  spaces : FMap Space
  faults : List FaultEntry
  /-- faults that found the buffer full: each takes an entry, and posts its record, when one frees; what faulted is parked (R310) -/
  faultWait : List (FaultEntry × Rec) := []
  nextToken : Nat
  ignoredAnswers : Nat
  /-- fault ring: base and size in records (0: not registered), indexes, sequence number, on-die buffer, waiting posts -/
  fqBase : DWord
  fqSize : Nat
  fqWrite : Nat
  fqRead : Nat
  fqSeq : Nat
  fqBuffer : List (List Byte)
  fqWaiting : List (List Byte)
  cmds : List PendCmd
  /-- the write index that each master's doorbell has given its command ring, and how many of its commands have been read (R344, R345) -/
  cmdWrite : FMap Nat := []
  cmdRead : FMap Nat := []
  recallTmo : Nat
  replyTmo : Nat
  routes : FMap DWord
  threshold : Nat
  links : FMap Link
  /-- payloads ejected here of messages that have not ended, by source, class and logical channel (R330) -/
  ejected : FMap (List (List Byte)) := []
  /-- the reserved forward-buffer entries in use at each other package, and the messages that wait for one (R328) -/
  forwards : FMap Nat := []
  forwardWait : List (Nat × OutMsg) := []
  /-- drain sweep: round in progress, or none -/
  drainRound : Option Nat
  /-- packages at which the sweep has completed -/
  drained : List Nat
  /-- what was quarantined when the sweep began: (0, context), (1, group), (2, waybill ticket) -/
  swept : List (Nat × Nat)
  peers : FMap DWord
  /-- per peer: consecutive timeouts, outstanding request numbers -/
  peerTimeouts : FMap Nat
  peerReqs : FMap (List Nat)
  incarnations : FMap Byte
  /-- writes to the control window dropped (R344) -/
  controlDrops : Nat
  deriving DecidableEq, Repr

/-- Package, ownership, power (R350 to R360). -/
structure Package where
  /-- bring-up stage, 0 before power-good -/
  stage : Nat
  /-- claims: master, priority, record address, in order of arrival -/
  claims : List (Nat × Nat × DWord)
  windowOpen : Bool
  owner : Option Nat
  /-- commands still queued in the rings of former owners, by master (R353) -/
  oldQueue : FMap Nat
  pendingOwner : Option Nat
  handoverAt : Nat
  regions : FMap Region
  keys : FMap Nat
  clove : Nat
  stackErrors : FMap Word
  tileErrors : FMap Word
  tripped : Bool
  /-- the status every mailbox reports: 0, 0xE1 or 0xE2 -/
  mailbox : Nat
  failedStacks : List Nat
  failedPorts : List Nat
  tiles : FMap Gov
  pairs : FMap Pair
  deriving DecidableEq, Repr

/-! ## The state -/

/-- The whole machine: one package, with the home memory and directory of the pod. -/
structure State where
  /-- the warp and workgroup whose turn it is; the others are below -/
  w : Warp
  g : Workgroup
  warps : List Warp
  wgs : List Workgroup
  grids : List Grid
  packets : List Packet
  /-- home memory by key: 2^80·(cipher, 0 for plaintext) + 2^57·(package of a LOCAL address, or 1,023 for COMMON, companion and peer
  memory) + physical address; a sector's bytes stand under the cipher that `sealed` names -/
  mem : List Host.Cell
  /-- the sectors enciphered under a key, by place / 32: 1 + the key that their bytes were last written under (R357) -/
  sealed : FMap Nat := []
  /-- poisoned sectors: place / 32 -/
  poison : List Nat
  fab : Fab
  courier : Courier
  host : HostPaths
  pkg : Package
  /-- the 64-bit timebase (R16) -/
  clock : DWord
  /-- messages and happenings under way, oldest first -/
  events : List Instr
  /-- which of the agents that can move does so at each coming step; the timebase picks when empty -/
  order : List Nat
  outbox : List OutMsg
  /-- the next identifier to hand out, and the count of free values drawn -/
  nextId : Nat
  freeCount : Nat
  /-- the engine entry, context, packet or walk whose accesses are being made -/
  acting : Nat
  deriving DecidableEq, Repr

/-- Empty caches, directory and combining stores. -/
def Fab.empty : Fab :=
  { lines := [], pend := [], wbuf := [], reqs := [], dir := [], trans := [], tdirs := [], waybills := [],
    groups := [], slots := [], apLoads := [], asks := [], counters := [] }

/-- The Courier after package reset: every context idle with generation 0 (R209), and context 0 the first in the round-robin (DESIGN CHOICE, log
39). -/
def Courier.empty : Courier := { cur := 0, ctxs := [], last := 63, path := none, pieces := [] }

/-- The host paths after package reset. -/
def HostPaths.empty : HostPaths :=
  { queues := [], served := [], spaces := [], faults := [], nextToken := 1, ignoredAnswers := 0, fqBase := 0#64, fqSize := 0,
    fqWrite := 0, fqRead := 0, fqSeq := 0, fqBuffer := [], fqWaiting := [], cmds := [], 
    recallTmo := 1000, replyTmo := 2000, routes := [], threshold := 16, links := [], drainRound := none,
    drained := [], swept := [], peers := [], peerTimeouts := [], peerReqs := [], incarnations := [],
    controlDrops := 0 }

/-- The package before power-good: stage 0, no owner, default clove interval (R350, R360). -/
def Package.empty : Package :=
  { stage := 0, claims := [], windowOpen := false, owner := none, oldQueue := [], pendingOwner := none, handoverAt := 0,
    regions := [], keys := [], clove := 4096, stackErrors := [], tileErrors := [], tripped := false, mailbox := 0,
    failedStacks := [], failedPorts := [], tiles := [], pairs := [] }

/-- The machine right after reset: nothing placed, memory zero and unpoisoned, power-good about to come. -/
def State.reset : State :=
  { w := Warp.vacant, g := Workgroup.vacant, warps := [], wgs := [], grids := [], packets := [], mem := [],
    poison := [], fab := Fab.empty, courier := Courier.empty, host := HostPaths.empty, pkg := Package.empty,
    clock := 0#64, events := [], order := [], outbox := [], nextId := 1, freeCount := 0, acting := 0 }

end Sys2Proof.Machine
end

