-- ==== Sys2Proof/Machine/Flits.lean ====
section
/-! DEFINITION. The sending side of the pod fabric: flit headers and CRC, message classes, tag groups, routes, virtual channels, and what waits
on a port (R323 to R332). -/

namespace Sys2Proof

/-! ## Flits (R330) -/

/-- A field of a flit's header. -/
def Flit.bits (f : Flit) (hi lo : Nat) : Nat := bitsNat f.header.toNat hi lo
def Flit.crc (f : Flit) : Nat := f.bits 63 48
def Flit.seq (f : Flit) : Nat := f.bits 47 40
def Flit.cls (f : Flit) : Nat := f.bits 39 38
def Flit.kslot (f : Flit) : Bool := f.header.getLsbD 34
def Flit.gpos (f : Flit) : Nat := f.bits 33 31
def Flit.dst (f : Flit) : Nat := f.bits 30 21
def Flit.src (f : Flit) : Nat := f.bits 20 11
def Flit.vc (f : Flit) : Nat := f.bits 37 36
def Flit.lane (f : Flit) : Nat := f.bits 35 35

/-- The virtual channel of a flit among the five of its class: 0–2 adaptive, 3 and 4 the escape channel's lanes A and B (R327). -/
def Flit.channel (f : Flit) : Nat := if f.vc = 3 then 3 + f.lane else f.vc

/-- Whether two flits belong to one class, source, destination and logical channel: one keeps behind the other. -/
def Flit.sameWay (f g : Flit) : Bool := f.cls == g.cls && f.dst == g.dst && f.src == g.src && f.bits 10 5 == g.bits 10 5

/-- A header with the virtual channel that the flit takes. -/
def Flit.onChannel (f : Flit) (ch : Nat) : Flit :=
  { f with header := BitVec.ofNat 64 (f.bits 63 38 * 2 ^ 38 + (if ch < 3 then ch * 2 ^ 36 else 3 * 2 ^ 36 + (ch - 3) * 2 ^ 35) + f.bits 34 0) }

/-- A header with other values of `CRC`, `SEQ`, `KSLOT` and `GPOS`. -/
def Flit.withLink (f : Flit) (crc seq : Nat) (kslot : Bool) (gpos : Nat) : Flit :=
  let keep := f.bits 39 35 * 2 ^ 35 + f.bits 30 0
  { f with header := BitVec.ofNat 64 (crc * 2 ^ 48 + seq % 256 * 2 ^ 40 + (if kslot then 2 ^ 34 else 0) + gpos * 2 ^ 31 + keep) }

/-- Whether a flit goes no further than this package. -/
def Flit.ends (f : Flit) : Bool := f.cls == 3 || f.dst == Config.pkgid

/-- One bit of the CRC. -/
def crcBit (c : BitVec 16) : BitVec 16 := if c.getLsbD 15 then (c <<< 1) ^^^ 0x8BB7#16 else c <<< 1

/-- One byte of the CRC, most significant bit first. -/
def crcByte (c : BitVec 16) (b : Byte) : BitVec 16 :=
  (List.range 8).foldl (fun c _ => crcBit c) (c ^^^ (b.setWidth 16 <<< 8))

end Sys2Proof

namespace Sys2Proof.Machine

/-- The CRC of a flit (R330): over its 128 bytes with the field zero. -/
def flitCrc (f : Flit) : Nat :=
  (((leBytes 8 (f.header.toNat % 2 ^ 48)) ++ f.payload).foldl crcByte 0xFFFF#16).toNat

/-! ## Message classes (R326) -/

/-- The class of a message to another package: 0 REQ, 1 RSP, 2 BULK; none for one that does not travel in the fabric (R326). -/
def OutMsg.cls : OutMsg → Option Nat
  | .chunk _ _ _ | .postedData _ _ _ => some 2
  | .invalidate _ _ _ | .recallHeld _ _ _ _ | .fetchOwner _ _ _ | .cancelled _ _ _ | .writeBackAck _ _ _ | .reply _ _ _
  | .grant _ _ | .chunkAck _ _ _ | .signal _ _ | .postedRequest _ _ | .postedAnswer _ _ _ | .postedAck _ _ _ => some 1
  | _ => none

/-- The class of a message under way (R326). -/
def msgClass : Instr → Option Nat
  | .waystationArrival _ _ | .own _ | .wi _ | .si _ | .wtr _ | .wtw _ | .atHome _ | .acc _ | .writeBack _ _ _ _ _
  | .partialReturn _ _ _ _ | .cleanEvictionNotice _ _ _ | .memberReadReply _ _ => some 0
  | .memoryReply _ _ | .replySplit _ _ | .split _ | .invalidation _ _ | .recallHeld _ _ _ | .cancelled _ _
  | .invalidationAcknowledgement _ _ _ | .recallAnswer _ _ _ _ _ | .grant _ | .chunkAcknowledgement _ _ | .signalArrival _
  | .postedReservationRequest _ | .postedGrant _ _ => some 1
  | .chunkData _ _ => some 2
  | _ => none

/-- The logical channel of a message's flits (R330): the communicator context for BULK, otherwise 0. -/
def OutMsg.chan : OutMsg → Nat
  | .chunk _ m _ => m.ctx
  | .postedData _ m _ => m.ctx
  | _ => 0

/-- The flits of a message of this package, of a class and on a logical channel, before a link fills in its own fields (R330). The layouts of
messages are not given: how many flits a message takes and what they hold are free values, by the message's number. -/
def messageFlits (number dst cls chan : Nat) : List Flit :=
  let n := 1 + Config.messageFlits number
  (List.range n).map (fun i =>
    { header := BitVec.ofNat 64 (cls * 2 ^ 38 + dst % 1024 * 2 ^ 21 + Config.pkgid * 2 ^ 11 + chan % 64 * 2 ^ 5
        + (if i = 0 then 2 ^ 4 else 0) + (if i + 1 = n then 2 ^ 3 else 0))
      payload := (Config.messagePayload number i ++ List.replicate 120 0#8).take 120 })

/-! ## Tag groups (R331) -/

/-- The IV of a group: the salt, then the slot's group counter, each little-endian as all memory is (R3; DESIGN CHOICE, log 10). -/
def groupIv (salt counter : Nat) : List Nat := leList 4 salt ++ leList 8 counter

/-- The payload bytes of a group that its tag covers: 588 of the 600. -/
def groupText (g : List Flit) : List Byte := (g.flatMap (fun f => f.payload)).take 588

/-- The additional data: the five headers with `CRC` and `SEQ` zeroed. -/
def groupAad (g : List Flit) : List Byte := g.flatMap (fun f => leBytes 8 (f.header.toNat % 2 ^ 40))

/-- The tag of a group: the first 96 bits of the AES-256-GCM tag. -/
def groupTag (key salt counter : Nat) (g : List Flit) : BitVec 96 :=
  BitVec.ofNat 96 (leNum (gcmTag key (groupIv salt counter) ((groupAad g).map (fun b => b.toNat)) ((groupText g).map (fun b => b.toNat))))

/-- Encrypts or decrypts the payload of the flit at a position of its group; the tag's bytes are left alone. -/
def cipherFlit (key salt counter pos : Nat) (f : Flit) : Flit :=
  { f with payload := f.payload.zipIdx.map (fun (b, i) =>
      let n := 120 * pos + i
      if n < 588 then b ^^^ BitVec.ofNat 8 (gcmPad key (groupIv salt counter) n) else b) }

/-- The key, salt and counter of a slot, if it is loaded. -/
def KeySlots.use (k : KeySlots) (slot : Bool) : Option (Nat × Nat × Nat) :=
  if slot then k.slot1.map (fun x => (x, k.salt1, k.counter1)) else k.slot0.map (fun x => (x, k.salt0, k.counter0))

/-- A group has passed under a slot. -/
def KeySlots.next (k : KeySlots) (slot : Bool) : KeySlots :=
  if slot then { k with counter1 := (k.counter1 + 1) % 2 ^ 64 } else { k with counter0 := (k.counter0 + 1) % 2 ^ 64 }

/-- Clears a slot. -/
def KeySlots.clear (k : KeySlots) (slot : Bool) : KeySlots :=
  if slot then { k with slot1 := Option.none, salt1 := 0, counter1 := 0 } else { k with slot0 := Option.none, salt0 := 0, counter0 := 0 }

/-! ## Links and routes (R324, R325, R327) -/

/-- The link of a port. -/
def State.link (s : State) (port : Nat) : Link := FMap.get s.host.links Link.down port

/-- Changes the link of a port. -/
def State.modLink (s : State) (port : Nat) (f : Link → Link) : State :=
  { s with host := { s.host with links := FMap.put s.host.links Link.down port (f (s.link port)) } }

/-- The route entry of a destination (R324). -/
def HostPaths.route (h : HostPaths) (dst : Nat) : Nat := (FMap.get h.routes 0#64 dst).toNat
def State.route (s : State) (dst : Nat) : Nat := s.host.route dst

/-- The valid non-minimal ports of a route entry. -/
def nmPorts (e : Nat) : List Nat :=
  ((List.range 4).filter (fun i => bitNat e (48 + i))).map (fun i => bitsNat e (28 + 5 * i) (24 + 5 * i))

/-- The output queue of a port in flits. -/
def State.queueOf (s : State) (port : Nat) : Nat :=
  ((s.link port).outq.filter (fun x => match x with | .flit _ _ => true | _ => false)).length

/-- The port on which this package injects a message (R325). -/
def State.injectPort (s : State) (dst : Nat) : Nat :=
  let e := s.route dst
  let port := e % 32
  if bitNat e 62 then port
  else
    let other := (nmPorts e).find? (fun p => (s.link p).up
      && (!(s.link port).up || decide (s.queueOf p + s.host.threshold < s.queueOf port)))
    other.getD port

/-- The free credits of a virtual channel of a port: those that no unacknowledged flit holds (R325, R327). -/
def Link.freeCredits (l : Link) (port cls ch : Nat) : Nat :=
  Config.channelCredits port cls ch - (l.unacked.filter (fun p => p.2.cls == cls && p.2.channel == ch)).length

/-- The virtual channel that a flit takes on a port (R325, R327): the adaptive one of its class with the most free credits; without a
credit, or once it is in the escape channel, lane A towards the intermediate of its minimal route, or lane B on the last hop. -/
def Link.channelFor (l : Link) (h : HostPaths) (port : Nat) (f : Flit) : Option Nat :=
  let e := h.route f.dst
  let free := l.freeCredits port f.cls
  let best := if free 0 < free 1 then (if free 1 < free 2 then 2 else 1) else if free 0 < free 2 then 2 else 0
  let lane := if bitNat e 62 then 4 else 3
  let escape := if e % 32 = port ∧ 0 < free lane then some lane else none
  if f.cls = 3 then some f.channel
  else if f.vc ≠ 3 ∧ 0 < free best then some best
  else escape

/-- The ports that lead to a neighbour (R323): those of the direct routes whose links are up. -/
def State.usedPorts (s : State) : List Nat :=
  s.host.routes.foldl (fun l p =>
    if p.2.getLsbD 63 && p.2.getLsbD 62 && (s.link (p.2.toNat % 32)).up then addNat (p.2.toNat % 32) l else l) []

/-! ## Sending (R327, R331, R332) -/

/-- The key slot of the next flit: its group's, or the one that groups now begin under. -/
def Link.slot (l : Link) : Bool := match l.openGroup with | f :: _ => f.kslot | [] => l.tx.active

/-- The virtual channel by which something that waits on a port can leave now, behind what still waits ahead of it: a flit with a credit while
fewer than 128 are unacknowledged, a verdict once its flit has left, a marker once no flit of its class is ahead. A flit without a credit keeps
back only those of its own way (R327, R347). -/
def Link.leaves (l : Link) (h : HostPaths) (port : Nat) (ahead : List OutItem) : OutItem → Option Nat
  | .flit f _ =>
    if l.unacked.length < 128 ∧ (l.tx.use l.slot).isSome ∧ !(ahead.any (fun x =>
        match x with | .flit g _ => g.sameWay f | .marker _ c => c == f.cls | .verdict _ _ => false)) then l.channelFor h port f
    else none
  | .verdict n _ => if ahead.any (fun x => match x with | .flit _ k => k == n | _ => false) then none else some 0
  | .marker _ c =>
    if ahead.any (fun x => match x with | .flit g _ => g.cls == c | .marker _ d => d == c | .verdict _ _ => false) then none else some 0

/-- The first thing that can leave a port: what stays ahead of it, itself, its channel, and what is behind it. -/
def Link.pick (l : Link) (h : HostPaths) (port : Nat) : List OutItem → List OutItem → Option (List OutItem × OutItem × Nat)
  | _, [] => none
  | ahead, x :: xs =>
    match l.leaves h port ahead x with
    | some ch => some (ahead ++ xs, x, ch)
    | none => l.pick h port (ahead ++ [x]) xs

/-- Sends a flit: sequence number, position, encryption, the tag at position 4, the CRC. -/
def Link.sendFlit (l : Link) (port : Nat) (plain : Flit) (num : Nat) : Link × List OutMsg :=
  let pos := l.openGroup.length
  match l.tx.use l.slot with
  | none => (l, [])
  | some (key, salt, counter) =>
    let f0 := cipherFlit key salt counter pos (plain.withLink 0 l.nextSeq.toNat l.slot pos)
    let f1 := if pos = 4 then
        { f0 with payload := f0.payload.take 108 ++ leBytes 12 (groupTag key salt counter (l.openGroup ++ [f0])).toNat }
      else f0
    let f2 := f1.withLink (flitCrc f1) l.nextSeq.toNat l.slot pos
    ({ l with
      nextSeq := l.nextSeq + 1, unacked := l.unacked ++ [(f2, plain)]
      sentAs := if num = 0 then l.sentAs else FMap.insert l.sentAs num l.nextSeq.toNat
      openGroup := if pos = 4 then [] else l.openGroup ++ [f2]
      tx := if pos = 4 then l.tx.next l.slot else l.tx }, [.flit port f2])

/-- What leaves a port when something is picked. -/
def Link.release (l : Link) (port : Nat) (x : OutItem) (ch : Nat) : Link × List OutMsg :=
  match x with
  | .flit f num => l.sendFlit port (f.onChannel ch) num
  | .verdict num pass => (l, [.verdict port (FMap.get l.sentAs 0 num) pass])
  | .marker k c => (l, (List.range 5).map (fun i => OutMsg.marker port k c i))

/-- Sends what can leave a port that is up. -/
def Link.pump (h : HostPaths) (port : Nat) : Nat → Link → Link × List OutMsg
  | 0, l => (l, [])
  | n + 1, l =>
    if !l.up then (l, [])
    else
      match l.pick h port [] l.outq with
      | none => (l, [])
      | some (stay, x, ch) =>
        let (l1, o1) := ({ l with outq := stay } : Link).release port x ch
        let (l2, o2) := Link.pump h port n l1
        (l2, o1 ++ o2)

/-- Puts things at the front or at the end of what waits on a port, and sends what can leave. -/
def State.sendItems (s : State) (port : Nat) (front items : List OutItem) : State :=
  let l := s.link port
  let q := front ++ l.outq ++ items
  let r := Link.pump s.host port q.length { l with outq := q }
  { s with host := { s.host with links := FMap.put s.host.links Link.down port r.1 }, outbox := s.outbox ++ r.2 }

/-- Sends what can leave a port. -/
def State.pump (s : State) (port : Nat) : State := s.sendItems port [] []

/-- A message of this package for another of the pod goes on the port that its route gives, as flits of its class and logical channel (R325,
R326, R330). -/
def State.injectMsg (s : State) (pkg cls chan : Nat) : State :=
  if pkg < 1023 ∧ pkg ≠ Config.pkgid then
    s.sendItems (s.injectPort pkg) [] ((messageFlits s.outbox.length pkg cls chan).map (fun f => OutItem.flit f 0))
  else s

end Sys2Proof.Machine
end

