-- ==== Sys2Proof/Machine/Flags.lean ====
section
/-! DEFINITION. The arithmetic conditions of `aflags` (R18, R67). -/

namespace Sys2Proof.Machine

/-- Invalid operation. -/
def flagNV : Word := 1#32
/-- Division by zero. -/
def flagDZ : Word := 2#32
/-- Overflow. -/
def flagOF : Word := 4#32
/-- Underflow: tiny and inexact. -/
def flagUF : Word := 8#32
/-- Inexact. -/
def flagNX : Word := 16#32
/-- Integer saturation. -/
def flagSAT : Word := 32#32

/-- A flag when a condition holds. -/
def flagIf (c : Bool) (f : Word) : Word := if c then f else 0#32

/-- The bits of `aflags` and `amask` that exist (R18). -/
def flagBits : Word := 0x3F#32

/-- A value with the conditions computing it raised. -/
structure Flagged (α : Type) where
  val : α
  flags : Word
  deriving DecidableEq, Repr

/-- The OR of a list of conditions. -/
def orFlags (fs : List Word) : Word := fs.foldl (fun a f => a ||| f) 0#32

end Sys2Proof.Machine
end

