-- ==== Sys2Proof/Machine/Float.lean ====
section
/-! DEFINITION. Floating arithmetic on bit patterns: formats, one rounding of an exact value, sums, products, minimum
and maximum, conversions, special functions and nested-integer quantisation (R64 to R75, R100, R101). -/

namespace Sys2Proof.Machine

/-- A floating format (R64): exponent and fraction widths. -/
structure Fmt where
  eb : Nat
  fb : Nat
  deriving DecidableEq, Repr

def fmtF32 : Fmt := { eb := 8, fb := 23 }
def fmtBF16 : Fmt := { eb := 8, fb := 7 }
def fmtF16 : Fmt := { eb := 5, fb := 10 }

/-- The exponent of a format's smallest subnormal. -/
def Fmt.emin (f : Fmt) : Int := 2 - (2 ^ (f.eb - 1) : Nat) - (f.fb : Nat)

/-- The sign bit's value in a format. -/
def Fmt.signBit (f : Fmt) : Nat := 2 ^ (f.eb + f.fb)

/-- The canonical quiet NaN (R65). -/
def Fmt.nan (f : Fmt) : Nat := (2 ^ f.eb - 1) * 2 ^ f.fb + 2 ^ (f.fb - 1)

/-- An infinity. -/
def Fmt.inf (f : Fmt) (neg : Bool) : Nat := (if neg then f.signBit else 0) + (2 ^ f.eb - 1) * 2 ^ f.fb

/-- The largest finite value. -/
def Fmt.maxFinite (f : Fmt) (neg : Bool) : Nat := (if neg then f.signBit else 0) + (2 ^ f.eb - 1) * 2 ^ f.fb - 1

/-- A zero. -/
def Fmt.zero (f : Fmt) (neg : Bool) : Nat := if neg then f.signBit else 0

/-- The value a bit pattern stands for (R64): `num neg m e` is ±m·2^e. -/
inductive FVal where
  | nan (signalling : Bool)
  | inf (neg : Bool)
  | num (neg : Bool) (m : Nat) (e : Int)
  deriving DecidableEq, Repr

/-- Rounding modes (R66), with the codes of R58. -/
inductive Rnd where
  | rn | rz | rd | ru
  deriving DecidableEq, Repr

/-- The rounding mode of a two-bit code. -/
def Rnd.ofCode (n : Nat) : Rnd :=
  match n % 4 with
  | 0 => .rn
  | 1 => .rz
  | 2 => .rd
  | _ => .ru

/-- The value of a bit pattern. -/
def Fmt.unpack (f : Fmt) (x : Nat) : FVal :=
  let neg := x.testBit (f.eb + f.fb)
  let ex := (x >>> f.fb) % 2 ^ f.eb
  let fr := x % 2 ^ f.fb
  if ex = 2 ^ f.eb - 1 then
    if fr = 0 then .inf neg else .nan (!(fr.testBit (f.fb - 1)))
  else if ex = 0 then .num neg fr f.emin
  else .num neg (2 ^ f.fb + fr) (f.emin + (ex : Int) - 1)

/-- Whether a magnitude is rounded away from zero: the kept part's parity, the discarded part against one half. -/
def roundsUp (mode : Rnd) (neg odd : Bool) (above half rest : Bool) : Bool :=
  match mode with
  | .rn => above || (half && odd)
  | .rz => false
  | .rd => neg && rest
  | .ru => !neg && rest

/-- An exact value ±(m + fraction)·2^e rounded once to a format (R65, R66, R67); `sticky` says that the fraction is
not zero (then `m` must hold at least two bits more than the format keeps). -/
def roundPack (f : Fmt) (mode : Rnd) (neg : Bool) (m : Nat) (e : Int) (sticky : Bool) : Flagged Nat :=
  if m = 0 && !sticky then { val := f.zero neg, flags := 0#32 }
  else
    let q : Int := max f.emin (e + (Nat.log2 m : Int) - (f.fb : Int))
    let sh : Nat := (q - e).toNat
    let m' : Nat := m * 2 ^ (e - q).toNat
    let kept := m' / 2 ^ sh
    let rem := m' % 2 ^ sh
    let rest := decide (rem ≠ 0) || sticky
    let above := decide (2 * rem > 2 ^ sh) || (decide (2 * rem = 2 ^ sh) && sticky)
    let half := decide (2 * rem = 2 ^ sh) && !sticky
    let k1 := if roundsUp mode neg (kept % 2 == 1) above half rest then kept + 1 else kept
    let (k2, q2) := if k1 = 2 ^ (f.fb + 1) then (2 ^ f.fb, q + 1) else (k1, q)
    let s := if neg then f.signBit else 0
    if k2 < 2 ^ f.fb then
      { val := s + k2, flags := flagIf rest flagNX ||| flagIf (rest && k2 != 0) flagUF }
    else
      let ex := (q2 - f.emin + 1).toNat
      if ex ≥ 2 ^ f.eb - 1 then
        let toInf := match mode with | .rn => true | .rz => false | .rd => neg | .ru => !neg
        { val := if toInf then f.inf neg else f.maxFinite neg, flags := flagOF ||| flagNX }
      else { val := s + ex * 2 ^ f.fb + (k2 - 2 ^ f.fb), flags := flagIf rest flagNX }

/-- Whether a value is a signalling NaN. -/
def FVal.isSignalling : FVal → Bool
  | .nan s => s
  | _ => false

/-- Whether a value is a NaN. -/
def FVal.isNan : FVal → Bool
  | .nan _ => true
  | _ => false

/-- The product of two values as an exact addend (R65): a NaN for 0 × ∞, which raises NV. -/
def FVal.mul (a b : FVal) : Flagged FVal :=
  match a, b with
  | .nan s, y => { val := .nan false, flags := flagIf (s || y.isSignalling) flagNV }
  | _, .nan s => { val := .nan false, flags := flagIf s flagNV }
  | .inf n, .inf k => { val := .inf (n != k), flags := 0#32 }
  | .inf n, .num k m _ => if m = 0 then { val := .nan false, flags := flagNV } else { val := .inf (n != k), flags := 0#32 }
  | .num k m _, .inf n => if m = 0 then { val := .nan false, flags := flagNV } else { val := .inf (n != k), flags := 0#32 }
  | .num n m e, .num k m' e' => { val := .num (n != k) (m * m') (e + e'), flags := 0#32 }

/-- The exact sum of finite addends at the least of their exponents. -/
def exactSum (ts : List FVal) : Int × Int :=
  let lo := ts.foldl (fun lo t => match t with | .num _ m e => if m = 0 then lo else min lo e | _ => lo) (2000 : Int)
  let s := ts.foldl (fun (s : Int) t =>
    match t with
    | .num neg m e =>
      if m = 0 then s else
      let x : Int := ((m * 2 ^ (e - lo).toNat : Nat) : Int)
      if neg then s - x else s + x
    | _ => s) (0 : Int)
  (s, lo)

/-- The sign of an exact zero sum (R65). -/
def zeroSign (mode : Rnd) (ts : List FVal) : Bool :=
  let zneg := ts.all (fun t => match t with | .num neg m _ => m == 0 && neg | _ => false)
  let zpos := ts.all (fun t => match t with | .num neg m _ => m == 0 && !neg | _ => false)
  if zneg then true else if zpos then false else mode = .rd

/-- The sum of addends rounded once to a format (R65, R67, R73). -/
def fsum (f : Fmt) (mode : Rnd) (ts : List FVal) : Flagged Nat :=
  if ts.any FVal.isNan then { val := f.nan, flags := flagIf (ts.any FVal.isSignalling) flagNV }
  else
    let pinf := ts.any (fun t => match t with | .inf neg => !neg | _ => false)
    let ninf := ts.any (fun t => match t with | .inf neg => neg | _ => false)
    if pinf && ninf then { val := f.nan, flags := flagNV }
    else if pinf then { val := f.inf false, flags := 0#32 }
    else if ninf then { val := f.inf true, flags := 0#32 }
    else
      let (s, lo) := exactSum ts
      if s = 0 then { val := f.zero (zeroSign mode ts), flags := 0#32 }
      else roundPack f mode (decide (s < 0)) s.natAbs lo false

/-- Addition (R96). -/
def fadd (f : Fmt) (mode : Rnd) (a b : Nat) : Flagged Nat := fsum f mode [f.unpack a, f.unpack b]

/-- A value rounded to a format. -/
def FVal.pack (f : Fmt) (mode : Rnd) (v : FVal) : Flagged Nat :=
  match v with
  | .nan s => { val := f.nan, flags := flagIf s flagNV }
  | .inf neg => { val := f.inf neg, flags := 0#32 }
  | .num neg m e => roundPack f mode neg m e false

/-- Multiplication (R96). -/
def fmul (f : Fmt) (mode : Rnd) (a b : Nat) : Flagged Nat :=
  let p := (f.unpack a).mul (f.unpack b)
  let r := p.val.pack f mode
  { val := r.val, flags := p.flags ||| r.flags }

/-- Fused multiply-add a·b + c (R96). -/
def ffma (f : Fmt) (mode : Rnd) (a b c : Nat) : Flagged Nat :=
  let p := (f.unpack a).mul (f.unpack b)
  let r := fsum f mode [p.val, f.unpack c]
  { val := r.val, flags := p.flags ||| r.flags }

/-- Whether the first of two values that are not NaNs is below the second. -/
def FVal.lt (a b : FVal) : Bool :=
  match a, b with
  | .inf n, .inf k => n && !k
  | .inf n, _ => n
  | _, .inf k => !k
  | .num n m e, .num k m' e' =>
    let lo := min e e'
    let x : Int := ((m * 2 ^ (e - lo).toNat : Nat) : Int)
    let y : Int := ((m' * 2 ^ (e' - lo).toNat : Nat) : Int)
    decide ((if n then -x else x) < (if k then -y else y))
  | _, _ => false

/-- Whether two values are numerically equal. -/
def FVal.eq (a b : FVal) : Bool := !a.isNan && !b.isNan && !(a.lt b) && !(b.lt a)

/-- Maximum (R75). -/
def fmax (f : Fmt) (a b : Nat) : Flagged Nat :=
  let x := f.unpack a
  let y := f.unpack b
  if x.isNan || y.isNan then { val := f.nan, flags := flagIf (x.isSignalling || y.isSignalling) flagNV }
  else if x.lt y then { val := b, flags := 0#32 }
  else if y.lt x then { val := a, flags := 0#32 }
  else { val := if a.testBit (f.eb + f.fb) then b else a, flags := 0#32 }

/-- Minimum (R75). -/
def fmin (f : Fmt) (a b : Nat) : Flagged Nat :=
  let x := f.unpack a
  let y := f.unpack b
  if x.isNan || y.isNan then { val := f.nan, flags := flagIf (x.isSignalling || y.isSignalling) flagNV }
  else if x.lt y then { val := a, flags := 0#32 }
  else if y.lt x then { val := b, flags := 0#32 }
  else { val := if a.testBit (f.eb + f.fb) then a else b, flags := 0#32 }

/-- Maximum of absolute values (R75, R97). -/
def famax (f : Fmt) (a b : Nat) : Flagged Nat := fmax f (a % f.signBit) (b % f.signBit)

/-- A format's value rounded to another format (R100). -/
def fconvert (src dst : Fmt) (mode : Rnd) (x : Nat) : Flagged Nat := (src.unpack x).pack dst mode

/-- A finite value rounded to an integer, and whether it changed (R100). -/
def roundToInt (mode : Rnd) (neg : Bool) (m : Nat) (e : Int) : Int × Bool :=
  let sh := (-e).toNat
  let m' := m * 2 ^ e.toNat
  let kept := m' / 2 ^ sh
  let rem := m' % 2 ^ sh
  let rest := decide (rem ≠ 0)
  let k := if roundsUp mode neg (kept % 2 == 1) (decide (2 * rem > 2 ^ sh)) (rest && decide (2 * rem = 2 ^ sh)) rest
    then kept + 1 else kept
  (if neg then -(k : Int) else (k : Int), rest)

/-- An f32 converted to an integer within bounds (R100). -/
def cvtToInt (mode : Rnd) (lo hi : Int) (x : Nat) : Flagged Int :=
  match fmtF32.unpack x with
  | .nan _ => { val := 0, flags := flagNV }
  | .inf neg => { val := if neg then lo else hi, flags := flagNV }
  | .num neg m e =>
    let (k, inexact) := roundToInt mode neg m e
    if k < lo then { val := lo, flags := flagNV }
    else if hi < k then { val := hi, flags := flagNV }
    else { val := k, flags := flagIf inexact flagNX }

/-- An integer rounded to f32 (R100). -/
def cvtFromInt (mode : Rnd) (k : Int) : Flagged Nat := roundPack fmtF32 mode (decide (k < 0)) k.natAbs 0 false

/-! ## Special functions (R101) -/

/-- The integer square root, bit by bit from a power of two down. -/
def isqrtFrom (x : Nat) : Nat → Nat → Nat
  | 0, r => r
  | n + 1, r =>
    let r' := r + 2 ^ n
    isqrtFrom x n (if r' * r' ≤ x then r' else r)

/-- The integer square root of a number below 2^512. -/
def isqrt (x : Nat) : Nat := isqrtFrom x 256 0

/-- Fraction bits of the fixed-point evaluations. -/
def fixBits : Nat := 512

/-- π·2^512, truncated. -/
def piFix : Nat := 0x3243f6a8885a308d313198a2e03707344a4093822299f31d0082efa98ec4e6c89452821e638d01377be5466cf34e90c6cc0ac29b7c97c50dd3f84d5b5b5470917

/-- ln 2·2^512, truncated. -/
def ln2Fix : Nat := 0xb17217f7d1cf79abc9e3b39803f2f6af40f343267298b62d8a0d175b8baafa2be7b876206debac98559552fb4afa1b10ed2eae35c138214427573b291169b825

/-- Σ t^k/k! from term `k` on, in fixed point, with a bound on the number of terms. -/
def expLoop (t : Nat) : Nat → Nat → Nat → Nat → Nat
  | 0, _, _, acc => acc
  | n + 1, k, term, acc =>
    let term' := term * t / 2 ^ fixBits / (k + 1)
    expLoop t n (k + 1) term' (acc + term')

/-- e^t in fixed point for 0 ≤ t < 4. -/
def expFix (t : Nat) : Nat := expLoop t 160 0 (2 ^ fixBits) (2 ^ fixBits)

/-- The alternating series t − t³/3! + …, or 1 − t²/2! + …, in fixed point. -/
def trigLoop (t2 : Nat) : Nat → Nat → Nat → Bool → Int → Int
  | 0, _, _, _, acc => acc
  | n + 1, k, term, neg, acc =>
    let term' := term * t2 / 2 ^ fixBits / ((k + 1) * (k + 2))
    trigLoop t2 n (k + 2) term' (!neg) (if neg then acc + (term' : Int) else acc - (term' : Int))

/-- sin t in fixed point for 0 ≤ t < 2. -/
def sinFix (t : Nat) : Nat := (trigLoop (t * t / 2 ^ fixBits) 90 1 t false (t : Int)).toNat

/-- cos t in fixed point for 0 ≤ t < 2; its magnitude. -/
def cosFix (t : Nat) : Nat :=
  (trigLoop (t * t / 2 ^ fixBits) 90 0 (2 ^ fixBits) false ((2 ^ fixBits : Nat) : Int)).natAbs

/-- Σ z^(2k+1)/(2k+1) in fixed point. -/
def atanhLoop (z2 : Nat) : Nat → Nat → Nat → Nat → Nat
  | 0, _, _, acc => acc
  | n + 1, k, p, acc =>
    let p' := p * z2 / 2 ^ fixBits
    atanhLoop z2 n (k + 2) p' (acc + p' / (k + 2))

/-- ln y in fixed point for 1 ≤ y ≤ 2. -/
def lnFix (y : Nat) : Nat :=
  let z := (y - 2 ^ fixBits) * 2 ^ fixBits / (y + 2 ^ fixBits)
  2 * atanhLoop (z * z / 2 ^ fixBits) 180 1 z z

/-- A positive fixed-point value rounded to nearest in f32; the exact value is not representable. -/
def packFix (neg : Bool) (x : Nat) (e : Int) : Flagged Nat :=
  roundPack fmtF32 .rn neg x (e - (fixBits : Int)) true

/-- A magnitude m·2^e as fixed point (exact for e ≥ −512). -/
def toFix (m : Nat) (e : Int) : Nat := m * 2 ^ (e + (fixBits : Int)).toNat

def f32nan : Flagged Nat := { val := fmtF32.nan, flags := 0#32 }
def f32nanNV : Flagged Nat := { val := fmtF32.nan, flags := flagNV }
def f32one : Nat := 0x3F800000

/-- RCP. -/
def sfuRcp (x : Nat) : Flagged Nat :=
  match fmtF32.unpack x with
  | .nan s => { val := fmtF32.nan, flags := flagIf s flagNV }
  | .inf neg => { val := fmtF32.zero neg, flags := 0#32 }
  | .num neg m e =>
    if m = 0 then { val := fmtF32.inf neg, flags := flagDZ }
    else roundPack fmtF32 .rn neg (2 ^ 256 / m) (-256 - e) (decide (2 ^ 256 % m ≠ 0))

/-- The square root of q·2^(2h), truncated, with whether anything was dropped. -/
def sqrtPack (q : Nat) (h : Int) (dropped : Bool) : Flagged Nat :=
  let r := isqrt q
  roundPack fmtF32 .rn false r h (dropped || decide (r * r ≠ q))

/-- RSQ. -/
def sfuRsq (x : Nat) : Flagged Nat :=
  match fmtF32.unpack x with
  | .nan s => { val := fmtF32.nan, flags := flagIf s flagNV }
  | .inf neg => if neg then f32nanNV else { val := 0, flags := 0#32 }
  | .num neg m e =>
    if m = 0 then { val := fmtF32.inf neg, flags := flagDZ }
    else if neg then f32nanNV
    else
      let s : Nat := if e % 2 = 0 then 256 else 257
      sqrtPack (2 ^ s / m) ((-e - (s : Int)) / 2) (decide (2 ^ s % m ≠ 0))

/-- SQRT. -/
def sfuSqrt (x : Nat) : Flagged Nat :=
  match fmtF32.unpack x with
  | .nan s => { val := fmtF32.nan, flags := flagIf s flagNV }
  | .inf neg => if neg then f32nanNV else { val := fmtF32.inf false, flags := 0#32 }
  | .num neg m e =>
    if m = 0 then { val := fmtF32.zero neg, flags := 0#32 }
    else if neg then f32nanNV
    else
      let s : Nat := if e % 2 = 0 then 256 else 257
      sqrtPack (m * 2 ^ s) ((e - (s : Int)) / 2) false

/-- EXP2. -/
def sfuExp2 (x : Nat) : Flagged Nat :=
  match fmtF32.unpack x with
  | .nan s => { val := fmtF32.nan, flags := flagIf s flagNV }
  | .inf neg => { val := if neg then 0 else fmtF32.inf false, flags := 0#32 }
  | .num neg m e =>
    if m = 0 then { val := f32one, flags := 0#32 }
    else if toFix m e ≥ 200 * 2 ^ fixBits then
      if neg then roundPack fmtF32 .rn false 1 (-300) false else roundPack fmtF32 .rn false 1 300 false
    else
      let t : Int := if neg then -(toFix m e : Int) else (toFix m e : Int)
      let n := t / ((2 ^ fixBits : Nat) : Int)
      let fr := (t % ((2 ^ fixBits : Nat) : Int)).toNat
      if fr = 0 then roundPack fmtF32 .rn false 1 n false
      else packFix false (expFix (fr * ln2Fix / 2 ^ fixBits)) n

/-- LOG2. -/
def sfuLog2 (x : Nat) : Flagged Nat :=
  match fmtF32.unpack x with
  | .nan s => { val := fmtF32.nan, flags := flagIf s flagNV }
  | .inf neg => if neg then f32nanNV else { val := fmtF32.inf false, flags := 0#32 }
  | .num neg m e =>
    if m = 0 then { val := fmtF32.inf true, flags := flagDZ }
    else if neg then f32nanNV
    else
      let l := Nat.log2 m
      let k : Int := e + (l : Int)
      if m = 2 ^ l then cvtFromInt .rn k
      else
        let y := m * 2 ^ (fixBits - l)
        let v : Int := k * ((2 ^ fixBits : Nat) : Int) + ((lnFix y * 2 ^ fixBits / ln2Fix : Nat) : Int)
        packFix (decide (v < 0)) v.natAbs 0

/-- The quadrant and the remainder of a magnitude modulo π/2, in fixed point. -/
def reduceHalfPi (m : Nat) (e : Int) : Nat × Nat :=
  let x := toFix m e
  let q := 2 * x / piFix
  (q % 4, x - q * piFix / 2)

/-- SIN. -/
def sfuSin (x : Nat) : Flagged Nat :=
  match fmtF32.unpack x with
  | .nan s => { val := fmtF32.nan, flags := flagIf s flagNV }
  | .inf _ => f32nanNV
  | .num neg m e =>
    if m = 0 then { val := x, flags := 0#32 }
    else
      let (q, r) := reduceHalfPi m e
      let v := if q % 2 = 0 then sinFix r else cosFix r
      packFix (neg != decide (2 ≤ q)) v 0

/-- COS. -/
def sfuCos (x : Nat) : Flagged Nat :=
  match fmtF32.unpack x with
  | .nan s => { val := fmtF32.nan, flags := flagIf s flagNV }
  | .inf _ => f32nanNV
  | .num _ m e =>
    if m = 0 then { val := f32one, flags := 0#32 }
    else
      let (q, r) := reduceHalfPi m e
      let v := if q % 2 = 0 then cosFix r else sinFix r
      packFix (q == 1 || q == 2) v 0

/-- TANH. -/
def sfuTanh (x : Nat) : Flagged Nat :=
  match fmtF32.unpack x with
  | .nan s => { val := fmtF32.nan, flags := flagIf s flagNV }
  | .inf neg => { val := f32one + fmtF32.zero neg, flags := 0#32 }
  | .num neg m e =>
    if m = 0 then { val := x, flags := 0#32 }
    else
      let one := 2 ^ fixBits
      let t := 2 * toFix m e
      if t ≥ 128 * one then packFix neg (one - 1) 0
      else
        let n := t / ln2Fix
        let ex := if t < 2 * one then expFix t else expFix (t - n * ln2Fix) * 2 ^ n
        packFix neg ((ex - one) * one / (ex + one)) 0

/-! ## Atomics and reductions on words -/

/-- The result of an atomic operation (R156): `F`, 64-bit or not, old value, operand. -/
def atomicOp (f : Nat) (wide : Bool) (old v : Nat) : Nat :=
  let w := if wide then 64 else 32
  let o := old % 2 ^ w
  let x := v % 2 ^ w
  match f with
  | 0 => (o + x) % 2 ^ w
  | 1 => o &&& x
  | 2 => o ||| x
  | 3 => o ^^^ x
  | 4 => if signedNat w o < signedNat w x then x else o
  | 5 => if o < x then x else o
  | 6 => if signedNat w x < signedNat w o then x else o
  | 7 => if x < o then x else o
  | 8 => x
  | 9 => (fmax fmtF32 o x).val
  | 10 => (fmin fmtF32 o x).val
  | 11 => (famax fmtF32 o x).val
  | 12 => (fadd fmtF32 .rn o x).val
  | _ => o

/-- The identity of an accumulating operation (R76, R251). -/
def atomicIdentity (f : Nat) (wide : Bool) : Nat :=
  let w := if wide then 64 else 32
  match f with
  | 1 | 7 => 2 ^ w - 1
  | 4 => 2 ^ (w - 1)
  | 6 => 2 ^ (w - 1) - 1
  | 9 => 0xFF800000
  | 10 => 0x7F800000
  | 12 => 0x80000000
  | _ => 0

/-- The element size in bytes of a reduction code (R63, R216). -/
def redSize (code : Nat) : Nat := if code = 3 then 2 else 4

/-- A reduction of R63 on elements: 1 add.s32, 2 add.f32, 3 add.bf16, 4 max.f32, 5 min.f32, 6 famax.f32, 7 max.s32. -/
def redOp (code old v : Nat) : Nat :=
  match code with
  | 1 => (old + v) % 2 ^ 32
  | 2 => (fadd fmtF32 .rn old v).val
  | 3 => (fadd fmtBF16 .rn old v).val
  | 4 => (fmax fmtF32 old v).val
  | 5 => (fmin fmtF32 old v).val
  | 6 => (famax fmtF32 old v).val
  | 7 => atomicOp 4 false old v
  | _ => v

/-- The identity of an aperture's reduction code (R272). -/
def redIdentity (code : Nat) : Nat :=
  match code with
  | 2 => 0x80000000
  | 4 => 0xFF800000
  | 5 => 0x7F800000
  | 7 => 0x80000000
  | _ => 0

/-! ## Nested integers (R68 to R72) -/

/-- The floor of log2 of a positive finite value. -/
def floorLog2 (m : Nat) (e : Int) : Int := e + (Nat.log2 m : Int)

/-- QSCALE of a block of f32 values (R72). -/
def qscaleByte (vs : List Nat) : Nat :=
  let us := vs.map fmtF32.unpack
  if us.any FVal.isNan then 255
  else if us.any (fun v => match v with | .inf _ => true | _ => false) then 254
  else
    let best := us.foldl (fun (b : Option Int) v =>
      match v with
      | .num _ m e => if m = 0 then b else
          let l := floorLog2 m e
          match b with
          | none => some l
          | some k => some (max k l)
      | _ => b) none
    match best with
    | none => 0
    | some l => (max 1 (min 254 (l - 6 + 127))).toNat

/-- One element quantised by QPACK with scale byte `e` (R72): the element's byte. -/
def qpackElem (unsigned : Bool) (e : Nat) (v : Nat) : Flagged Nat :=
  if e = 0 ∨ e = 255 then { val := 0, flags := 0#32 }
  else
    let lo : Int := if unsigned then 0 else -127
    let hi : Int := if unsigned then 255 else 127
    match fmtF32.unpack v with
    | .nan _ => { val := 0, flags := flagNV }
    | .inf neg => { val := ((if neg then lo else hi) % 256).toNat, flags := flagSAT }
    | .num neg m x =>
      let (q, inexact) := roundToInt .rn neg m (x + 127 - (e : Int))
      let c := max lo (min hi q)
      { val := (c % 256).toNat, flags := flagIf inexact flagNX ||| flagIf (decide (c ≠ q)) flagSAT }

/-- The 64-byte plane image of 64 element bytes (R68): bit i of plane j is bit 7−j of element i. -/
def planeImage (xs : List Nat) : List Nat :=
  (List.range 64).map (fun p =>
    let j := p / 8
    let c := p % 8
    (List.range 8).foldl (fun acc b => if (xs.getD (8 * c + b) 0).testBit (7 - j) then acc + 2 ^ b else acc) 0)

/-- The k-plane reading of element i of an image (R69). -/
def planeElem (unsigned : Bool) (k : Nat) (img : List Nat) (i : Nat) : Int :=
  let x : Nat := (List.range k).foldl (fun (acc : Nat) j => 2 * acc + (if (img.getD (8 * j + i / 8) 0).testBit (i % 8) then 1 else 0)) 0
  if unsigned then (x : Int) else signedNat k x

/-- QUNPK of one element (R72). -/
def qunpkElem (unsigned : Bool) (k e : Nat) (img : List Nat) (i : Nat) : Flagged Nat :=
  if e = 0 then { val := 0, flags := 0#32 }
  else if e = 255 then f32nan
  else
    let q := planeElem unsigned k img i
    roundPack fmtF32 .rn (decide (q < 0)) q.natAbs ((8 : Int) - (k : Int) + (e : Int) - 127) false

/-- One element of an MMA step on floats (R73). -/
def floatStep (f : Fmt) (c : Nat) (as bs : List Nat) : Nat :=
  (fsum fmtF32 .rn (fmtF32.unpack c :: (as.zip bs).map (fun (a, b) => ((f.unpack a).mul (f.unpack b)).val))).val

/-- One element of an MMA step on nested integers (R74). -/
def niStep (c : Nat) (as bs : List Int) (ka kb eA eB : Nat) : Nat :=
  if eA = 255 ∨ eB = 255 ∨ (fmtF32.unpack c).isNan then fmtF32.nan
  else if eA = 0 ∨ eB = 0 then (fsum fmtF32 .rn [fmtF32.unpack c, .num false 0 0]).val
  else
    let dot := (as.zip bs).foldl (fun (s : Int) (a, b) => s + a * b) 0
    (fsum fmtF32 .rn [fmtF32.unpack c,
      .num (decide (dot < 0)) dot.natAbs ((eA : Int) + (eB : Int) - 254 + (8 - (ka : Int)) + (8 - (kb : Int)))]).val

end Sys2Proof.Machine
end

