-- ==== Sys2Proof/Machine/Mem.lean ====
section
/-! DEFINITION. Named operations over memory: keys and bytes, poison, the coherent value of a byte, translation, and the host fault
queue. -/

namespace Sys2Proof

/-- The package of an agent. -/
def Party.pkg : Party → Nat
  | .core p _ | .stash p _ | .tile p _ | .package p => p

/-- Whether an agent is a core's L1. -/
def Party.isL1 : Party → Bool
  | .core _ _ => true
  | _ => false

end Sys2Proof

namespace Sys2Proof.Machine

/-! ## Keys and bytes -/

/-- The domain of COMMON, companion and peer memory in a memory key. -/
def domCommon : Nat := 1023

/-- The key of a physical address in a domain (R239, R361). -/
def memKey (dom pa : Nat) : Nat := dom * 2 ^ 57 + pa

/-- The physical address of a key. -/
def keyPa (k : Nat) : Nat := k % 2 ^ 57

/-- The region of a physical address (R336). -/
def regionOf (pa : Nat) : Nat := pa / 2 ^ 54 % 8

/-- The key of a physical address under a leaf's PLACE; none in regions 0b100 and 0b111 (R336). An address of regions 0b000 to
0b011 beyond the package's 432 GB of DRAM (R1) is memory like any other (DESIGN CHOICE, log 22: the spec says nothing of it). -/
def keyOfPa (pkg : Nat) (common : Bool) (pa : Nat) : Option Nat :=
  let r := regionOf pa
  if r = 4 ∨ r = 7 then none
  else if r = 5 ∨ r = 6 then some (memKey domCommon pa)
  else some (memKey (if common then domCommon else pkg) pa)

/-- The key of a physical address used without a leaf (R361). -/
def physKey (pa : DWord) : Option Nat :=
  if pa.toNat < 2 ^ 57 then keyOfPa Config.pkgid false pa.toNat else none

/-- The place of a key: the byte it names, whatever cipher it is reached under. -/
def keyPlace (k : Nat) : Nat := k % 2 ^ 80

/-- The cipher of a key (R357): 0 plaintext, else 1 + the key. -/
def keyCipher (k : Nat) : Nat := k / 2 ^ 80

/-- The key of a DRAM byte reached under a key id (R357). Companion and peer memory are not enciphered by this package (DESIGN CHOICE, log 10). -/
def State.sealKey (s : State) (keyid key : Nat) : Nat :=
  if keyid = 0 ∨ 4 ≤ regionOf (keyPa key) then key
  else key + 2 ^ 80 * (1 + match FMap.find s.pkg.keys keyid with | some x => x | none => Config.unsetKey keyid)

/-- A byte of home memory; an unlisted one reads zero (R350). -/
def readByte (m : List Host.Cell) (k : Nat) : Byte := FMap.get m 0#8 k

/-- Writes a byte of home memory. -/
def writeByte (m : List Host.Cell) (k : Nat) (b : Byte) : List Host.Cell := FMap.put m 0#8 k b

/-- Writes cells in order. -/
def writeCells (m : List Host.Cell) (cs : List Host.Cell) : List Host.Cell := FMap.putAll m 0#8 cs

/-- The canonical form of memory. -/
abbrev Memory.wf (m : List Host.Cell) : Bool := FMap.wf 0#8 m

/-- The 32 bytes of a sector that stand under one cipher, read under another: enciphered as they lie in DRAM, then deciphered, with the
physical address bits [56:5] as the tweak (R357). -/
def recipher (from_ to_ tweak x : Nat) : Nat :=
  let dram := if from_ = 0 then x else xtsEncrypt (from_ - 1) tweak x
  if to_ = 0 then dram else xtsDecrypt (to_ - 1) tweak dram

/-- The cipher that a byte's sector stands under. -/
def State.cipherAt (s : State) (k : Nat) : Nat := FMap.get s.sealed 0 (keyPlace k / 32)

/-- A byte of home memory under the cipher of its key (R357). -/
def State.memByte (s : State) (k : Nat) : Byte :=
  let c := s.cipherAt k
  if c = keyCipher k then readByte s.mem k
  else
    let sec := keyPlace k - keyPlace k % 32
    let x := leNat ((List.range 32).map (fun i => readByte s.mem (2 ^ 80 * c + sec + i)))
    BitVec.ofNat 8 (recipher c (keyCipher k) (keyPa k / 32) x / 256 ^ (keyPlace k % 32))

/-- Brings the sector of a byte about to be written under the cipher of its key (R357). -/
def State.reseal (s : State) (k : Nat) : State :=
  if s.cipherAt k = keyCipher k then s
  else
    let lo := k - k % 32
    { s with
      mem := writeCells s.mem ((List.range 32).map (fun i => (lo + i, s.memByte (lo + i))))
      sealed := FMap.put s.sealed 0 (keyPlace k / 32) (keyCipher k) }

/-- Writes bytes of home memory under the ciphers of their keys. -/
def State.storeCells (s : State) (cs : List Host.Cell) : State :=
  let t := cs.foldl (fun s c => s.reseal c.1) s
  { t with mem := writeCells t.mem cs }

/-- Cells of consecutive addresses. -/
def cellsAt (k : Nat) (bs : List Byte) : List Host.Cell := bs.zipIdx.map (fun (b, i) => (k + i, b))

/-- A field of a byte list: `n` bytes at an offset, as a number. -/
def field (bs : List Byte) (off n : Nat) : Nat := leNat ((bs.drop off).take n)

/-! ## The coherent value of a byte -/

/-- Whether a sector is marked poisoned (R256). -/
def State.poisoned (s : State) (k : Nat) : Bool := s.poison.contains (keyPlace k / 32)

/-- The line of an owner that covers a key, if a core of this package owns its grain. -/
def State.ownedLine (s : State) (k : Nat) : Option Line :=
  s.fab.lines.find? (fun l => decide (l.st = .x) && decide (l.grain ≤ k) && decide (k < l.grain + l.size))

/-- The partial lines that cover a key, in ascending holder id (R252). -/
def holderId : Party → Nat
  | .core p c | .stash p c => p * 2 ^ 13 + c
  | .tile p t => p * 2 ^ 13 + 2 ^ 12 + t
  | .package p => p * 2 ^ 13

/-- Inserts a holder's partial in ascending holder id. -/
def insertHolder (h : Nat × FMap Nat) : List (Nat × FMap Nat) → List (Nat × FMap Nat)
  | [] => [h]
  | x :: xs => if h.1 < x.1 then h :: x :: xs else x :: insertHolder h xs

/-- The partials held in this package for the grain that covers a key. -/
def State.partialsAt (s : State) (k : Nat) : List (Nat × FMap Nat) :=
  (s.fab.lines.filter (fun l => decide (l.st = .p) && decide (l.grain ≤ k) && decide (k < l.grain + l.size))).foldl
    (fun acc l => insertHolder (holderId l.who, l.words) acc) []

/-- One word of base memory combined with every holder's partial in order (R252). -/
def mergeWord (aop : Nat) (base : Nat) (wk : Nat) (ps : List (Nat × FMap Nat)) : Nat :=
  let wide := decide (16 ≤ aop)
  ps.foldl (fun x p => atomicOp (aop % 16) wide x (FMap.get p.2 (atomicIdentity (aop % 16) wide) wk)) base

/-- The byte of an evicted owner's line that its home has not yet accepted, if the write-back would be accepted (R247). -/
def State.bufferedByte (s : State) (k : Nat) : Option Byte :=
  (s.fab.wbuf.find? (fun b =>
    let e := FMap.get s.fab.dir Entry.u b.grain
    (e.st == 2 || e.st == 5) && e.owner == some b.who && e.ver == b.ver && b.cells.any (fun c => c.1 == k))).bind
      (fun b => (b.cells.find? (fun c => c.1 == k)).map (fun c => c.2))

/-- The value a write-through read of a byte finds: the owner's byte, in its line or its write-back buffer, the byte of a word
that partials touch, merged, or home memory. -/
def State.coherentByte (s : State) (k : Nat) : Byte :=
  match s.ownedLine k with
  | some l => if l.dirty.contains k then FMap.get l.cells 0#8 k else s.memByte k
  | none =>
    match s.bufferedByte k with
    | some b => b
    | none =>
      match s.fab.lines.find? (fun l => decide (l.st = .p) && decide (l.grain ≤ k) && decide (k < l.grain + l.size)) with
      | none => s.memByte k
      | some l =>
        let n := if 16 ≤ l.aop then 8 else 4
        let wk := k - k % n
        let ps := s.partialsAt k
        if ps.any (fun p => (FMap.find p.2 wk).isSome) then
          let base := leNat ((List.range n).map (fun i => s.memByte (wk + i)))
          (leBytes n (mergeWord l.aop base wk ps)).getD (k % n) 0#8
        else s.memByte k

/-- Consecutive coherent bytes. -/
def State.coherent (s : State) (k n : Nat) : List Byte := (List.range n).map (fun i => s.coherentByte (k + i))

/-- A read at the home by an engine or a host path: the bytes, or POISON (R256). -/
def State.homeRead (s : State) (k n : Nat) : Except Cause (List Byte) :=
  if (List.range n).any (fun i => s.poisoned (k + i)) then .error .poison else .ok (s.coherent k n)

/-- The package that homes a key (R239). The pod hash is not given: it names any of the packages 0 to 992 that a pod can have (R16; DESIGN
CHOICE, log 9). -/
def homePkg (key : Nat) : Nat :=
  if keyPlace key / 2 ^ 57 ≠ domCommon then keyPlace key / 2 ^ 57
  else if 4 ≤ regionOf (keyPa key) then Config.pkgid
  else Config.podHash (keyPa key / 512) % 993

/-- Whether an agent is of the modelled package. -/
def ownParty (p : Party) : Bool := match p with | .package _ => false | q => Party.pkg q == Config.pkgid

/-- Whether a key lies in companion memory or behind a UALink station, where only a system release is satisfied (R230, R336). -/
def farKey (key : Nat) : Bool := regionOf (keyPa key) == 5 || regionOf (keyPa key) == 6

/-- Whether two blocks of bytes overlap. -/
def overlap (a n b m : Nat) : Bool := decide (a < b + m) && decide (b < a + n)

/-- The directory entry of a grain. -/
def State.entry (s : State) (grain : Nat) : Entry := FMap.get s.fab.dir Entry.u grain

/-- The packages other than this one whose tiles an entry tracks: its home's own in the tile vector, the others by pointer (R245). -/
def Entry.outsiders (e : Entry) (grain : Nat) : List Nat :=
  (if homePkg grain ≠ Config.pkgid ∧ e.tvec ≠ 0#16 then [homePkg grain] else [])
  ++ (e.ptrs.map (fun p => p.1)).filter (fun p => p != Config.pkgid)

/-- Whether an agent outside this package holds a grain. -/
def Entry.heldOut (e : Entry) (grain : Nat) : Bool :=
  !(e.outsiders grain).isEmpty || (match e.owner with | some o => !ownParty o | none => false)

/-! ## What the home performs at once -/

/-- Whether an access of an engine, a context, a packet or a walk is performed at its home with no time passing: the home is this
package's, no request that touches the bytes stands in a stage before it (R258, R259), and no grain under them is in a transient
state or held where the home must first ask: accumulating, owned outside the package and, for a write, shared outside it (R249). Any
other access goes by a request of its own. That an access which nothing stands before takes no time is a DESIGN CHOICE (log 7). -/
def State.direct (s : State) (write : Bool) (key n : Nat) : Bool :=
  homePkg key == Config.pkgid && !(farKey key)
    && !(s.fab.reqs.any (fun r => decide (1 ≤ r.stage) && decide (r.stage ≤ 3) && overlap r.key (max 1 r.len) key n))
    && !(s.fab.trans.any (fun t => overlap t.grain (s.entry t.grain).size key n))
    && !(s.fab.dir.any (fun p => overlap p.1 p.2.size key n && (p.2.st == 3
        || (if write then decide (p.2.st ≠ 0) && p.2.heldOut p.1
            else p.2.st == 2 && (match p.2.owner with | some o => !ownParty o | none => false)))))

/-- The answered read of a walk at given bytes. -/
def State.walkAnswer (s : State) (key n : Nat) : Option (Option Cause × List Byte) :=
  (s.fab.asks.find? (fun a => a.walk && a.key == key && a.len == n && a.ans.isSome)).bind (fun a => a.ans)

/-- Bytes that a table walk or an instruction fetch reads at their home, as a write-through load (R309): what its request brought, or what
the home answers at once; WALK_WAIT when the home must be asked. -/
def State.walkBytes (s : State) (key n : Nat) : Except Cause (List Byte) :=
  match s.walkAnswer key n with
  | some (some c, _) => .error c
  | some (none, bs) => .ok bs
  | none => if s.direct false key n then s.homeRead key n else .error .walkWait

/-- The sectors that cells lie in, without repeats. -/
def sectorsOf (cs : List Host.Cell) : List Nat := cs.foldl (fun acc c => addNat (keyPlace c.1 / 32) acc) []

/-- Whether cells cover a whole sector. -/
def coversSector (cs : List Host.Cell) (sec : Nat) : Bool :=
  (List.range 32).all (fun i => cs.any (fun c => keyPlace c.1 == 32 * sec + i))

/-! ## Translation (R238, R309) -/

/-- The attributes of a page (R238). -/
structure Attr where
  keyid : Nat
  schk : Bool
  comb : Bool
  /-- grain in bytes -/
  grain : Nat
  defpol : Nat
  common : Bool
  perm : Nat
  deriving DecidableEq, Repr

/-- The attribute word of a leaf; none when it is malformed (R238). -/
def Attr.ofWord (w : Nat) : Option Attr :=
  let g := bitsNat w 19 18
  let d := bitsNat w 17 15
  if g = 3 ∨ d = 0 ∨ 5 ≤ d ∨ bitsNat w 13 12 = 3 ∨ bitsNat w 11 4 ≠ 0 then none
  else some { keyid := bitsNat w 31 22, schk := bitNat w 21, comb := bitNat w 20,
              grain := if g = 0 then 32 else if g = 1 then 128 else 512,
              defpol := d, common := bitNat w 14, perm := bitsNat w 3 0 }

/-- The index of a level and the address bits below it (R309). -/
def walkIndex (level va : Nat) : Nat × Nat :=
  match level with
  | 0 => (bitsNat va 56 47, 47)
  | 1 => (bitsNat va 46 38, 38)
  | 2 => (bitsNat va 37 29, 29)
  | 3 => (bitsNat va 28 21, 21)
  | _ => (bitsNat va 20 16, 16)

/-- The size of a level's table, which is its alignment (R309). -/
def tableSize (level : Nat) : Nat :=
  match level with
  | 0 => 16384
  | 1 | 2 => 8192
  | 3 => 4096
  | _ => 512

/-- The table walk from a table at a physical address, with the levels left (R309): `rd` reads a table's bytes. -/
def walkWith (rd : Nat → Nat → Except Cause (List Byte)) (va : Nat) : Nat → Nat → Nat → Except Cause (Nat × Attr)
  | 0, _, _ => .error .protection
  | n + 1, level, table =>
    let (idx, low) := walkIndex level va
    match physKey (BitVec.ofNat 64 (table + 16 * idx)) with
    | none => .error .protection
    | some k =>
      match rd k 16 with
      | .error c => .error c
      | .ok bs =>
        let lo := leNat (bs.take 8)
        let hi := leNat (bs.drop 8)
        let pa := bitsNat lo 56 9 * 512
        if !bitNat lo 0 then .error .translation
        else if bitsNat lo 63 57 ≠ 0 ∨ bitsNat lo 8 2 ≠ 0 ∨ bitsNat hi 63 32 ≠ 0 then .error .protection
        else if bitNat lo 1 then
          if level < 2 ∨ pa % 2 ^ low ≠ 0 ∨ bitsNat (hi % 2 ^ 32) 13 12 ≠ 4 - level then .error .protection
          else
            match Attr.ofWord (hi % 2 ^ 32) with
            | none => .error .protection
            | some a =>
              match keyOfPa Config.pkgid a.common (pa + va % 2 ^ low) with
              | none => .error .protection
              | some key => .ok (key, a)
        else if hi ≠ 0 ∨ 4 ≤ level ∨ pa % tableSize (level + 1) ≠ 0 then .error .protection
        else walkWith rd va n (level + 1) pa

/-- A walk whose table entries are read as write-through loads. -/
def walkFrom (s : State) (va n level table : Nat) : Except Cause (Nat × Attr) := walkWith s.walkBytes va n level table

/-- The physical address of the malformed leaf that an address leads to, if it does (R238). -/
def badLeaf (s : State) (va : Nat) : Nat → Nat → Nat → Option Nat
  | 0, _, _ => none
  | n + 1, level, table =>
    let (idx, _) := walkIndex level va
    match physKey (BitVec.ofNat 64 (table + 16 * idx)) with
    | none => none
    | some k =>
      match s.walkBytes k 16 with
      | .error _ => none
      | .ok bs =>
        let lo := leNat (bs.take 8)
        let hi := leNat (bs.drop 8)
        let pa := bitsNat lo 56 9 * 512
        if !bitNat lo 0 then none
        else if bitNat lo 1 then
          if 2 ≤ level ∧ (Attr.ofWord (hi % 2 ^ 32)).isNone then some (table + 16 * idx) else none
        else if hi ≠ 0 ∨ 4 ≤ level ∨ pa % tableSize (level + 1) ≠ 0 ∨ bitsNat lo 63 57 ≠ 0 ∨ bitsNat lo 8 2 ≠ 0 then none
        else badLeaf s va n (level + 1) pa

/-- The address a fault record gives: the leaf's for a PROTECTION through a malformed leaf (R238), else the access's. -/
def State.recordAddr (s : State) (space : Nat) (cause : Cause) (addr : DWord) : DWord :=
  if cause = .protection ∧ addr.toNat < 2 ^ 57 then
    match FMap.find s.host.spaces space with
    | none => addr
    | some sp =>
      match badLeaf s addr.toNat 5 0 sp.root.toNat with
      | some a => BitVec.ofNat 64 a
      | none => addr
  else addr

/-- Whether a key's memory is this package's DRAM. -/
def ownDram (key : Nat) : Bool := decide (regionOf (keyPa key) < 4) && homePkg key == Config.pkgid

/-- Whether a key lies in the firmware's itineraries, which are read-only once they stand there (R224). -/
def State.readOnlyKey (s : State) (key : Nat) : Bool := s.pkg.stage == 6 && ownDram key && Firmware.isCode (keyPa key)

/-- Whether a key lies in a command ring, which is never given to grids (R351). -/
def State.ringKey (s : State) (key : Nat) : Bool := s.pkg.stage == 6 && ownDram key && Firmware.isRing (keyPa key)

/-- Whether a key id is granted to a space (R309, R357). -/
def grantedWith (rd : Nat → Nat → Except Cause (List Byte)) (sp : Space) (keyid : Nat) : Except Cause Bool :=
  if keyid = 0 then .ok true
  else
    match physKey (sp.keys + BitVec.ofNat 64 (keyid / 8)) with
    | none => .ok false
    | some k =>
      match rd k 1 with
      | .ok bs => .ok ((field bs 0 1).testBit (keyid % 8))
      | .error c => .error c

/-- Whether a key id is granted to a space, by the byte of its bitmap as the home has it. -/
def keyGranted (s : State) (sp : Space) (keyid : Nat) : Bool :=
  keyid == 0 || (match grantedWith (fun k n => .ok (s.coherent k n)) sp keyid with | .ok b => b | .error _ => false)

/-- Kinds of access for the permission check (R309). -/
inductive Access where
  | read | write | exec
  deriving DecidableEq, Repr

/-- Translates one address and checks the page's permissions and key (R145 check 4, R309). A page of the firmware's itineraries may not be
written, and one of the command rings not be reached, whatever its leaf permits (R224, R351; that it is PROTECTION is DESIGN CHOICE, log 11). -/
def translateWith (rd : Nat → Nat → Except Cause (List Byte)) (s : State) (space level : Nat) (acc : Access) (va : Nat) :
    Except Cause (Nat × Attr) :=
  match FMap.find s.host.spaces space with
  | none => .error .translation
  | some sp =>
    match walkWith rd va 5 0 sp.root.toNat with
    | .error c => .error c
    | .ok (key, a) =>
      let need := match acc with | .read => 0 | .write => 1 | .exec => 2
      if !(a.perm.testBit need) || (level == 0 && !(a.perm.testBit 3)) then .error .protection
      else if s.ringKey key || (acc == .write && s.readOnlyKey key) then .error .protection
      else
        match grantedWith rd sp a.keyid with
        | .error c => .error c
        | .ok false => .error .key
        | .ok true => .ok (s.sealKey a.keyid key, a)

/-- Translates one address, with the walk's reads made as write-through loads (R309). -/
def translate (s : State) (space level : Nat) (acc : Access) (va : Nat) : Except Cause (Nat × Attr) :=
  translateWith s.walkBytes s space level acc va

/-- The translation of an address under which an agent works already: by the entries as the home has them. -/
def translated (s : State) (space level : Nat) (acc : Access) (va : Nat) : Except Cause (Nat × Attr) :=
  translateWith s.homeRead s space level acc va

/-- Bytes that a walk cannot read without asking their home. -/
def State.walkLacks (s : State) (k n : Nat) : Option (Nat × Nat) :=
  if (s.walkAnswer k n).isNone && !(s.direct false k n) then some (k, n) else none

/-- The first table entry on the way to an address that a walk from a table cannot read without asking. -/
def State.tablesLack (s : State) (va : Nat) : Nat → Nat → Nat → Option (Nat × Nat)
  | 0, _, _ => none
  | n + 1, level, table =>
    match physKey (BitVec.ofNat 64 (table + 16 * (walkIndex level va).1)) with
    | none => none
    | some k =>
      match s.walkLacks k 16, s.walkBytes k 16 with
      | some q, _ => some q
      | none, .error _ => none
      | none, .ok bs => if (leNat (bs.take 8)).testBit 1 then none else s.tablesLack va n (level + 1) (bitsNat (leNat (bs.take 8)) 56 9 * 512)

/-- The bytes that a walk to an address must ask a home for before it can go on: a table entry, the key bitmap's byte or, for an instruction
fetch, the instruction. -/
def State.walkNeeds (s : State) (space va : Nat) (fetch : Bool) : Option (Nat × Nat) :=
  match FMap.find s.host.spaces space with
  | none => none
  | some sp =>
    match s.tablesLack va 5 0 sp.root.toNat, walkFrom s va 5 0 sp.root.toNat with
    | some q, _ => some q
    | none, .error _ => none
    | none, .ok (key, a) =>
      match (if a.keyid = 0 then none else (physKey (sp.keys + BitVec.ofNat 64 (a.keyid / 8))).bind (fun k => s.walkLacks k 1)) with
      | some q => some q
      | none => if fetch then s.walkLacks (s.sealKey a.keyid key) 4 else none

/-- The scratchpad aperture's base (R26). -/
def apertureBase : Nat := 0x01FFFF0000000000

/-- Where an address leads (R26). -/
inductive Target where
  | pad (off : Nat)
  | reduce (group round off : Nat)
  | memory (key : Nat) (a : Attr)
  deriving DecidableEq, Repr

/-- Whether an address lies in the fixed range of R26. -/
def inFixedRange (a : Nat) : Bool := decide (0x01FE000000000000 ≤ a) && decide (a ≤ 0x01FFFFFFFFFFFFFF)

/-- The apertures of R26: a scratchpad offset, or a reduce-aperture line; `error` for the rest of the fixed range or an
offset at or above the allotment; `none` outside the range. -/
def apertureOf (units a width : Nat) : Option (Except Cause Target) :=
  if !inFixedRange a then none
  else if a < 0x01FF000000000000 then some (.ok (.reduce (bitsNat a 47 38) (bitsNat a 37 24) (bitsNat a 23 0)))
  else if apertureBase ≤ a ∧ a ≤ apertureBase + 0x5FFFF then
    if a - apertureBase + width ≤ units * 4096 then some (.ok (.pad (a - apertureBase))) else some (.error .protection)
  else some (.error .protection)

/-! ## The host fault queue (R311) -/

/-- The 64 bytes of a record with a sequence number (R311). -/
def Rec.bytes (r : Rec) (seq : Nat) : List Byte :=
  leBytes 4 (r.kind * 2 ^ 28 + r.cause % 256 * 2 ^ 20 + seq % 2 ^ 20) ++ leBytes 4 r.grid.toNat
  ++ leBytes 4 r.x ++ leBytes 2 r.y ++ leBytes 2 r.z ++ leBytes 4 r.wident.toNat
  ++ leBytes 4 (r.pkg % 1024 * 2 ^ 22 + r.ctx % 64 * 2 ^ 16 + r.queue % 4 * 2 ^ 14 + r.core % 4096)
  ++ leBytes 8 r.addr.toNat ++ leBytes 4 r.clause.toNat
  ++ leBytes 4 ((if r.deferred then 2 ^ 15 else 0) + (if r.inmac then 2 ^ 14 else 0) + r.mop % 32 * 2 ^ 9 + r.index % 16)
  ++ leBytes 4 r.lanes.toNat ++ leBytes 4 r.elem ++ leBytes 8 r.extra.toNat ++ leBytes 8 r.token

/-- Posts a record: it takes the next sequence number and a place in the on-die buffer, or waits for one, and goes to
the ring by HOST_FAULT_RECORD_POST (R311). -/
def State.post (s : State) (r : Rec) : State :=
  let bs := r.bytes s.host.fqSeq
  let h := if s.host.fqBuffer.length < 256 then { s.host with fqBuffer := s.host.fqBuffer ++ [bs] }
    else { s.host with fqWaiting := s.host.fqWaiting ++ [bs] }
  { s with
    host := { h with fqSeq := (s.host.fqSeq + 1) % 2 ^ 20 }
    events := if s.events.contains .hostFaultRecordPost then s.events else s.events ++ [.hostFaultRecordPost] }

/-- Whether the fault buffer has no free entry (R310). -/
def State.faultsFull (s : State) : Bool := decide (4096 ≤ s.host.faults.length)

/-- Something that faulted is parked on a token (R310): it takes an entry of the fault buffer, which keeps a warp's lane addresses, and its
record, which bears the token, is posted; when the buffer is full both wait until an entry frees. -/
def State.parkFault (s : State) (what : Parked) (addrs : FMap DWord) (r : Rec) : State × Nat :=
  let t := s.host.nextToken
  let f : FaultEntry := { token := t, what := what, cancelled := false, addrs := addrs }
  let h := { s.host with nextToken := t + 1 }
  let r1 := { r with token := t }
  if s.faultsFull || !h.faultWait.isEmpty then ({ s with host := { h with faultWait := h.faultWait ++ [(f, r1)] } }, t)
  else (({ s with host := { h with faults := h.faults ++ [f] } }).post r1, t)

/-- An entry of the fault buffer is free: the fault that has waited longest takes it (R310). -/
def State.promoteFault (s : State) : State :=
  match s.host.faultWait with
  | [] => s
  | (f, r) :: rest =>
    if s.faultsFull then s
    else ({ s with host := { s.host with faults := s.host.faults ++ [f], faultWait := rest } }).post r

end Sys2Proof.Machine

namespace Sys2Proof

/-- The trap code of a cause (R304), or the record cause of R311. -/
def Cause.code : Cause → Nat
  | .illegalClause => 0x01 | .illegalOpcode => 0x02 | .illegalOperand => 0x03 | .illegalClass => 0x04
  | .roleViolation => 0x05 | .landingPad => 0x06 | .privilege => 0x07
  | .translation => 0x10 | .protection => 0x11 | .misaligned => 0x12 | .scopeMismatch => 0x13
  | .poison => 0x14 | .remoteFailed => 0x15 | .apertureIncomplete => 0x16 | .key => 0x17
  | .arith => 0x20 | .barrierConflict => 0x21 | .nestingDepth => 0x22 | .launchRefused => 0x23
  | .budget => 0x24 | .software => 0x30 | .breakpoint => 0x31 | .accSuspect => 0x40 | .macroTrap => 0x41 | .walkWait => 0

/-- Whether a cause goes to the host first (R304). -/
def Cause.toHost : Cause → Bool
  | .translation | .protection | .poison | .remoteFailed | .apertureIncomplete | .key => true
  | _ => false

end Sys2Proof

namespace Sys2Proof.Machine

/-! ## Identifiers and free values -/

/-- A fresh identifier of the model. -/
def State.fresh (s : State) : State × Nat := ({ s with nextId := s.nextId + 1 }, s.nextId)

/-- The number of the next free value. -/
def State.draw (s : State) : State × Nat := ({ s with freeCount := s.freeCount + 1 }, s.freeCount)

/-- Adds an event at the end of those under way. -/
def State.push (s : State) (e : Instr) : State := { s with events := s.events ++ [e] }

/-- Adds a message for an agent outside. -/
def State.tell (s : State) (m : OutMsg) : State := { s with outbox := s.outbox ++ [m] }

/-- Whether a message can be sent to a package: it is the companion (1,023), or its route entry is valid (R324). -/
def State.routed (s : State) (pkg : Nat) : Bool :=
  pkg == domCommon || (FMap.get s.host.routes 0#64 pkg).getLsbD 63

/-- Adds a message for another package; one without a route is never sent (R324). In the fabric it goes as flits. -/
def State.tellTo (s : State) (pkg : Nat) (m : OutMsg) : State :=
  if s.routed pkg then
    match m.cls with
    | some c => (s.tell m).injectMsg pkg c m.chan
    | none => s.tell m
  else s

/-- A message of this package's agents about a grain, to its home: to one in another package it goes in the fabric as flits too (R326, R330),
and without a route it is never sent (R324). -/
def State.pushHome (s : State) (grain : Nat) (e : Instr) : State :=
  let pkg := homePkg grain
  if pkg = Config.pkgid then s.push e
  else if s.routed pkg then (match msgClass e with | some c => (s.push e).injectMsg pkg c 0 | none => s.push e)
  else s

end Sys2Proof.Machine
end

