-- ==== Sys2Proof/Machine/Operands.lean ====
section
/-! DEFINITION. Registers of a warp: lanes that are live, execute and are active, reading every operand form, and the one
place where registers, predicates and `lpc` are written (R8 to R15, R31, R81, R84 to R86). -/

namespace Sys2Proof.Machine

/-! ## Lanes -/

/-- The `lpc` of an exited or vacant lane (R11). -/
def lpcExited : Word := 0xFFFFFFFC#32
/-- The `lpc` of a lane that left by BRA.SPLIT (R11). -/
def lpcLeft : Word := 0xFFFFFFF8#32

/-- A lane's stored `lpc`. -/
def Warp.lpcOf (w : Warp) (i : Nat) : Word := FMap.get w.lpc lpcExited i

/-- Whether a value is the offset of a live lane (R11). -/
def isOffset (v : Word) : Bool := decide (v.toNat < 0xFFFFFFF8)

/-- The value an `lpc` holds after a write: bits [1:0] are discarded, and a value above the offsets makes the lane exit (R11). -/
def lpcWritten (v : Word) : Word := if isOffset v then v &&& 0xFFFFFFFC#32 else lpcExited

/-- The live lanes (R8). -/
def Warp.live (w : Warp) : LaneMask := maskOf (fun i => isOffset (w.lpcOf i))

/-- A predicate in a lane; p0 reads true (R9). -/
def Warp.pred (w : Warp) (n i : Nat) : Bool := n == 0 || (FMap.get w.preds 0#32 n).getLsbD i

/-- The executing lanes of the clause in progress (R12). -/
def Warp.exec (w : Warp) : LaneMask := match w.cl with | some c => c.exec | none => 0#32

/-- The active lanes: those that execute the clause and whose guard is true now (R31, R81). -/
def Warp.activeLanes (w : Warp) : LaneMask :=
  match w.cl with
  | none => 0#32
  | some c =>
    if c.hdr.guard = 0#3 then c.exec
    else
      let p := FMap.get w.preds 0#32 c.hdr.guard.toNat
      c.exec &&& (if c.hdr.gsense then ~~~p else p)

/-! ## Destination keys -/

def vkey (n i : Nat) : Nat := 32 * n + i
def ukey (n : Nat) : Nat := 2048 + n
def pkey (n i : Nat) : Nat := 4096 + 32 * n + i

/-- The key of a register code in a lane: a vector element, or a uniform register; none for `z` and others. -/
def codeKey (c i : Nat) : Option Nat :=
  if c < 48 then some (vkey c i) else if c < 60 then some (ukey (c - 48)) else none

/-- The architectural value under a key (a predicate reads as 0 or 1). -/
def Warp.readKey (w : Warp) (k : Nat) : Word :=
  if k < 2048 then FMap.get w.vregs 0#32 k
  else if k < 4096 then FMap.get w.kregs 0#32 (k - 2048)
  else if w.pred ((k - 4096) / 32) (k % 32) then 1#32 else 0#32

/-- Installs a value under a key; a write to p0 is discarded (R9). -/
def Warp.setKey (w : Warp) (k : Nat) (v : Word) : Warp :=
  if k < 2048 then { w with vregs := FMap.put w.vregs 0#32 k v }
  else if k < 4096 then { w with kregs := FMap.put w.kregs 0#32 (k - 2048) v }
  else
    let n := (k - 4096) / 32
    let i := k % 32
    if n = 0 then w
    else
      let m := FMap.get w.preds 0#32 n
      let b := 1#32 <<< i
      { w with preds := FMap.put w.preds 0#32 n (if v = 0#32 then m &&& ~~~b else m ||| b) }

/-- Removes a key from the results still to be installed, of operations numbered from `first` on: a later write stands (R15). -/
def dropKey (first k : Nat) (os : List Out) : List Out :=
  os.map (fun o => if o.id < first then o else { o with keys := o.keys.filter (fun j => j != k) })

/-- Operations numbered below this were issued before the macro in progress; 0 outside a macro. What the macro writes is for them a
result still to come: it stands over them when it commits, not before (R15, R125). -/
def Warp.macroFirst (w : Warp) : Nat := match w.mac with | some m => m.firstOut | none => 0

/-- The macro in progress keeps the value that a key held before it (R125). -/
def Warp.keepOld (w : Warp) (k : Nat) : Warp :=
  match w.mac with
  | none => w
  | some m =>
    if (FMap.find m.saved k).isSome then w
    else { w with mac := some { m with saved := FMap.insert m.saved k (w.readKey k) } }

/-- An architectural write by an instruction: it stands over every outstanding result for the key (R15); inside a
macro, over those of the macro only, and the value before the macro is kept (R125). -/
def Warp.writeKey (w : Warp) (k : Nat) (v : Word) : Warp :=
  let w2 := (w.keepOld k).setKey k v
  { w2 with outs := dropKey w.macroFirst k w2.outs }

/-- Writes a list of keys in order. -/
def Warp.writeKeys (w : Warp) (kvs : List (Nat × Word)) : Warp := kvs.foldl (fun w p => w.writeKey p.1 p.2) w

/-! ## Sources -/

/-- A 32-bit source in a lane (R85, R86): vector, uniform, `lid`, `z`, `lpc` or the extension word. -/
def Warp.src (w : Warp) (ext : Word) (c : BitVec 6) (i : Nat) : Word :=
  let n := c.toNat
  if n < 48 then FMap.get w.vregs 0#32 (vkey n i)
  else if n < 60 then FMap.get w.kregs 0#32 (n - 48)
  else if n = 60 then BitVec.ofNat 32 i
  else if n = 61 then 0#32
  else if n = 62 then
    match w.cl with
    | some cl => if cl.exec.getLsbD i then cl.base else w.lpcOf i
    | none => w.lpcOf i
  else ext

/-- A 64-bit source in a lane: a pair, 64-bit zero, or the extension word sign-extended (R86). -/
def Warp.srcPair (w : Warp) (ext : Word) (c : BitVec 6) (i : Nat) : DWord :=
  if c = 63#6 then ext.signExtend 64
  else if c = 61#6 then 0#64
  else pairOf (w.src ext c i) (w.src ext (c + 1#6) i)

/-- A uniform source. -/
def Warp.usrc (w : Warp) (ext : Word) (c : BitVec 6) : Word := w.src ext c 0

/-- A uniform pair. -/
def Warp.upair (w : Warp) (c : BitVec 6) : DWord := w.srcPair 0#32 c 0

/-! ## Destinations -/

/-- What a destination code writes, for values given per lane: the keys and values, in the active lanes for a vector
register, once for a uniform one (the lowest active lane's value), nothing for `z` (R81). -/
def destWrites (c : BitVec 6) (act : LaneMask) (f : Nat → Word) : List (Nat × Word) :=
  if c.toNat < 48 then act.toList.map (fun i => (vkey c.toNat i, f i))
  else if c.toNat < 60 then
    match act.lowest with
    | some i => [(ukey (c.toNat - 48), f i)]
    | none => []
  else []

/-- The writes of a pair destination. -/
def destPairWrites (c : BitVec 6) (act : LaneMask) (f : Nat → DWord) : List (Nat × Word) :=
  if c = 61#6 then []
  else destWrites c act (fun i => loWord (f i)) ++ destWrites (c + 1#6) act (fun i => hiWord (f i))

/-- Sets the new `lpc` of lanes, for the clause's end (R12, R13). -/
def Warp.retarget (w : Warp) (act : LaneMask) (f : Nat → Word) : Warp :=
  match w.cl with
  | none => w
  | some c =>
    { w with cl := some { c with targets := act.toList.foldl (fun t i => FMap.insert t i (lpcWritten (f i))) c.targets } }

/-- Writes a 32-bit destination (R81): registers, or the `lpc` of the active lanes. -/
def Warp.writeDest (w : Warp) (c : BitVec 6) (act : LaneMask) (f : Nat → Word) : Warp :=
  if c = 62#6 then w.retarget act f else w.writeKeys (destWrites c act f)

/-- Writes a pair destination (R81). -/
def Warp.writePair (w : Warp) (c : BitVec 6) (act : LaneMask) (f : Nat → DWord) : Warp :=
  w.writeKeys (destPairWrites c act f)

/-- Writes a predicate in the active lanes; p0 discards (R9, R81). -/
def Warp.writePred (w : Warp) (c : BitVec 6) (act : LaneMask) (f : Nat → Bool) : Warp :=
  let n := c.toNat % 8
  if n = 0 then w
  else w.writeKeys (act.toList.map (fun i => (pkey n i, if f i then 1#32 else 0#32)))

/-! ## Last use (R36) -/

/-- The registers a last-use bit releases on a source of a column: the whole pair on a pair's base. -/
def releasedRegs (last : Bool) (col : Col) (c : BitVec 6) : List Nat :=
  if !last || decide (48 ≤ c.toNat) then []
  else
    match col with
    | .srcPair | .basePair => [c.toNat, c.toNat + 1]
    | _ => [c.toNat]

/-- Releases registers: each reads 0 in every lane until it is next written. -/
def Warp.release (w : Warp) (regs : List Nat) : Warp :=
  regs.foldl (fun w n => lanes.foldl (fun w i => w.setKey (vkey n i) 0#32) w) w

/-- Applies the last-use bits of a step, which act only when every live lane executes it with its guard true (R36). -/
def Warp.lastUse (w : Warp) (i : Instr) (o : Ops) : Warp :=
  if (o.la || o.lb) && w.activeLanes == w.live then
    let (_, ca, cb) := i.columns
    w.release (releasedRegs o.la ca o.a ++ releasedRegs o.lb cb o.b)
  else w

/-! ## Outstanding operations -/

/-- Installs one key of a returned result. Inside a macro, a result from before it replaces the value kept from before the macro
where the macro has written the key; a result of the macro's own keeps that value first (R125). -/
def Warp.installKey (w : Warp) (early : Bool) (k : Nat) (v : Word) : Warp :=
  match w.mac with
  | none => w.setKey k v
  | some m =>
    if !early then (w.keepOld k).setKey k v
    else if (FMap.find m.saved k).isSome then { w with mac := some { m with saved := FMap.insert m.saved k v } }
    else w.setKey k v

/-- Installs a returned result in the keys it still holds (R15). -/
def Warp.install (w : Warp) (o : Out) : Warp :=
  o.vals.foldl (fun w p => if o.keys.contains p.1 then w.installKey (decide (o.id < w.macroFirst)) p.1 p.2 else w) w

/-- The operations still outstanding after a result has been installed: its keys no longer belong to an earlier one (R15). -/
def Warp.superseded (w : Warp) (o : Out) (kept : List Out) : List Out :=
  o.vals.foldl (fun ks v => dropKey (if o.id < w.macroFirst then 0 else w.macroFirst) v.1 ks) kept

/-- Commits the outstanding operations that meet a test and have returned, in issue order: an installed key no longer
belongs to an earlier operation (R14, R15). Answers the failures found, in issue order. -/
def Warp.commit (w : Warp) (p : Out → Bool) : Warp × List Fail :=
  let (w1, kept, fails) := w.outs.foldl (fun (acc : Warp × List Out × List Fail) o =>
    let (w, kept, fails) := acc
    if p o && o.waiting == 0 then
      (w.install o, w.superseded o kept,
        match o.fail with | some f => fails ++ [f] | none => fails)
    else (w, kept ++ [o], fails)) (w, [], [])
  ({ w1 with outs := kept }, fails)

/-- Whether an operation of a test is still awaited. -/
def Warp.awaits (w : Warp) (p : Out → Bool) : Bool := w.outs.any (fun o => p o && o.waiting != 0)

/-- Adds an outstanding operation; a macro's operation keeps the old values of its destinations (R125). -/
def Warp.addOut (w : Warp) (o : Out) : Warp :=
  if o.waiting == 0 && o.vals.isEmpty && o.fail.isNone then w else { w with outs := w.outs ++ [o] }

end Sys2Proof.Machine
end

