-- ==== Sys2Proof/Machine/Ops.lean ====
section
/-! DEFINITION. Shared operations of warps and workgroups: whose turn it is, charges and exhaustion (R293, R294), moving
through a clause (R12, R35), waiting, TAKING AN EXCEPTION and returning from one (R300 to R308), fault records and the
abort of a grid (R310, R317). -/

namespace Sys2Proof.Machine

/-! ## The warp and workgroup whose turn it is -/

/-- The warps, the one whose turn it is first. -/
def State.allWarps (s : State) : List Warp := (s.w :: s.warps).filter (fun w => w.present)

/-- The workgroups, the one whose turn it is first. -/
def State.allWgs (s : State) : List Workgroup := s.g :: s.wgs

/-- Puts the warp whose turn it is back among the others. -/
def State.putBack (s : State) : State :=
  { s with w := Warp.vacant, warps := if s.w.present then s.w :: s.warps else s.warps }

/-- Gives a workgroup its turn, with no warp. -/
def State.focusWg (s : State) (serial : Nat) : State :=
  if s.g.serial = serial then s
  else
    let s1 := s.putBack
    match takeFirst (fun g => g.serial == serial) s1.wgs with
    | none => s1
    | some (g, rest) => { s1 with g := g, wgs := if s1.g.serial = 0 then rest else s1.g :: rest }

/-- Gives a warp its turn, with its workgroup. -/
def State.focusWarp (s : State) (id : WarpId) : State :=
  let s0 := s.focusWg id.wg
  if s0.w.present && s0.w.wg == id.wg && s0.w.wid == id.wid then s0
  else
    let s1 := s0.putBack
    match takeFirst (fun w => w.wg == id.wg && w.wid == id.wid) s1.warps with
    | none => s1
    | some (w, rest) => { s1 with w := w, warps := rest }

/-- Whether the warp whose turn it is is the named one. -/
def State.isWarp (s : State) (id : WarpId) : Bool := s.w.present && s.w.wg == id.wg && s.w.wid == id.wid

/-- A warp by name. -/
def State.findWarp (s : State) (id : WarpId) : Option Warp :=
  s.allWarps.find? (fun w => w.wg == id.wg && w.wid == id.wid)

/-- A workgroup by serial number. -/
def State.findWg (s : State) (serial : Nat) : Option Workgroup := s.allWgs.find? (fun g => g.serial == serial)

/-- Changes the warp whose turn it is. -/
def State.modW (s : State) (f : Warp → Warp) : State := { s with w := f s.w }

/-- Changes the workgroup whose turn it is. -/
def State.modG (s : State) (f : Workgroup → Workgroup) : State := { s with g := f s.g }

/-- Changes every warp of a workgroup. -/
def State.mapWarps (s : State) (serial : Nat) (f : Warp → Warp) : State :=
  let h := fun (w : Warp) => if w.present && w.wg == serial then f w else w
  { s with w := h s.w, warps := s.warps.map h }

/-- Changes one warp. -/
def State.mapWarp (s : State) (id : WarpId) (f : Warp → Warp) : State :=
  s.mapWarps id.wg (fun w => if w.wid = id.wid then f w else w)

/-- Does something as the workgroup of a serial number, whoever's turn it is. -/
def State.onWg (s : State) (serial : Nat) (f : State → State) : State :=
  if s.g.serial = serial then f s
  else
    match s.wgs.find? (fun g => g.serial == serial) with
    | none => s
    | some g =>
      let t := f { s with g := g }
      { t with g := s.g, wgs := t.wgs.map (fun x => if x.serial = serial then t.g else x) }

/-- Changes one workgroup. -/
def State.mapWg (s : State) (serial : Nat) (f : Workgroup → Workgroup) : State :=
  let h := fun (g : Workgroup) => if g.serial = serial then f g else g
  { s with g := h s.g, wgs := s.wgs.map h }

/-- The name of the warp whose turn it is. -/
def State.warpId (s : State) : WarpId := ⟨s.w.wg, s.w.wid⟩

/-- The warps of a workgroup. -/
def State.warpsOf (s : State) (serial : Nat) : List Warp := s.allWarps.filter (fun w => w.wg == serial)

/-- A grid by identifier. -/
def State.findGrid (s : State) (id : Word) : Option Grid := s.grids.find? (fun g => g.id == id)

/-- Changes one grid. -/
def State.mapGrid (s : State) (id : Word) (f : Grid → Grid) : State :=
  { s with grids := s.grids.map (fun g => if g.id = id then f g else g) }

/-- The package-wide number of a workgroup's tile (R16). -/
def Workgroup.tile (g : Workgroup) : Nat := g.core / 256

/-- The pair of a core (R189). -/
def pairOfCore (core : Nat) : Nat := core / 2

/-- Threads, rounded up to warps (R7). -/
def warpsFor (size : Nat) : Nat := (size + 31) / 32

/-! ## Charges and exhaustion (R293, R294) -/

/-- Begins a forced yield of the workgroup whose turn it is (R296). -/
def State.beginForced (s : State) : State :=
  if s.g.forced then s else { s with g := { s.g with forced := true, saveCause := .exhaustion }, events := s.events ++ [.forcedYield s.g.serial] }

/-- Sets the exhaustion latch, which ends every WAITA wait of the workgroup early (R166, R294). -/
def State.setLatch (s : State) : State :=
  if s.g.latch then s
  else
    let waits := (s.warpsOf s.g.serial).filterMap (fun w =>
      match w.wait with | .word _ _ _ _ _ _ _ => some (Instr.waitaWake ⟨w.wg, w.wid⟩) | _ => none)
    { s with g := { s.g with latch := true }, events := s.events ++ waits }

/-- Treats a purse of the workgroup as exhausted (R294): in resting mode a forced yield; else the latch, and a forced yield when no
resting point is declared. -/
def State.exhaust (s : State) : State :=
  if s.g.resting then s.beginForced
  else if s.g.rest == lpcExited then s.setLatch.beginForced
  else s.setLatch

/-- What the warps of a workgroup have set aside from its purses, or from its grace counters, and not spent (R181): for the clauses they
are in, and for those in which they were trapped. -/
def State.setAside (s : State) (serial : Nat) (grace : Bool) : Nat × Nat :=
  let add := fun (acc : Nat × Nat) (r : Option (Bool × Nat × Nat)) =>
    match r with
    | some (gr, u, b) => if gr = grace then (acc.1 + u, acc.2 + b) else acc
    | none => acc
  (s.warpsOf serial).foldl (fun acc w => add (add acc w.res) (w.frame.bind (fun f => f.res))) (0, 0)

/-- The purses of a workgroup (R139, R141): what is set aside and not spent is still in them, until they are forced to zero (R297). -/
def State.purses (s : State) (g : Workgroup) : Nat × Nat :=
  if g.heldPurses.isSome then (g.ipurse, g.mpurse)
  else let r := s.setAside g.serial false; (g.ipurse + r.1, g.mpurse + r.2)

/-- The grace counters of a workgroup (R294). -/
def State.graceLeft (s : State) (g : Workgroup) : Nat × Nat :=
  let r := s.setAside g.serial true; (g.graceUnits + r.1, g.graceBytes + r.2)

/-- Whether a purse, or a grace counter in resting mode, holds nothing (R294). -/
def State.noFunds (s : State) (g : Workgroup) : Bool :=
  let r := if g.resting then s.graceLeft g else s.purses g
  r.1 == 0 || r.2 == 0

/-- What a charge is made to: the grace counters in resting mode, else the purses. -/
def State.funds (s : State) (g : Workgroup) : Nat × Nat := if g.resting then s.graceLeft g else s.purses g

/-- Whether a charge of an amount has emptied what it was made to: from `was` to `now`, where `free` was not set aside for an MX clause. A
charge that takes more than is free empties it too, but for what is set aside. -/
def runsOut (amount was free now : Nat) : Bool := amount != 0 && was != 0 && (now == 0 || decide (free < amount))

/-- What an emptied purse or grace counter brings about (R294). -/
def State.runDry (s : State) (grace : Bool) : State :=
  if grace then (if s.g.forced then s else { s with events := s.events ++ [.graceExhaustion s.g.serial] }) else s.exhaust

/-- Debits instruction units and traffic bytes: from the purses, or from the grace counters in resting mode; a counter or
a purse that reaches 0 acts as R294 says. What an MX clause has set aside is left to it (R181, log 33). -/
def State.debit (s : State) (units bytes : Nat) : State :=
  let was := s.funds s.g
  let s1 : State := { s with g :=
    if s.g.resting then { s.g with graceUnits := s.g.graceUnits - units, graceBytes := s.g.graceBytes - bytes }
    else { s.g with ipurse := s.g.ipurse - units, mpurse := s.g.mpurse - bytes } }
  let now := s1.funds s1.g
  let free := if s.g.resting then (s.g.graceUnits, s.g.graceBytes) else (s.g.ipurse, s.g.mpurse)
  if runsOut units was.1 free.1 now.1 || runsOut bytes was.2 free.2 now.2 then s1.runDry s.g.resting else s1

/-- Whether the purses, or the grace counters in resting mode, cover a charge (R181, R201, R221). -/
def Workgroup.covers (g : Workgroup) (units bytes : Nat) : Bool :=
  if g.resting then decide (units ≤ g.graceUnits) && decide (bytes ≤ g.graceBytes)
  else decide (units ≤ g.ipurse) && decide (bytes ≤ g.mpurse)

/-- What was set aside goes back to where it came from; to the values kept for the resumption, once the purses have been forced to zero
(R297). -/
def Workgroup.giveBack (g : Workgroup) (r : Option (Bool × Nat × Nat)) : Workgroup :=
  match r with
  | none => g
  | some (true, u, b) => { g with graceUnits := g.graceUnits + u, graceBytes := g.graceBytes + b }
  | some (false, u, b) =>
    match g.heldPurses with
    | some (i, m) => { g with heldPurses := some (i + u, m + b) }
    | none => { g with ipurse := g.ipurse + u, mpurse := g.mpurse + b }

/-- At a clause boundary a warp gives back what its last MX clause did not spend; one whose last lane has gone, what its trapped clause
did not spend either. -/
def State.unreserve (s : State) : State :=
  let g := s.g.giveBack s.w.res
  if s.w.live = 0#32 then
    { s with
      w := { s.w with res := none, frame := s.w.frame.map (fun f => { f with res := none }) }
      g := g.giveBack (s.w.frame.bind (fun f => f.res)) }
  else { s with w := { s.w with res := none }, g := g }

/-- Sets aside the static charge of the MX clause that the warp selects, so that no other charge can leave one of its instructions
charged for part of its work (R181; DESIGN CHOICE, log 33). The purse reads with it until an instruction of the clause spends it. -/
def State.reserve (s : State) (units bytes : Nat) : State :=
  let g := if s.g.resting then { s.g with graceUnits := s.g.graceUnits - units, graceBytes := s.g.graceBytes - bytes }
    else { s.g with ipurse := s.g.ipurse - units, mpurse := s.g.mpurse - bytes }
  { s with w := { s.w with res := some (s.g.resting, units, bytes) }, g := g }

/-- The charge of an MX instruction: from what its clause set aside, the last of which leaves an empty purse exhausted (R294); without
that, as any charge. -/
def State.spend (s : State) (units bytes : Nat) : State :=
  match s.w.res with
  | some (gr, u, b) =>
    if u < units ∨ b < bytes then s.debit units bytes
    else
      let left := fun (s : State) => if gr then s.graceLeft s.g else s.purses s.g
      let s1 : State := { s with w := { s.w with res := some (gr, u - units, b - bytes) } }
      if gr == s.g.resting && (runsOut units (left s).1 units (left s1).1 || runsOut bytes (left s).2 bytes (left s1).2) then s1.runDry gr else s1
  | none => s.debit units bytes

/-- Puts a purse at a value (R139, R142, R295): what MX clauses have set aside stays in it, unless the value is less. -/
def State.setPurses (s : State) (units bytes : Option Nat) : State :=
  let r := if s.g.heldPurses.isSome then (0, 0) else s.setAside s.g.serial false
  let below := fun (v : Option Nat) (n : Nat) => match v with | some x => decide (x < n) | none => false
  let cut := fun (q : Option (Bool × Nat × Nat)) =>
    match q with
    | some (false, u, b) => some (false, if below units r.1 then 0 else u, if below bytes r.2 then 0 else b)
    | q => q
  let s1 := if below units r.1 || below bytes r.2 then
      s.mapWarps s.g.serial (fun w => { w with res := cut w.res, frame := w.frame.map (fun f => { f with res := cut f.res }) })
    else s
  let put := fun (v : Option Nat) (old n : Nat) => match v with | some x => if x < n then x else x - n | none => old
  s1.modG (fun g => { g with ipurse := put units g.ipurse r.1, mpurse := put bytes g.mpurse r.2 })

/-- Whether the instruction at the warp's index has already issued and been charged (R145, R148). -/
def State.charged (s : State) : Bool := match s.w.cl with | some c => c.charged | none => false

/-- The charge an instruction makes at issue, once. -/
def State.charge (s : State) (units bytes : Nat) : State := if s.charged then s else s.debit units bytes

/-! ## Moving through a clause -/

/-- Parks the warp: it waits, and leaves the active set with its loop buffer empty (R135, R292). -/
def Warp.park (w : Warp) (x : Wait) : Warp := { w with wait := x, active := false, loopLo := 0, loopHi := 0, loopWords := [] }

/-- Lets a waiting warp go on. -/
def Warp.unpark (w : Warp) : Warp := { w with wait := .none }

/-- The end of a clause (R12): each executing lane that is still live takes its new `lpc`, or the next header's offset. A warp of
which every live lane then rests is parked: it leaves the active set (R123, R291). -/
def Warp.endClause (w : Warp) : Warp :=
  match w.cl with
  | none => w
  | some c =>
    let next := lpcWritten (c.base + BitVec.ofNat 32 c.off)
    let lpc := (LaneMask.toList c.exec).foldl (fun m i =>
      if isOffset (FMap.get m lpcExited i) then FMap.put m lpcExited i ((FMap.find c.targets i).getD next) else m) w.lpc
    let w1 : Warp := { w with lpc := lpc, resting := w.resting ||| c.yields, cl := none }
    if w1.live &&& ~~~w1.resting = 0#32 then { w1 with active := false, loopLo := 0, loopHi := 0, loopWords := [] } else w1

/-- The spawn record of a leaving lane (R115): registers and predicates with its outstanding results committed. `amask` is
the warp's when the lane leaves (DESIGN CHOICE, log 19: R118 copies it from the origin warp without saying when). -/
def spawnRec (w : Warp) (mask lane : Nat) (target : Word) : SpawnRec :=
  let regs := (List.range 48).foldl (fun (m : FMap Word) n =>
    if mask.testBit n then FMap.put m 0#32 n (w.readKey (vkey n lane)) else m) []
  let preds := (List.range 8).foldl (fun (p : BitVec 8) n => if n ≠ 0 ∧ w.pred n lane then p ||| (1#8 <<< n) else p) 0#8
  { tid := FMap.get w.tids 0 lane, target := target, aflags := w.aflags, preds := preds, regs := regs, origin := w.wid,
    amask := w.amask }

/-- Threads that arrive together stand in ascending `tid` (R117). -/
def insertByTid (r : SpawnRec) : List SpawnRec → List SpawnRec
  | [] => [r]
  | x :: xs => if r.tid < x.tid then r :: x :: xs else x :: insertByTid r xs

/-- The records that the lanes leaving by BRA.SPLIT write at the clause's end, in ascending `tid` (R115). A result of theirs that failed is left
out of the record, and the remaining warp takes the failure at its next commit point (DESIGN CHOICE, log 112). -/
def Warp.leavers (w : Warp) (c : Clause) : List SpawnRec :=
  match c.split with
  | none => []
  | some (target, mask) =>
    let view := (w.commit (fun x => x.hasDest)).1
    (c.leaving.toList.map (fun l => spawnRec view mask l target)).foldl (fun l r => insertByTid r l) []

/-- The word at a virtual address through the instruction-fetch path: the page must permit execution (R28, R309). -/
def State.fetchVa (s : State) (va : DWord) : Except Cause Word :=
  if 2 ^ 57 ≤ va.toNat ∨ inFixedRange va.toNat then .error .protection
  else
    match translate s s.g.space s.g.level .exec va.toNat with
    | .error c => .error c
    | .ok (key, _) =>
      match s.walkBytes key 4 with
      | .error c => .error c
      | .ok bs => .ok (BitVec.ofNat 32 (leNat bs))

/-- The words of a span, as fetched now. -/
def State.spanWords (s : State) (lo n : Nat) : FMap Word :=
  (List.range n).foldl (fun m j =>
    match s.fetchVa (s.g.code + BitVec.ofNat 64 (lo + 4 * j)) with
    | .ok x => FMap.insert m (lo + 4 * j) x
    | .error _ => m) []

/-- Fills the loop buffer with a span, unless it holds that span already (R135). -/
def State.fillLoop (s : State) (lo hi : Nat) : State :=
  if s.w.loopLo = lo ∧ s.w.loopHi = hi then s
  else
    let ws := s.spanWords lo ((hi - lo) / 4)
    s.modW (fun w => { w with loopLo := lo, loopHi := hi, loopWords := ws })

/-- A transfer of a clause that fills the loop buffer does so as the clause ends (R35, R135). -/
def State.fillDue (s : State) (c : Clause) : State :=
  match c.fill with
  | some (lo, hi) => s.fillLoop lo hi
  | none => s

/-- Ends the clause when its last instruction has passed: a transfer that fills the loop buffer does (R35, R135); lanes that leave by
BRA.SPLIT write their records to spawn memory (R115); a warp whose last lane goes gives back what is set aside for it (R181). -/
def State.closeClause (s : State) : State :=
  match s.w.cl with
  | none => s
  | some c =>
    if c.idx = c.hdr.n.toNat then
      let s1 := s.fillDue c
      let w := s1.w.endClause
      let s2 : State := { s1 with w := w, g := { s1.g with spawn := s1.g.spawn ++ s.w.leavers c } }
      if w.live = 0#32 then s2.unreserve else s2
    else s

/-- The restart point of an exception at the next instruction (R300): the clause and the index reached. -/
def Warp.trapRec (w : Warp) (cause : Cause) (lns : LaneMask) (addr : DWord) (deferred : Bool) : TrapRec :=
  match w.cl with
  | some c =>
    { cause := cause, lanes := lns, addr := addr, clause := c.base, index := c.idx, exec := c.exec,
      inmac := w.mac.isSome, mop := (match w.mac with | some m => m.j | none => 0), deferred := deferred }
  | none =>
    { cause := cause, lanes := lns, addr := addr, clause := 0#32, index := 0, exec := 0#32, inmac := false, mop := 0,
      deferred := deferred }

/-! ## Fault records and the abort of a grid -/

/-- The record of a warp's trap (R311). -/
def State.warpRecord (s : State) (r : TrapRec) : Rec :=
  { kind := 1, cause := r.cause.code, grid := s.g.grid, x := s.g.x, y := s.g.y, z := s.g.z, wident := s.w.wident,
    core := s.g.core, addr := s.recordAddr s.g.space r.cause r.addr, clause := r.clause, deferred := r.deferred, inmac := r.inmac, mop := r.mop,
    index := r.index, lanes := r.lanes }

/-- The record of an engine entry discarded when its workgroup ends (R317). -/
def discardRecord (g : Workgroup) (queue : Nat) (clause : Word) (index status : Nat) : Rec :=
  { kind := 2, cause := 0x58, grid := g.grid, x := g.x, y := g.y, z := g.z, core := g.core, queue := queue,
    clause := clause, index := index, extra := BitVec.ofNat 64 status }

/-- Whether a grid descends from another, with fuel for the depth of nesting (at most 10, R16). -/
def descends (gs : List Grid) (anc : Word) : Nat → Word → Bool
  | 0, _ => false
  | n + 1, id =>
    match gs.find? (fun g => g.id == id) with
    | none => false
    | some g => g.parentWg != 0 && (g.parent == anc || descends gs anc n g.parent)

/-- An operation of a warp of an aborted grid: a request of it is drained and its result discarded (R317). -/
def Out.discarded (o : Out) : Out := { o with hasDest := false, keys := [], vals := [], fail := none, discard := true }

/-- A warp of an aborted grid: every lane exited, nothing to do but to drain its requests. -/
def Warp.kill (w : Warp) : Warp :=
  { w with
    lpc := [], cl := none, mac := none, wait := .none, res := none
    outs := (w.outs.filter (fun o => o.waiting != 0 && (o.cls == 0 || o.cls == 1))).map Out.discarded
    trap := none, frame := none, pendFails := [], held := none, observed := [], resting := 0#32, stopped := false }

/-- Whether a wait ends without another warp or an answer of the host. -/
def Wait.endsAlone : Wait → Bool
  | .barrier _ _ _ | .ring _ _ _ _ | .word _ _ _ _ _ _ _ | .token _ => false
  | _ => true

/-- Whether a warp stands where an abort stops it at once: at a clause boundary, or in a wait that nothing of its aborted grid will
end. Any other stops at its next clause boundary (R317). -/
def Warp.stopsNow (w : Warp) : Bool := w.cl.isNone || !w.wait.endsAlone

/-- A workgroup of an aborted grid without its unstarted and held engine entries (R317). -/
def Workgroup.cutEngines (g : Workgroup) : Workgroup :=
  { g with porter := g.porter.filter (fun c => c.started), mx := g.mx.filter (fun e => e.step != 0), spawn := [] }

/-- The records of those entries. -/
def Workgroup.cutRecords (g : Workgroup) (status : Nat) : List Rec :=
  (g.porter.filter (fun c => !c.started)).map (fun c => discardRecord g c.queue c.clause c.index status)
  ++ (g.mx.filter (fun e => e.step == 0)).map (fun e => discardRecord g 0 e.clause e.index status)

/-- A warp of an aborted grid stops at its clause boundary; engine entries that it still queued are discarded (R317). -/
def State.stopAborted (s : State) : State :=
  let s1 := (s.modW Warp.kill).modG Workgroup.cutEngines
  (s.g.cutRecords s.g.status).foldl State.post s1

/-- Aborts a grid and its descendants with a status (R317): warps at a boundary, or in a wait that would not end, stop now, the others at
their next clause boundary; unstarted and held engine entries are discarded with a record each; itineraries that the grid
started stop with ABORTED at their next turn; workgroups complete when their warps have stopped and drained. -/
def State.abortGrid (s : State) (id : Word) (status : Nat) : State :=
  let hit := fun (g : Word) => g == id || descends s.grids id 11 g
  let wgs := s.allWgs.filter (fun g => hit g.grid && g.place != .complete)
  let serials := wgs.map (fun g => g.serial)
  let recs := wgs.flatMap (fun g => g.cutRecords status)
  let kill := fun (w : Warp) => if serials.contains w.wg && w.present && w.stopsNow then w.kill else w
  let cut := fun (g : Workgroup) =>
    if serials.contains g.serial then { g.cutEngines with status := max g.status status } else g
  let s1 := { s with
    w := kill s.w, warps := s.warps.map kill, g := cut s.g, wgs := s.wgs.map cut
    grids := s.grids.map (fun g => if hit g.id then { g with aborted := true, status := max g.status status } else g) }
  recs.foldl State.post s1

/-! ## Taking an exception (R300 to R308) -/

/-- The `tcause` word (R305). -/
def tcauseWord (r : TrapRec) (pending : Bool) : Word :=
  BitVec.ofNat 32 ((if pending then 2 ^ 15 else 0) + (if r.deferred then 2 ^ 14 else 0) + r.mop % 32 * 2 ^ 9
    + (if r.inmac then 2 ^ 8 else 0) + r.cause.code)

/-- The trap block of a record (R305). -/
def TrapRec.block (r : TrapRec) (pending : Bool) : TrapBlock :=
  { tcause := tcauseWord r pending, tclause := r.clause, tindex := BitVec.ofNat 32 r.index, tlanes := r.lanes,
    taddrLo := loWord r.addr, taddrHi := hiWord r.addr }

/-- Enters the handler (R302, R303, R306): every returned result commits; failures found become pending; the frame saves
each lane's `lpc`, p1–p7 and the trapped clause; the trap block is written; every live lane goes to `tvec`. Lanes that
rest stay resting (R123). -/
def Warp.enterHandler (w : Warp) (r : TrapRec) (tvec : Word) : Warp :=
  let (w1, fails) := w.commit (fun o => o.hasDest)
  let pend := w1.pendFails ++ fails
  let mac := w1.mac.map (fun m => { m with saved := [] })
  let frame : Frame := { lpc := w1.lpc, preds := w1.preds, cl := w1.cl, mac := mac, pend := pend, res := w1.res }
  { w1 with
    frame := some frame, tb := r.block (!pend.isEmpty), pendFails := [], cl := none, mac := none, trap := none, res := none
    lpc := w1.live.toList.foldl (fun m i => FMap.put m lpcExited i tvec) w1.lpc
    wait := .none, loopLo := 0, loopHi := 0, loopWords := [] }

/-- A fatal trap (R308): the grid is aborted; the trapping warp stops where it is. -/
def State.fatal (s : State) (status : Nat) : State := ({ s with w := s.w.kill }).abortGrid s.g.grid status

/-- A trap delivered to the warp's handler (R304, R306, R308): fatal without a handler or inside it; entered at once when
nothing is outstanding, else after the drain (R302). -/
def State.deliver (s : State) (r : TrapRec) : State :=
  if s.g.tvec == lpcExited || s.w.frame.isSome then s.fatal 3
  else if s.w.awaits (fun o => o.hasDest) then
    { s with w := { s.w.park .drain with trap := some r }, events := s.events ++ [.handlerEntry s.warpId] }
  else { s with w := s.w.enterHandler r s.g.tvec }

/-- TAKING AN EXCEPTION: a host-destined cause parks the warp on a token and posts a record; any other goes to the handler
(R304). A walk that must first ask a home is no exception: the warp waits for the answer, and takes its instruction up again. -/
def State.raiseRec (s : State) (r : TrapRec) : State :=
  if r.cause = .walkWait then { s with w := s.w.park (.walk r.addr.toNat) }
  else if r.cause.toHost then
    let (s1, t) := s.parkFault (.warp s.warpId) r.addrs (s.warpRecord r)
    { s1 with w := { s1.w.park (.token t) with trap := some r } }
  else s.deliver r

/-- An exception at the instruction the warp has reached, for given lanes and `taddr` (R300), with the lane addresses of the access that
faulted (R310). An instruction that issued is charged again when it issues again, but for a replay (R145, R312). -/
def State.raise (s : State) (cause : Cause) (lns : LaneMask) (addr : DWord) (addrs : FMap DWord := []) : State :=
  let r := { s.w.trapRec cause lns addr false with addrs := addrs }
  let keep := cause.toHost || cause == .walkWait
  let s1 := s.modW (fun w => { w with cl := w.cl.map (fun c =>
    { c with charged := keep, awaits := if keep then c.awaits else [], addrs := if keep then c.addrs else [] }) })
  s1.raiseRec r

/-- The instruction at the warp's index is charged again when it issues again (R300). -/
def Warp.uncharge (w : Warp) : Warp := { w with cl := w.cl.map (fun c => { c with charged := false, awaits := [], addrs := [] }) }

/-- A failure reported by a reply, taken where its result would commit (R149, R300). -/
def State.raiseFail (s : State) (f : Fail) : State := s.raiseRec (s.w.trapRec f.cause f.lanes f.addr true)

/-- Takes the failures a commit found: the first now, the others after it (R303). -/
def State.raiseFails (s : State) (fails : List Fail) : State :=
  match fails with
  | [] => s
  | f :: rest => ({ s with w := { s.w with pendFails := s.w.pendFails ++ rest } }).raiseFail f

/-- THE RETURN FROM AN EXCEPTION (R307): every live lane's `lpc` and p1–p7 come back from the frame, the saved executing
lanes resume at the recorded clause and index, the trap block is cleared, and a pending failure is taken. The clause's `WAIT` is applied
again (R301): the warp waits for its classes, or commits them at once and takes their failures. -/
def State.returnTrap (s0 : State) : State :=
  let s := s0.unreserve
  match s.w.frame with
  | none => s
  | some fr =>
    let live := s.w.live
    let lpc := live.toList.foldl (fun m i => FMap.put m lpcExited i (FMap.get fr.lpc lpcExited i)) s.w.lpc
    -- a pending failure has the same restart point (R303); without one, index 0 selects the clause anew
    let cl := match fr.cl with
      | none => none
      | some c => if c.idx = 0 && fr.mac.isNone && fr.pend.isEmpty then none else some { c with exec := c.exec &&& live }
    let mac := if cl.isSome then fr.mac.map (fun m => { m with firstOut := s.nextId }) else none
    let w1 : Warp := { s.w with
      lpc := lpc, preds := fr.preds, cl := cl, mac := mac, frame := none, tb := {}, res := fr.res
      pendFails := [], wait := .none, loopLo := 0, loopHi := 0, loopWords := [] }
    let s1 : State := if cl.isSome then { s with w := w1 } else ({ s with w := w1 } : State).unreserve
    match fr.pend, cl with
    | f :: rest, _ => ({ s1 with w := { s1.w with pendFails := rest } }).raiseFail f
    | [], none => s1
    | [], some c =>
      let pick := fun (o : Out) => c.hdr.wait.getLsbD o.cls
      if s1.w.awaits pick then { s1 with w := s1.w.park .header }
      else
        let (w, fails) := s1.w.commit pick
        if fails.isEmpty then ({ s1 with w := w }).closeClause else ({ s1 with w := w }).raiseFails fails

/-! ## Retiring an instruction -/

/-- Takes the failures of operations that have returned, at an instruction that waits for them: from the state before the instruction's
charge, since it has not issued and is charged when it does (R149, R300). -/
def State.takeFails (s : State) (p : Out → Bool) : State :=
  let (w, fails) := s.w.commit p
  ({ s with w := w } : State).raiseFails fails

/-- The switch marker (R35): the warp waits for every destination outstanding, or commits at once when all have returned. -/
def State.marker (s : State) : State :=
  if s.w.awaits (fun o => o.hasDest) then { s with w := s.w.park .marker }
  else
    let (w, fails) := s.w.commit (fun o => o.hasDest)
    ({ s with w := w }).raiseFails fails

/-- Passes to the next instruction of the clause; lanes leave at the clause's end only when BRA.SPLIT is what was passed. -/
def Warp.advance (w : Warp) (len : Nat) (splits : Bool := false) : Warp :=
  match w.cl with
  | none => w
  | some c =>
    { w with cl := some { c with
        idx := c.idx + 1, off := c.off + len, charged := false, awaits := [], addrs := [], split := if splits then c.split else none } }

/-- An instruction has issued and done its work: last-use registers were released by its meaning; the warp passes it,
honours its switch marker, and ends the clause after the last one. An operation of a macro is passed by the macro
sequencer instead, which waits for its results, and at a switch marker for the warp's earlier ones too (R35, R125). -/
def State.retire (s : State) (i : Instr) (o : Ops) : State :=
  match s.w.mac with
  | some m =>
    -- the sequencer waits for the operation's results before the next one
    let w1 : Warp := { s.w with
      mac := some { m with j := m.j + 1 }
      cl := s.w.cl.map (fun c => { c with charged := false, awaits := [], addrs := [] }) }
    { s with w :=
        if o.s && w1.outs.any (fun x => x.hasDest) then w1.park .marker
        else if w1.outs.any (fun x => x.hasDest && decide (m.firstOut ≤ x.id)) then w1.park .macroOp else w1 }
  | none =>
    let s1 := s.modW (fun w => w.advance i.lenBytes i.isSplit)
    let s2 := if o.s then s1.marker else s1
    if s2.w.wait = .none && s2.w.trap.isNone && s2.w.frame == s.w.frame then s2.closeClause else s2

/-- The instruction waits for a condition and is taken up again; it stays charged (R145, R148). -/
def State.stall (s : State) (x : Wait) : State :=
  s.modW (fun w => { (w.park x) with cl := w.cl.map (fun c => { c with charged := true }) })

/-- Passes an instruction of given length, whose own trap or reported failure has the next instruction as its restart point (R300). -/
def State.passLen (s : State) (len : Nat) (cause : Cause) (lns : LaneMask) (addr : DWord) (deferred : Bool) : State :=
  let s1 := s.modW (fun w =>
    match w.mac with
    | some m => { w with mac := some { m with j := m.j + 1 }, cl := w.cl.map (fun c => { c with charged := false, awaits := [], addrs := [] }) }
    | none => w.advance len)
  s1.raiseRec (s1.w.trapRec cause lns addr deferred)

/-- Passes the instruction the warp has reached, with a trap or failure after it. -/
def State.passAndRaise (s : State) (i : Instr) (cause : Cause) (lns : LaneMask) (addr : DWord) (deferred : Bool) : State :=
  s.passLen i.lenBytes cause lns addr deferred

/-- Sets what the waiting instruction joins. -/
def State.setAwaits (s : State) (ids : List Nat) : State :=
  s.modW (fun w => { w with cl := w.cl.map (fun c => { c with awaits := ids }) })

/-- What the instruction joined when it first issued. -/
def State.awaitIds (s : State) : List Nat := match s.w.cl with | some c => c.awaits | none => []

/-- The effect of a step as an outcome. -/
abbrev go (s : State) : Host.Outcome State Fault Refusal := .next s

/-- Raises flags in the warp's `aflags` (R18, R82). -/
def Warp.addFlags (w : Warp) (f : Word) : Warp := { w with aflags := w.aflags ||| (f &&& flagBits) }

/-- Whether a request is one that a core itself awaits, or its stash agent: not a merged one, whose constituents stand in its
waybill. -/
def Req.ofCore (r : Req) (core : Nat) : Bool :=
  (match r.dest with | .waybill _ | .engine => false | _ => true)
    && (match r.who with | .core p c | .stash p c => p == Config.pkgid && c == core | _ => false)

/-- The requests of a core that stand in waybills. -/
def State.mergedOf (s : State) (core : Nat) : List Req :=
  (s.fab.waybills.filter (fun b => !b.quarantined)).flatMap (fun b => [b.first, b.second].filter (fun r => r.ofCore core))

/-- Whether a request is a stash agent's write-back that has not left its core: it takes a request entry when one is free. -/
def Req.unsent (r : Req) : Bool := r.stage == 0 && r.kind == .wtw && (match r.who with | .stash _ _ => true | _ => false)

/-- The outstanding requests of a core (R150): those on their way, merged or not, and its aperture loads. Of the requests to peers at most
256 are outstanding; the others wait at the core without an entry (R340). -/
def State.outstandingOf (s : State) (core : Nat) : Nat :=
  let mine := s.fab.reqs.filter (fun r => r.ofCore core && !r.unsent) ++ s.mergedOf core
  let peer := (mine.filter (fun r => regionOf (keyPa r.key) == 6)).length
  (mine.length - peer) + min 256 peer + (s.fab.apLoads.filter (fun a => a.core == core)).length

/-- Two failures of one operation joined: the lanes of both, the cause and address of the one with the lowest lane (R149). -/
def joinFail (x y : Option Fail) : Option Fail :=
  match x, y with
  | none, f => f
  | f, none => f
  | some a, some b =>
    let first := match a.lanes.lowest, b.lanes.lowest with
      | some i, some j => decide (i ≤ j)
      | some _, none => true
      | none, _ => false
    some (if first then { a with lanes := a.lanes ||| b.lanes } else { b with lanes := a.lanes ||| b.lanes })

/-- Whether a failure of a reply leaves a destination key with its previous value (R149): a register of a failed lane, whichever
half of it the reply was for, or the uniform destination it was for; every lane's for an incomplete aperture line (R152). -/
def Fail.loses (f : Fail) (parts : List Part) (k : Nat) : Bool :=
  f.cause == .apertureIncomplete || (decide (k < 2048) && f.lanes.getLsbD (k % 32))
    || (decide (2048 ≤ k) && parts.any (fun p => decide (2048 ≤ p.key)))

/-- Counts one reply of an outstanding operation, adding values and joining a failure (R149). -/
def Out.take (o : Out) (vals : List (Nat × Word)) (fail : Option Fail) (parts : List Part) : Out :=
  { o with
    vals := o.vals ++ vals, waiting := o.waiting - 1, fail := if o.discard then none else joinFail o.fail fail
    keys := match fail with | some f => o.keys.filter (fun k => !(f.loses parts k)) | none => o.keys }

/-- An operation with nothing left to commit: no destination, no failure, every reply in. -/
def Out.spent (o : Out) : Bool := o.waiting == 0 && !o.hasDest && o.keys.isEmpty && o.fail.isNone

/-- A reply of a warp's outstanding operation. -/
def State.outReply (s : State) (w : WarpId) (out : Nat) (vals : List (Nat × Word)) (fail : Option Fail) (parts : List Part := []) :
    State :=
  s.mapWarp w (fun x => { x with
    outs := (x.outs.map (fun (o : Out) => if o.id = out then o.take vals fail parts else o)).filter (fun o => !o.spent) })

/-- The requests under way that go back to warps: those that did not merge, and those that stand in waybills. -/
def State.leafReqs (s : State) : List Req :=
  s.fab.reqs ++ s.fab.waybills.flatMap (fun b => [b.first, b.second])

/-- Whether a warp has a request under way that touches given bytes; one whose waybill has timed out has failed (R234, R267). -/
def State.sameBytes (s : State) (w : WarpId) (key n : Nat) : Bool :=
  (s.fab.reqs ++ (s.fab.waybills.filter (fun b => !b.quarantined)).flatMap (fun b => [b.first, b.second])).any (fun r => (match r.dest with | .warp v _ _ _ => v == w | _ => false) && overlap r.key (max 1 r.len) key n)

/-- Whether a write that a warp has observed is one that a release at a scope awaits, and is not yet performed at its home. -/
def State.observedPending (s : State) (scope req : Nat) : Bool :=
  s.fab.pend.any (fun p => p.req == req && !p.done && (decide (5 ≤ scope) || p.cells.all (fun c => !(farKey c.1))))

/-- The stores of a workgroup's warps, the write-backs of its windows and the writes that its warps have observed that are not yet performed
(R169, R173, R176, R233): request numbers. -/
def State.storeIds (s : State) (serial : Nat) : List Nat :=
  ((s.fab.pend.filter (fun p => p.wg == serial && !p.done)).map (fun p => p.req))
  ++ ((s.fab.reqs.filter (fun r =>
        (((r.kind == .own && r.op == 14) || r.kind == .wtw) && (match r.dest with | .warp w _ _ _ => w.wg == serial | _ => false))
          || r.dest == .forced serial)).map (fun r => r.id))
  ++ ((s.warpsOf serial).flatMap (fun w => w.observed.filter (s.observedPending 5)))

/-- Whether stores have been performed, each at its home (R233). -/
def State.performed (s : State) (ids : List Nat) : Bool :=
  ids.all (fun i => !(s.observedPending 5 i) && !(s.fab.reqs.any (fun r => r.id == i)))

/-- Whether an outstanding store is one that a release at a scope covers (R230). -/
def Out.covered (o : Out) (scope : Nat) : Bool := o.cls == 1 && (!o.far || decide (5 ≤ scope))

/-- Whether the release of a fence at a scope is satisfied for a warp (R230): its stores are acknowledged and the writes it
observed performed, those homed in the pod for scopes up to pod, and all of them for system. -/
def State.releaseDone (s : State) (w : Warp) (scope : Nat) : Bool :=
  !(w.awaits (fun o => o.covered scope)) && w.observed.all (fun r => !(s.observedPending scope r))

/-- Whether own stores of a warp are still to be performed in L1 (R169): an own store is once its line is granted. -/
def State.ownUnderWay (s : State) (w : WarpId) : Bool :=
  s.leafReqs.any (fun r => r.kind == .own && r.op == 14 && (match r.dest with | .warp v _ _ _ => v == w | _ => false))

/-- Whether the release that a warp holds at a scope is satisfied (R168, R230): its loads, ATOMs and CASs have returned, its stores are
visible in L1 (R227, R231), and at tile scope or wider the stores it covers are performed. -/
def State.heldDone (s : State) (w : Warp) (scope : Nat) : Bool :=
  !(w.awaits (fun o => o.cls == 0)) && !(s.ownUnderWay ⟨w.wg, w.wid⟩) && (decide (scope < 2) || s.releaseDone w scope)

/-- Whether a fill of a workgroup's stash sectors is under way. -/
def State.filling (s : State) (serial : Nat) : Bool :=
  s.fab.reqs.any (fun r => match r.dest with | .window g _ _ => g == serial | _ => false)

/-- Whether a store of a core to given bytes is on its way to its home. -/
def State.storeInFlight (s : State) (core key n : Nat) : Bool :=
  s.fab.pend.any (fun p => p.core == core && p.cells.any (fun c => decide (key ≤ c.1) && decide (c.1 < key + n)))

/-- Whether a store of a core into a grain is on its way, to its home or to its line (R229, R243). -/
def State.grainBusy (s : State) (core key n : Nat) : Bool :=
  s.storeInFlight core key n
    || s.fab.reqs.any (fun r => r.kind == .own && r.op == 14 && r.who == .core Config.pkgid core
        && decide (key ≤ r.key) && decide (r.key < key + n))

/-- The commands of a workgroup by identifier: matrix entries, Porter commands and itineraries. -/
def State.commandIds (s : State) (serial : Nat) : List Nat :=
  match s.findWg serial with
  | none => []
  | some g => g.mx.map (fun e => e.id) ++ g.porter.map (fun c => c.id)
      ++ s.courier.ctxs.filterMap (fun (_, c) => if c.st = 1 && c.wg = serial then some c.id else none)

/-- Whether a command names a ring (R175). -/
def Workgroup.namesRing (g : Workgroup) (r : Nat) : Bool :=
  g.mx.any (fun e =>
    match e.op with
    | .mma _ _ _ _ _ _ _ a b _ _ =>
      (match a with | .ring q _ => q == r | _ => false) || (match b with | .ring q _ => q == r | _ => false)
    | .accst _ _ _ _ (some (q, _)) => q == r
    | _ => false)
  || g.porter.any (fun c => (field c.record 0x50 4).testBit 10 && bitsNat (field c.record 0x68 4) 5 3 == r)

/-- The number under which a warp's own accesses by requests stand. -/
def askerOf (w : WarpId) : Nat := 2 ^ 64 + w.wg * 256 + w.wid

/-- Whether every access that a warp has asked a home for is answered. -/
def State.asksDone (s : State) (w : WarpId) : Bool := s.fab.asks.all (fun a => a.agent != askerOf w || a.ans.isSome)

/-- Whether a waiting warp may go on (the step takes it up again). -/
def State.waitOver (s : State) (w : Warp) : Bool :=
  match w.wait with
  | .none => true
  | .marker => !(w.awaits (fun o => o.hasDest))
  | .classes m => !(w.awaits (fun o => m.getLsbD o.cls))
  | .header => match w.cl with | some c => !(w.awaits (fun o => c.hdr.wait.getLsbD o.cls)) | none => true
  | .arith => !(w.awaits (fun o => o.cls == 4))
  | .loads => !(w.awaits (fun o => o.cls == 0))
  | .release sc => s.releaseDone w sc
  | .held sc => s.heldDone w sc
  | .stores => !(s.ownUnderWay ⟨w.wg, w.wid⟩)
  | .same k n => !(s.sameBytes ⟨w.wg, w.wid⟩ k n)
  | .sectors => !(s.filling w.wg)
  | .kids => match s.findWg w.wg with | some g => g.kids.isEmpty | none => true
  | .commands ids => ids.all (fun i => !((s.commandIds w.wg).contains i))
  | .ringFree r => match s.findWg w.wg with | some g => !(g.namesRing r) | none => true
  | .entries n => match s.findWg w.wg with | some g => decide (s.outstandingOf g.core + n ≤ 8192) | none => true
  | .taskSlot =>
    match s.findWg w.wg with
    | some g => decide (((s.allWgs.filter (fun h => pairOfCore h.core == pairOfCore g.core && h.place == .running)).map
        (fun h => h.mx.length)).foldl (· + ·) 0 < 32)
    | none => true
  | .pending k n =>
    match s.findWg w.wg with
    | some g => !(s.grainBusy g.core k n)
    | none => true
  | .macroOp => match w.mac with | some m => !(w.awaits (fun o => o.hasDest && decide (m.firstOut ≤ o.id))) | none => true
  | .walk va => match s.findWg w.wg with | some g => s.asksDone ⟨w.wg, w.wid⟩ || (s.walkNeeds g.space va true).isNone | none => true
  | .asks => s.asksDone ⟨w.wg, w.wid⟩
  | .barrier _ _ _ | .ring _ _ _ _ | .word _ _ _ _ _ _ _ | .token _ | .drain => false

end Sys2Proof.Machine
end

