-- ==== Sys2Proof/Machine/Fetch.lean ====
section
/-! DEFINITION. Fetching clause headers, instructions, macro operations and itinerary words, and the decode checks of R38
in their order, with the traps they raise. -/

namespace Sys2Proof.Machine

/-- The word of code at an offset from the code address: from the loop buffer, or fetched (R28, R135). -/
def State.fetchWord (s : State) (off : Word) : Except Cause Word :=
  match FMap.find s.w.loopWords off.toNat with
  | some x => .ok x
  | none => s.fetchVa (s.g.code + off.setWidth 64)

/-- The lanes a warp selects from: live and not resting (R12, R123). -/
def Warp.selectable (w : Warp) : LaneMask := w.live &&& ~~~w.resting

/-- The issue address: the least `lpc` over the selectable lanes (R12). -/
def Warp.issueOffset (w : Warp) : Option Word :=
  (w.selectable).toList.foldl (fun (m : Option Word) i =>
    match m with
    | none => some (w.lpcOf i)
    | some p => if (w.lpcOf i).toNat < p.toNat then some (w.lpcOf i) else some p) none

/-- The lanes that execute the clause at an offset (R12). -/
def Warp.lanesAt (w : Warp) (p : Word) : LaneMask := maskOf (fun i => w.selectable.getLsbD i && w.lpcOf i == p)

/-- The header of zeros, which stands where a clause has no header yet. -/
def Header.zero : Header := { gsense := false, guard := 0#3, wait := 0#6, eng := 0#3, n := 0#4 }

/-- The clause selected at an offset, with a header (R12). -/
def Warp.openClause (w : Warp) (p : Word) (h : Header) : Warp :=
  { w with cl := some { base := p, exec := w.lanesAt p, hdr := h, idx := 0, off := 4, targets := [], yields := 0#32,
                        leaving := 0#32, split := none, charged := false, awaits := [] } }

/-- Whether a role may issue an instruction of a class (R39): 0 general, 1 copy, 2 matrix, 3 vector. -/
def roleAllows (role : Nat) (cls : Nat) (i : Instr) : Bool :=
  role == 0 || cls == 0 || cls == 4 || cls == 5 || i.isSyncSubset
    || (role == 1 && cls == 3) || (role == 2 && cls == 2) || (role == 3 && cls == 1)

/-- The decode checks of R38 for an instruction that stands at its place: `last` in the clause, and, when it is an
operation of a macro, under the rules of R46. Answers the cause of the first check that fails. An operation of a macro
that becomes a control transfer by substitution (the caller's `D` is 62) is out of place wherever its MACRO stands
(DESIGN CHOICE, log 18: R46 applies the checks at the MACRO's index and does not say that the operation may end a clause). -/
def decodeChecks (g : Workgroup) (role : Nat) (inMacro last : Bool) (eng : Nat) (op : BitVec 7) (o : Ops) (i : Instr) :
    Option Cause :=
  let cls := classOfOp op
  if i.isControlTransfer && (inMacro || !last) then some .illegalOpcode
  else if (if inMacro then cls ≠ 0 ∧ cls ≠ 1 ∧ !i.isWaitkids else cls ≠ eng) then some .illegalClass
  else if !(i.fieldsOk op o) || (match i.accTile with | some t => decide (g.accAllot ≤ t) | none => false) then
    some .illegalOperand
  else if !(roleAllows role cls i) then some .roleViolation
  else if i.needsPrivilege g.level then some .privilege
  else none

/-- What stands at a warp's next instruction: an instruction, or the exception its fetch or decode raises with its
`taddr` (R38, R305). -/
inductive Next where
  | instr (i : Instr)
  | trap (c : Cause) (addr : DWord)
  | fetchFault (c : Cause) (addr : DWord)
  deriving DecidableEq, Repr

/-- The address reported by a failed decode check (R305). -/
def decodeAddr (c : Cause) (w ext : Word) (i : Instr) : DWord :=
  match c, i with
  | .privilege, .swr o => BitVec.ofNat 64 (o.ext.toNat % 4096)
  | .privilege, _ => pairOf w 0#32
  | _, _ => pairOf w (if i.extended then ext else 0#32)

/-- The instruction a warp has reached inside its clause, fetched and checked (R33, R38). A fault of the fetch, of the extension word too, comes
before every check (DESIGN CHOICE, log 111: R38 gives the fetch no place among its checks). -/
def State.nextInstr (s : State) (c : Clause) : Next :=
  let at_ := c.base + BitVec.ofNat 32 c.off
  match s.fetchWord at_ with
  | .error e => .fetchFault e (s.g.code + at_.setWidth 64)
  | .ok w =>
    match decodeWord w with
    | none => .trap .illegalOpcode (pairOf w 0#32)
    | some i0 =>
      let extR : Except Cause Word := if i0.extended then s.fetchWord (at_ + 4#32) else .ok 0#32
      match extR with
      | .error e => .fetchFault e (s.g.code + (at_ + 4#32).setWidth 64)
      | .ok ext =>
        match decodePair w ext with
        | none => .trap .illegalOpcode (pairOf w 0#32)
        | some i =>
          let o : Ops := Ops.ofWord w (if i0.extended then ext else 0#32)
          match decodeChecks s.g s.w.role false (c.idx + 1 == c.hdr.n.toNat) c.hdr.eng.toNat (w.extractLsb' 25 7) o i with
          | some e => .trap e (decodeAddr e w ext i)
          | none => .instr i

/-- A macro operation with the caller's fields and immediate substituted (R46). `%i` is read by source code 63, which an
always-extended operation does not admit: that one keeps the extension word of its image (R33). -/
def MacroRun.subst (m : MacroRun) (p : MacroOp) : Word × Word :=
  let op := p.word.extractLsb' 25 7
  let o := Ops.ofWord p.word 0#32
  let o1 := if p.subst.getLsbD 0 then { o with d := m.d } else o
  let o2 := if p.subst.getLsbD 1 then { o1 with a := m.a, la := m.la } else o1
  let o3 := if p.subst.getLsbD 2 then { o2 with b := m.b, lb := m.lb } else o2
  (Ops.toWord op o3, if p.subst.getLsbD 3 && !(alwaysExtended op) then m.imm else p.ext)

/-- A macro whose caller's fields are taken again from the MACRO's words (R127). -/
def MacroRun.retaken (m : MacroRun) (w ext : Word) : MacroRun :=
  let o := Ops.ofWord w ext
  { m with imm := BitVec.ofNat 32 (bitsNat ext.toNat 15 8), d := o.d, a := o.a, b := o.b, la := o.la, lb := o.lb, s := o.s, retake := false }

/-- The macro in progress with its caller's fields in force; after a restore they are fetched again (R127). -/
def State.macroNow (s : State) (c : Clause) (m : MacroRun) : Except (Cause × DWord) MacroRun :=
  if !m.retake then .ok m
  else
    let at_ := c.base + BitVec.ofNat 32 c.off
    match s.fetchWord at_, s.fetchWord (at_ + 4#32) with
    | .error e, _ => .error (e, s.g.code + at_.setWidth 64)
    | _, .error e => .error (e, s.g.code + (at_ + 4#32).setWidth 64)
    | .ok w, .ok ext => .ok (m.retaken w ext)

/-- The operation a macro has reached, substituted and checked (R46, R126). -/
def State.nextMacroOp (s : State) (m : MacroRun) (p : MacroOp) : Next :=
  let (w, ext) := m.subst p
  match decodePair w ext with
  | none => .trap .illegalOpcode (pairOf w 0#32)
  | some i =>
    let o : Ops := Ops.ofWord w (if i.extended then ext else 0#32)
    match decodeChecks s.g s.w.role true false 0 (w.extractLsb' 25 7) o i with
    | some e => .trap e (decodeAddr e w ext i)
    | none => .instr i

/-- The pipe of the next instruction of a warp: the first of a clause that is still to be selected; none where an exception stands (R291). -/
def State.pipeNext (s : State) (w : Warp) : Option Nat :=
  match s.findWg w.wg with
  | none => none
  | some g =>
    let t := { s with w := w, g := g }
    let pipeOf := fun (x : Word) => (decodeWord x).bind Instr.pipe
    match w.cl, w.mac with
    | none, _ =>
      match w.issueOffset with
      | some p => (match t.fetchWord (p + 4#32) with | .ok x => pipeOf x | .error _ => none)
      | none => none
    | some _, some m => (m.ops[m.j]?).bind (fun p => pipeOf (m.subst p).1)
    | some c, none => (match t.fetchWord (c.base + BitVec.ofNat 32 c.off) with | .ok x => pipeOf x | .error _ => none)

/-- Whether a macro operation may stand in a macro image (R128): no control transfer, no MACRO, class ALU, MEM or CTL. The
class is the opcode's, allotted or not (R57). -/
def macroOpAllowed (p : MacroOp) : Bool :=
  let cls := classOfOp (p.word.extractLsb' 25 7)
  cls != 2 && cls != 3 && cls != 5 &&
  match decodePair p.word p.ext with
  | none => true
  | some i => !(i.isControlTransfer) && (match i with | .macroRun _ => false | _ => true)

/-- A macro image from its bytes (R46, R128): the operations, or nothing when the image breaks a rule. Word 1 of an operation that has no
extension word is not looked at (DESIGN CHOICE, log 110: R46 says it is 0, and neither rule says that another value is refused). -/
def macroImage (hdr : Word) (ops : List MacroOp) (top : List Word) : Option (List MacroOp) :=
  let n := hdr.toNat
  if n = 0 ∨ 32 < n ∨ ops.length ≠ n then none
  else if top.any (fun t => decide (16 ≤ t.toNat)) then none
  else if ops.all macroOpAllowed then some ops else none

end Sys2Proof.Machine
end

