-- ==== Sys2Proof/Machine/Fabric.lean ====
section
/-! DEFINITION. The parts of the fabric that homes and agents share: units, directory entries, requests under way, the lines that
agents hold, and what a home tracks (R235, R241, R245, R246, R263). -/

namespace Sys2Proof.Machine

/-! ## Units and agents (R232, R235) -/

/-- The originating unit of a core (R245). -/
def coreUnit (pkg core : Nat) : BitVec 24 := BitVec.ofNat 24 (pkg * 2 ^ 12 + core)

/-- The originating unit of a UALink peer (R235, R245). -/
def peerUnit (p : Nat) : BitVec 24 := BitVec.ofNat 24 (3 * 2 ^ 22 + p)

/-- The stash agent of a core of this package. -/
def stashOf (core : Nat) : Party := .stash Config.pkgid core

/-- The L1 agent of a core of this package. -/
def l1Of (core : Nat) : Party := .core Config.pkgid core

/-- A policy on a page: 0 takes the page's default (R154). -/
def effPol (pol : Nat) (a : Attr) : Nat := if pol = 0 then a.defpol else pol

/-- The effective policy of an access to memory, or of a stash window on a page (R154, R163, R340). -/
def polFor (coh : Nat) (key : Nat) (a : Attr) : Nat := if regionOf (keyPa key) = 6 then 2 else effPol coh a

/-- The request kind of a read under a policy (R154, R242, R249). -/
def loadKind (pol : Nat) : ReqKind := match pol with | 1 => .own | 3 => .si | 4 => .wi | _ => .wtr

/-! ## Homes and peers (R239, R324, R336, R340) -/

/-- The UALink peer at which a key's memory is homed, if it is (R336). -/
def peerOfKey (key : Nat) : Option Nat := if regionOf (keyPa key) = 6 then some (bitsNat (keyPa key) 53 44) else none

/-- The peer-table entry of a peer (R338). -/
def State.peerEntry (s : State) (p : Nat) : Nat := (FMap.get s.host.peers 0#64 p).toNat

/-- Whether requests to a peer fail at once: it is not in use, has no station, or is hung. -/
def peerDead (e : Nat) : Bool := !(bitNat e 63) || bitNat e 61 || bitsNat e 11 10 == 0

/-! ## Directory entries -/

/-- Changes the caches and homes. -/
def State.modFab (s : State) (f : Fab → Fab) : State := { s with fab := f s.fab }

/-- Sets a grain's entry. -/
def State.setEntry (s : State) (grain : Nat) (e : Entry) : State :=
  s.modFab (fun f => { f with dir := FMap.put f.dir Entry.u grain e })

/-- A request by number. -/
def State.findReq (s : State) (id : Nat) : Option Req := s.fab.reqs.find? (fun r => r.id == id)

/-- Removes a request. -/
def State.dropReq (s : State) (id : Nat) : State :=
  s.modFab (fun f => { f with reqs := f.reqs.filter (fun r => r.id != id) })

/-- Changes a request. -/
def State.mapReq (s : State) (id : Nat) (g : Req → Req) : State :=
  s.modFab (fun f => { f with reqs := f.reqs.map (fun r => if r.id = id then g r else r) })

/-- A waybill by its ticket. -/
def State.findWaybill (s : State) (t : Ticket) : Option Waybill := s.fab.waybills.find? (fun b => b.ticket == t)

/-- The requests that a request stands for, those merged into it taken apart. -/
def State.leaves (s : State) : Nat → Req → List Req
  | 0, r => [r]
  | n + 1, r =>
    match r.dest with
    | .waybill t =>
      match s.findWaybill t with
      | some b => s.leaves n b.first ++ s.leaves n b.second
      | none => [r]
    | _ => [r]

/-- Adds one to a counter (R275). -/
def State.count (s : State) (n : Nat) : State :=
  s.modFab (fun f => { f with counters := FMap.put f.counters 0#32 n (FMap.get f.counters 0#32 n + 1#32) })

/-- Adds a request to those under way. -/
def State.addReq (s : State) (r : Req) : State := s.modFab (fun f => { f with reqs := f.reqs ++ [r] })

/-- The lowest request slot of a core that none of its outstanding requests holds (R263). -/
def State.freeSlotOf (s : State) (core : Nat) : Nat :=
  let held := (s.leafReqs.filter (fun r => r.ofCore core)).map (fun r => r.slot)
  ((List.range (held.length + 1)).find? (fun i => !(held.contains i))).getD 0

/-- Sends a request of a core, or of its stash agent, on its way (R257), in a free request slot. -/
def State.send (s : State) (r : Req) : State :=
  let core := match r.who with | .core _ c | .stash _ c => c | _ => 0
  (s.addReq { r with slot := s.freeSlotOf core }).push (.waystationArrival 1 r.id)

/-- The key of an agent in the incarnation table: packages by number, the companion 1,023, peers from 1,024. -/
def State.incarnation (s : State) (k : Nat) : Byte := FMap.get s.host.incarnations 0#8 k

/-- The incarnation that this package's messages bear. -/
def State.ownInc (s : State) : Byte := s.incarnation Config.pkgid

/-- Whether a message bears a stale incarnation (R255). -/
def State.stale (s : State) (p : Party) (inc : Byte) : Bool := inc != s.incarnation (Party.pkg p)

/-- Whether a line is a tile directory's. -/
def Line.ofTile (l : Line) : Bool := match l.who with | .tile _ _ => true | _ => false

/-- This package's holders of a grain: its cores by their tile directories, and the partials that tile directories hold. -/
def State.ownHolders (s : State) (grain : Nat) : List Party :=
  (s.fab.tdirs.filter (fun t => t.grain == grain)).flatMap (fun t =>
    (if t.l1 then [Party.core Config.pkgid t.core] else []) ++ (if t.stash then [Party.stash Config.pkgid t.core] else []))
  ++ (s.fab.lines.filter (fun l => l.grain == grain && l.st == .p && l.ofTile)).map (fun l => l.who)

/-- The sharers or holders an entry tracks (R245, R246). -/
def State.trackedBy (s : State) (grain : Nat) (e : Entry) : List Party := s.ownHolders grain ++ (e.outsiders grain).map Party.package

/-- Sets what a core's tile directory records of a grain. -/
def State.setTile (s : State) (grain core : Nat) (f : TileEntry → TileEntry) : State :=
  let old := (s.fab.tdirs.find? (fun t => t.grain == grain && t.core == core)).getD
    { grain := grain, core := core, l1 := false, stash := false }
  let rest := s.fab.tdirs.filter (fun t => !(t.grain == grain && t.core == core))
  let n := f old
  s.modFab (fun g => { g with tdirs := if n.l1 || n.stash then n :: rest else rest })

/-- The tile of an agent, as a bit of a tile vector; none for a whole package. -/
def tileBit : Party → BitVec 16
  | .core _ c | .stash _ c => 1#16 <<< (c / 256 % 16)
  | .tile _ t => 1#16 <<< (t % 16)
  | .package _ => 0#16

/-- Whether a package has a pointer of an entry. -/
def Entry.points (e : Entry) (pkg : Nat) : Bool := e.ptrs.any (fun p => p.1 == pkg)

/-- The tiles of a package that an entry tracks: the tile vector for the package of the grain's home, a pointer's for another (R245). -/
def Entry.tiles (e : Entry) (grain pkg : Nat) : BitVec 16 :=
  if pkg = homePkg grain then e.tvec else match e.ptrs.find? (fun p => p.1 == pkg) with | some p => p.2 | none => 0#16

/-- Whether an entry tracks a package. -/
def Entry.tracks (e : Entry) (grain pkg : Nat) : Bool := if pkg = homePkg grain then e.tvec != 0#16 else e.points pkg

/-- Adds tiles of a package to an entry: to the tile vector, to its pointer, or as a new pointer behind the others (R245, R246). -/
def Entry.addTiles (e : Entry) (grain pkg : Nat) (v : BitVec 16) : Entry :=
  if pkg = homePkg grain then { e with tvec := e.tvec ||| v }
  else if e.points pkg then { e with ptrs := e.ptrs.map (fun q => if q.1 = pkg then (q.1, q.2 ||| v) else q) }
  else { e with ptrs := e.ptrs ++ [(pkg, v)] }

/-- Keeps of a package's tiles those of a vector; a pointer without tiles goes. -/
def Entry.keepTiles (e : Entry) (grain pkg : Nat) (v : BitVec 16) : Entry :=
  if pkg = homePkg grain then { e with tvec := e.tvec &&& v }
  else { e with ptrs := (e.ptrs.map (fun q => if q.1 = pkg then (q.1, q.2 &&& v) else q)).filter (fun q => q.1 != pkg || q.2 != 0#16) }

/-- The tiles that a message names: the one of its agent; all, when only its package is named. -/
def tilesOf : Party → BitVec 16
  | .package _ => 0xFFFF#16
  | p => tileBit p

/-- Records a holder: one of this package in its tile directory too (R245, R246). -/
def State.track (s : State) (grain : Nat) (e : Entry) (p : Party) : State × Entry :=
  let e1 := e.addTiles grain p.pkg (tilesOf p)
  if !(ownParty p) then (s, e1)
  else
    match p with
    | .core _ c => (s.setTile grain c (fun t => { t with l1 := true }), e1)
    | .stash _ c => (s.setTile grain c (fun t => { t with stash := true }), e1)
    | _ => (s, e1)

/-- The tiles of this package that hold a grain. -/
def State.heldTiles (s : State) (grain : Nat) : BitVec 16 :=
  let held := fun (t : Nat) => s.fab.tdirs.any (fun d => d.grain == grain && d.core / 256 == t)
    || s.fab.lines.any (fun l => l.grain == grain && l.st == .p && l.who == .tile Config.pkgid t)
  (List.range 16).foldl (fun (v : BitVec 16) t => if held t then v ||| (1#16 <<< t) else v) 0#16

/-- Removes an agent from what a grain's home tracks: another package's whole package, or a tile that has given its partials back (a tile
whose core has may hold more); this package's tile when nothing of it holds the grain any more. -/
def State.untrack (s : State) (grain : Nat) (p : Party) : State :=
  if !(ownParty p) then
    match p with
    | .package _ | .tile _ _ => s.setEntry grain ((s.entry grain).keepTiles grain p.pkg (~~~(tilesOf p)))
    | _ => s
  else
    let s1 := match p with
      | .core _ c => s.setTile grain c (fun t => { t with l1 := false })
      | .stash _ c => s.setTile grain c (fun t => { t with stash := false })
      | .tile _ t => s.modFab (fun f => { f with tdirs := f.tdirs.filter (fun d => !(d.grain == grain && d.core / 256 == t)) })
      | .package _ => s
    s1.setEntry grain ((s1.entry grain).keepTiles grain Config.pkgid (s1.heldTiles grain))

/-- Forgets everything a grain's home tracks, with the new state U. -/
def State.untrackAll (s : State) (grain : Nat) : State :=
  let s1 := s.modFab (fun f => { f with tdirs := f.tdirs.filter (fun t => t.grain != grain) })
  let e := s1.entry grain
  s1.setEntry grain { e with st := 0, ptrs := [], owner := none, tvec := 0#16, aop := 0 }

/-! ## Lines -/

/-- An agent's line for a grain. -/
def State.lineOf (s : State) (who : Party) (grain : Nat) : Option Line :=
  s.fab.lines.find? (fun l => l.who == who && l.grain == grain)

/-- Removes an agent's line. -/
def State.dropLine (s : State) (who : Party) (grain : Nat) : State :=
  s.modFab (fun f => { f with lines := f.lines.filter (fun l => !(l.who == who && l.grain == grain)) })

/-- Changes an agent's line. -/
def State.mapLine (s : State) (who : Party) (grain : Nat) (g : Line → Line) : State :=
  s.modFab (fun f => { f with lines := f.lines.map (fun l => if l.who == who && l.grain == grain then g l else l) })

/-- Lists cells in a sparse map of valid bytes. -/
def putCells (m : FMap Byte) (cs : List Host.Cell) : FMap Byte := cs.foldl (fun m c => FMap.insert m c.1 c.2) m

/-- The bytes that an owner's line has dirty. -/
def Line.dirtyCells (l : Line) : List Host.Cell := l.cells.filter (fun c => l.dirty.contains c.1)

/-- The words of a partial line. -/
def Line.partialWords (l : Line) : List (Nat × Nat) := l.words

/-- Removes an agent that no longer holds a grain; the entry is U when nobody is left. -/
def State.leave (s : State) (grain : Nat) (p : Party) : State :=
  let s1 := s.untrack grain p
  let e := s1.entry grain
  if (e.st == 1 || e.st == 3) && e.ptrs.isEmpty && e.tvec == 0#16 then s1.setEntry grain { e with st := 0, aop := 0 } else s1

/-- An agent gives up a grain that it owns (R244): the line goes to the write-back buffer, and the write-back with its dirty bytes and
the version of its grant is on its way. -/
def State.evictOwned (s : State) (l : Line) (dest : Option (WarpId × Nat)) : State :=
  let b : WbBuf := { who := l.who, grain := l.grain, ver := l.ver, cells := l.dirtyCells, dest := dest }
  ((s.dropLine l.who l.grain).modFab (fun f => { f with wbuf := f.wbuf ++ [b] })).pushHome l.grain
    (.writeBack l.grain l.who l.ver l.dirtyCells s.ownInc)

end Sys2Proof.Machine
end

