-- ==== Sys2Proof/Machine/Windows.lean ====
section
/-! DEFINITION. Stash windows towards the homes (R161 to R164, R253), and accesses of engines and host paths performed at the home: their
sectors, fills, write-backs, and the grains that a write takes to U (R227, R249, R256). -/

namespace Sys2Proof.Machine

/-! ## Sectors of a window -/

/-- The window that covers a byte of the allotment, with its number. -/
def Workgroup.windowAt (g : Workgroup) (off : Nat) : Option (Nat × Window) :=
  g.windows.find? (fun (_, w) => decide (w.off * 32 ≤ off) && decide (off < w.off * 32 + w.len * 32))

/-- The virtual address of a window's sector. -/
def Window.va (w : Window) (sec : Nat) : Nat := w.base.toNat + 32 * sec

/-- The memory key of a window's sector under a workgroup's space: PROTECTION in the fixed range and above 2^57 (R26, R145). -/
def State.sectorKey (s : State) (g : Workgroup) (w : Window) (acc : Access) (sec : Nat) : Except Cause (Nat × Attr) :=
  if 2 ^ 57 ≤ w.va sec ∨ inFixedRange (w.va sec) then .error .protection else translated s g.space g.level acc (w.va sec)

/-- The sectors of a window that hold dirty bytes. -/
def Window.dirtySecs (w : Window) : List Nat := w.dirty.foldl (fun l b => addNat (b / 32) l) []

/-- Whether a sector of a window holds dirty bytes. -/
def Window.isDirty (w : Window) (sec : Nat) : Bool := w.dirty.any (fun b => b / 32 == sec)

/-- A window without one sector: its valid bit and its dirty bytes are cleared. -/
def Window.clearSector (w : Window) (sec : Nat) : Window :=
  { w with valid := w.valid.filter (fun i => i != sec), dirty := w.dirty.filter (fun b => b / 32 != sec) }

/-- Changes one window of a workgroup. -/
def State.mapWindow (s : State) (serial n : Nat) (f : Window → Window) : State :=
  s.mapWg serial (fun g => { g with windows := g.windows.map (fun (q : Nat × Window) => if q.1 = n then (q.1, f q.2) else q) })

/-- A request of a core's stash agent for a sector of a window. -/
def windowBase (s : State) (g : Workgroup) (w : Window) (sec key : Nat) (a : Attr) (id : Nat) (dest : ReqDest) : Req :=
  { id := id, kind := .wtr, key := key, len := 32, grain := a.grain, op := 13, operand := 0, newval := 0, cells := [],
    scope := w.scope, checked := false, schk := a.schk, off := g.scopechk.getLsbD 0, comb := false, reissued := false, ret := false,
    keyid := a.keyid, who := stashOf g.core, unit := coreUnit Config.pkgid g.core, span := 0, vaddr := BitVec.ofNat 64 (w.va sec),
    dest := dest, slot := 0, inc := s.ownInc, stage := 0 }

/-- The write-through store that writes back a dirty sector of a window: the dirty bytes of the sector (R163, R253, R256). -/
def windowReq (s : State) (g : Workgroup) (w : Window) (sec key : Nat) (a : Attr) (id : Nat) (dest : ReqDest) : Req :=
  { windowBase s g w sec key a id dest with
    kind := .wtw, op := 14
    cells := (w.dirty.filter (fun b => b / 32 == sec)).map (fun b => (key + b % 32, FMap.get g.pad 0#8 (w.off * 32 + b))) }

/-- Charges 32 bytes of traffic to a workgroup for a sector of a window of it that is filled or written back (R147). -/
def State.chargeSector (s : State) (serial : Nat) : State := s.onWg serial (fun s => s.debit 0 32)

/-- Sends the dirty bytes of a sector as a write-through store. -/
def State.sendSector (s : State) (g : Workgroup) (w : Window) (sec key : Nat) (a : Attr) (dest : ReqDest) : State :=
  let (s1, id) := (s.chargeSector g.serial).fresh
  s1.send (windowReq s1 g w sec key a id dest)

/-- Fills of a stash agent's sectors that are under way for a grain bring nothing any more. -/
def State.voidFills (s : State) (core : Nat) (p : Req → Bool) : State :=
  s.modFab (fun f => { f with reqs := f.reqs.map (fun r =>
    match r.dest with
    | .window _ _ _ => if r.who == stashOf core && p r then { r with dest := .prefetch } else r
    | _ => r) })

/-- The sectors of a window, of a list, that lie in a grain, with their keys. -/
def State.sectorsIn (s : State) (g : Workgroup) (w : Window) (secs : List Nat) (grain size : Nat) : List (Nat × Nat × Attr) :=
  secs.filterMap (fun sec =>
    match s.sectorKey g w .read sec with
    | .ok (key, a) => if decide (grain ≤ key) && decide (key < grain + size) then some (sec, key, a) else none
    | .error _ => none)

/-- Clears the sectors that one window holds on a grain: dirty ones of a policy that is not own, valid or not, are first sent as
write-through stores, which the home serialises later (R253). -/
def State.clearWindow (s : State) (g : Workgroup) (grain size : Nat) (p : Nat × Window) : State :=
  let (n, w) := p
  let all := s.sectorsIn g w (w.dirtySecs.foldl (fun l sec => addNat sec l) w.valid) grain size
  let secs := all.filter (fun x => w.valid.contains x.1 || polFor w.pol x.2.1 x.2.2 != 1)
  let s1 := secs.foldl (fun (s : State) (x : Nat × Nat × Attr) =>
    if w.isDirty x.1 && polFor w.pol x.2.1 x.2.2 != 1 then s.sendSector g w x.1 x.2.1 x.2.2 (.forced g.serial) else s) s
  if secs.isEmpty then s1 else s1.mapWindow g.serial n (fun u => secs.foldl (fun u x => u.clearSector x.1) u)

/-- Charges a core's workgroups for the dirty sectors of own windows that go with a grain evicted under pressure (R147, R163). -/
def State.chargeEvicted (s : State) (core grain size : Nat) : State :=
  let gs := s.allWgs.filter (fun g => g.core == core && g.place == .running)
  gs.foldl (fun (s : State) g => g.windows.foldl (fun (s : State) p =>
    ((s.sectorsIn g p.2 p.2.dirtySecs grain size).filter (fun x => polFor p.2.pol x.2.1 x.2.2 == 1)).foldl
      (fun (s : State) _ => s.chargeSector g.serial) s) s) s

/-- Sectors that windows of a core hold untracked, under si or wt, lose their valid bit where the core has since read or written the home's
copy of their bytes (R228 rules 1, 3, 4); their dirty bytes stay. `pick` says which, by policy and key. -/
def State.staleWindows (s : State) (core : Nat) (pick : Nat → Nat → Bool) : State :=
  let stale := fun (g : Workgroup) (w : Window) (sec : Nat) =>
    match s.sectorKey g w .read sec with
    | .ok (key, a) => pick (polFor w.pol key a) key
    | .error _ => false
  let clear := fun (g : Workgroup) =>
    if g.core = core ∧ g.place = .running then
      { g with windows := g.windows.map (fun (p : Nat × Window) => (p.1, { p.2 with valid := p.2.valid.filter (fun sec => !(stale g p.2 sec)) })) }
    else g
  { s with g := clear s.g, wgs := s.wgs.map clear }

/-- A core has had an access to a grain performed at its home, or in a line that it owns: untracked copies in its windows are stale, and so
is a fill of one that has been performed and whose reply is on its way. -/
def State.untrackedStale (s : State) (core grain size : Nat) : State :=
  let replied := fun (r : Req) => s.events.any (fun e => match e with | .memoryReply i _ => i == r.id | _ => false)
  (s.voidFills core (fun r => overlap r.key r.len grain size && replied r)).staleWindows core
    (fun pol key => (pol == 2 || pol == 3) && decide (grain ≤ key) && decide (key < grain + size))

/-- Clears the valid bits that windows of a core's workgroups hold on a grain, but for one workgroup (R253). -/
def State.clearWindows (s : State) (core grain size except : Nat) : State :=
  let gs := s.allWgs.filter (fun g => g.core == core && g.place == .running && g.serial != except)
  gs.foldl (fun (s : State) g => g.windows.foldl (fun s p => s.clearWindow g grain size p) s) (s.voidFills core (fun r => overlap r.key r.len grain size))

/-! ## Wakes -/

/-- Wakes the warps that wait on a word of the given sectors (R166). -/
def wakesFor (s : State) (secs : List Nat) : List Instr :=
  (s.w :: s.warps).filterMap (fun w =>
    match w.wait with
    | .word _ key _ _ _ _ _ => if w.present && secs.contains (keyPlace key / 32) then some (.waitaWake ⟨w.wg, w.wid⟩) else none
    | _ => none)

/-- Bytes that an owner gives up enter home memory (R250, R253); a sector they cover whole loses its poison (R256); warps that
wait on them wake (R166). -/
def State.mergeCells (s : State) (cs : List Host.Cell) : State :=
  let secs := sectorsOf cs
  let s1 := s.storeCells cs
  { s1 with
    poison := s1.poison.filter (fun p => !(secs.contains p && coversSector cs p))
    events := s1.events ++ wakesFor s1 secs }

/-- Drops the untracked copy that a core's L1 holds of a grain (R228, R243). -/
def State.dropS (s : State) (core grain : Nat) : State :=
  s.modFab (fun f => { f with lines := f.lines.filter (fun l => !(l.who == l1Of core && l.grain == grain && l.st == LineState.s)) })

/-- An owned line with written bytes in it, dirty. -/
def Line.withDirty (l : Line) (cs : List Host.Cell) : Line :=
  { l with cells := putCells l.cells cs, dirty := cs.foldl (fun d c => addNat c.1 d) l.dirty }

/-- Writes bytes into a line held in X (R227, R242): performed at once; warps that wait on them wake. -/
def State.writeOwned (s : State) (who : Party) (grain : Nat) (cs : List Host.Cell) : State :=
  let s1 := s.mapLine who grain (fun l => l.withDirty cs)
  let secs := sectorsOf cs
  { s1 with
    poison := s1.poison.filter (fun p => !(secs.contains p && coversSector cs p))
    events := s1.events ++ wakesFor s1 secs }

/-- Folds an operand into a held partial, which performs the RED (R227, R251): warps that wait on the word wake (R166). -/
def State.foldPartial (s : State) (who : Party) (grain : Nat) (op len key operand : Nat) : State :=
  let s1 := s.mapLine who grain (fun l =>
    let x := atomicOp op (len == 8) (FMap.get l.words (atomicIdentity op (len == 8)) key) operand
    { l with words := FMap.insert l.words key x })
  { s1 with events := s1.events ++ wakesFor s1 [keyPlace key / 32] }

/-! ## Writes performed at the home -/

/-- The words of partials that are merged where somebody touched them (R252). -/
def touchedCells (rd : Nat → Byte) (grain size aop : Nat) (ps : List (Nat × FMap Nat)) : List Host.Cell :=
  let n := if 16 ≤ aop then 8 else 4
  let words := (List.range (size / n)).map (fun i => grain + n * i)
  let touched := words.filter (fun wk => ps.any (fun p => (FMap.find p.2 wk).isSome))
  touched.flatMap (fun wk =>
    cellsAt wk (leBytes n (mergeWord aop (leNat ((List.range n).map (fun i => rd (wk + i)))) wk ps)))

/-- Takes the grain that covers a key to U by the actions a write-through store would cause, for copies held in this package: the
owner's dirty bytes, in its line or its write-back buffer, and every partial are merged, tracked copies are dropped and
windows' sectors cleared (R249, R252, R253). -/
def State.takeToU (s : State) (k : Nat) : State :=
  let covers := fun (grain size : Nat) => decide (grain ≤ k) && decide (k < grain + size)
  let tracked := s.fab.lines.filter (fun l => covers l.grain l.size && !decide (l.st = .s))
  let late := s.fab.wbuf.filter (fun b =>
    let e := s.entry b.grain
    covers b.grain e.size && (e.st == 2 || e.st == 5) && e.owner == some b.who && e.ver == b.ver)
  if tracked.isEmpty && late.isEmpty then s
  else
    let s1 := tracked.foldl (fun (s : State) l => match l.who with | .stash _ c => s.clearWindows c l.grain l.size 0 | _ => s) s
    let dirtyCells := late.flatMap (fun b => b.cells) ++ tracked.flatMap (fun l => if l.st = .x then l.dirtyCells else [])
    let parts := tracked.filter (fun l => decide (l.st = .p))
    let merged := match parts with
      | [] => []
      | l :: _ => touchedCells s1.memByte l.grain l.size l.aop (s.partialsAt k)
    let s2 := s1.storeCells (dirtyCells ++ merged)
    let lines := s1.fab.lines.filter (fun l => !covers l.grain l.size || decide (l.st = .s))
    let dir := s1.fab.dir.map (fun (g, e) =>
      if g ≤ k ∧ k < g + e.size ∧ 1 ≤ e.st ∧ e.st ≤ 3 then
        (g, { e with st := 0, ptrs := [], owner := none, tvec := 0#16, ver := if parts.isEmpty then e.ver else e.ver + 1 })
      else (g, e))
    let tdirs := s1.fab.tdirs.filter (fun t => !(tracked.any (fun l => l.grain == t.grain)))
    { s2 with fab := { s1.fab with lines := lines, dir := dir, tdirs := tdirs } }

/-- A write performed at the home: POISON where it writes part of a poisoned sector, else the bytes are merged and a
fully written sector's mark is cleared (R249, R256). -/
def State.homeWrite (s : State) (cs : List Host.Cell) : Except Cause State :=
  let secs := sectorsOf cs
  if secs.any (fun sec => s.poison.contains sec && !coversSector cs sec) then .error .poison
  else
    let s1 := (cs.foldl (fun s c => s.takeToU c.1) s).storeCells cs
    .ok { s1 with
      poison := s1.poison.filter (fun p => !(secs.contains p))
      events := s1.events ++ wakesFor s1 secs }

/-- A write at the home whose failure is dropped. -/
def State.homeWriteOr (s : State) (cs : List Host.Cell) : State :=
  match s.homeWrite cs with
  | .ok s' => s'
  | .error _ => s

/-! ## Write-backs of windows (R163, R164) -/

/-- The dirty bytes of a window's sectors in a grain. -/
def State.windowDirty (s : State) (g : Workgroup) (w : Window) (grain size : Nat) : List Host.Cell :=
  (s.sectorsIn g w w.dirtySecs grain size).flatMap (fun x =>
    (w.dirty.filter (fun b => b / 32 == x.1)).map (fun b => (x.2.1 + b % 32, FMap.get g.pad 0#8 (w.off * 32 + b))))

/-- How many requests the write-back of a window's dirty sectors makes, as far as one core can hold them (R150): sectors of an owned grain
make none. -/
def State.windowNeeds (s : State) (g : Workgroup) (w : Window) : Nat :=
  min 8192 (w.dirtySecs.filter (fun sec =>
    match s.sectorKey g w .write sec with
    | .ok (key, a) => polFor w.pol key a != 1 || (match s.lineOf (stashOf g.core) (key - key % a.grain) with | some l => l.st != LineState.x | none => true)
    | .error _ => false)).length

/-- Dirty bytes of an own window's line go home; the line stays held, clean (R164: FLUSH keeps the sectors valid; that the grant is kept
with them is a DESIGN CHOICE, log 23). -/
def State.cleanLine (s : State) (l : Line) : State :=
  (s.mergeCells l.dirtyCells).mapLine l.who l.grain (fun l => { l with dirty := [] })

/-- Writes back one dirty sector of a window with the window's policy: an own sector with its grain, which is given up unless it is
kept; another as a write-through store. `dest` receives the acknowledgement, by whether the sector's home lies outside the pod.
Answers how many acknowledgements are awaited, of stores into the pod and of others. A sector whose page no longer
translates for writing is dropped and not charged (DESIGN CHOICE, log 24: the spec does not say what becomes of it). -/
def State.writeBackSector (s : State) (serial n sec : Nat) (keep : Bool) (dest : Bool → ReqDest) : State × Nat × Nat :=
  match (s.findWg serial).bind (fun g => (FMap.find g.windows n).map (fun w => (g, w))) with
  | none => (s, 0, 0)
  | some (g, w) =>
    match s.sectorKey g w .write sec with
    | .error _ => (s, 0, 0)
    | .ok (key, a) =>
      let grain := key - key % a.grain
      let d := dest (farKey key)
      let one := if farKey key then (0, 1) else (1, 0)
      -- its bytes have gone with another sector of its grain
      if !(w.isDirty sec) then (s.chargeSector serial, 0, 0)
      else
        match (if polFor w.pol key a = 1 then s.lineOf (stashOf g.core) grain else none) with
        | some l0 =>
          -- bytes written while the line was not held are not in it yet (R299)
          let l := l0.withDirty (s.windowDirty g w grain a.grain)
          if l.st != LineState.x then (s.sendSector g w sec key a d, one)
          else if keep then ((s.chargeSector serial).cleanLine l, 0, 0)
          else
            let wb := match d with | .warp v out _ _ => some (v, out) | _ => some (⟨serial, 4095⟩, 0)
            (((s.chargeSector serial).evictOwned l wb).clearWindows g.core grain l.size 0, one)
        | none => (s.sendSector g w sec key a d, one)

/-- Writes back the dirty sectors of a window (R163, R164). Answers how many acknowledgements are awaited. -/
def State.writeBackWindow (s : State) (serial n : Nat) (w : Window) (keep : Bool) (dest : Bool → ReqDest) : State × Nat × Nat :=
  w.dirtySecs.foldl (fun (acc : State × Nat × Nat) sec =>
    let r := acc.1.writeBackSector serial n sec keep dest
    (r.1, acc.2.1 + r.2.1, acc.2.2 + r.2.2)) (s, 0, 0)

/-- Fills of a window that are under way bring nothing any more. -/
def State.voidWindow (s : State) (serial n : Nat) : State :=
  s.modFab (fun f => { f with reqs := f.reqs.map (fun r =>
    match r.dest with
    | .window g m _ => if g = serial ∧ m = n then { r with dest := .prefetch } else r
    | _ => r) })

/-! ## Accesses by requests of their own (R257, R258, R267, R309) -/

/-- The units of the package that make accesses of their own: the Courier, the packet processor and the control path. -/
def pkgParty : Party := .package Config.pkgid

/-- The number under which the control path's accesses stand. -/
def ctlAgent : Nat := 2 ^ 63

/-- A read of bytes of one sector. -/
def readAsk (agent : Nat) (walk : Bool) (key n : Nat) : Ask :=
  { agent := agent, walk := walk, req := 0, kind := .wtr, key := key, len := n, cells := [], op := 13, operand := 0, ans := none }

/-- A write of bytes of one sector. -/
def writeAsk (agent : Nat) (cells : List Host.Cell) : Ask :=
  let key := (cells.map (fun c => c.1)).foldl min ((cells.map (fun c => c.1)).headD 0)
  { agent := agent, walk := false, req := 0, kind := .wtw, key := key, len := cells.length, cells := cells, op := 14, operand := 0, ans := none }

/-- An atomic on a word; `op` from 32 on is a reduction of the Porter or the Courier, from 64 on an add form of ACCST. -/
def atomicAsk (agent key n op operand : Nat) : Ask :=
  { agent := agent, walk := false, req := 0, kind := .atomic, key := key, len := n, cells := [], op := op, operand := operand, ans := none }

/-- Whether an access has been asked for already. -/
def Ask.same (a b : Ask) : Bool := { a with req := 0, ans := none } == { b with req := 0, ans := none }

/-- The size of the grain that covers a key: its entry's, else a sector. -/
def State.grainAt (s : State) (key : Nat) : Nat × Nat :=
  match s.fab.dir.find? (fun p => decide (p.1 ≤ key) && decide (key < p.1 + p.2.size)) with
  | some p => (p.1, p.2.size)
  | none => (key - key % 32, 32)

/-- The request of an access: unchecked, at package scope, never merged (R218, R227, R258). -/
def State.askReq (s : State) (who : Party) (a : Ask) (id : Nat) : Req :=
  { id := id, kind := a.kind, key := a.key, len := a.len, grain := (s.grainAt a.key).2, op := a.op, operand := a.operand, newval := 0
    cells := a.cells, scope := 3, checked := false, schk := false, off := false, comb := false, reissued := false, ret := a.kind != .wtw
    keyid := 0, who := who, unit := 0#24, span := 0, vaddr := 0#64, dest := .engine, slot := 0, inc := s.ownInc, stage := 0 }

/-- Asks for an access: a core's engine by its tile's waystation, the package's units by the package's. -/
def State.sendAsk (s : State) (who : Party) (a : Ask) : State :=
  let (s1, id) := s.fresh
  let s2 := s1.modFab (fun f => { f with asks := f.asks ++ [{ a with req := id }] })
  match who with
  | .package _ => (s2.addReq (s2.askReq who a id)).push (.waystationArrival 2 id)
  | _ => s2.send (s2.askReq who a id)

/-- What accesses by requests come to: the answers in order, or a wait, with what is not asked for yet on its way. -/
inductive Answers where
  | ok (xs : List (Option Cause × List Byte))
  | wait (s : State)

/-- The answers of accesses, all of which are asked for at once. -/
def State.askAll (s : State) (who : Party) (as : List Ask) : Answers :=
  let found := as.map (fun a => (a, s.fab.asks.find? (fun b => b.same a)))
  if found.all (fun p => match p.2 with | some b => b.ans.isSome | none => false) then
    .ok (found.map (fun p => match p.2 with | some b => b.ans.getD (none, []) | none => (none, [])))
  else .wait (found.foldl (fun (s : State) p => match p.2 with | some _ => s | none => s.sendAsk who p.1) s)

/-- The answer of an access reaches its agent; `Fab.asks` keeps it until the agent's step is done. -/
def State.askAnswered (s : State) (req : Nat) (fail : Option Cause) (bs : List Byte) : State :=
  s.modFab (fun f => { f with asks := f.asks.map (fun a => if a.req = req then { a with ans := some (fail, bs) } else a) })

/-- An agent's step is done: answers that it has used go, unless it still waits for others. -/
def State.asksEnd (s : State) (agent : Nat) : State :=
  if s.fab.asks.any (fun a => a.agent == agent && a.ans.isNone) then s
  else s.modFab (fun f => { f with asks := f.asks.filter (fun a => a.agent != agent) })

/-- Asks for what a walk to an address lacks. -/
def State.askWalk (s : State) (who : Party) (agent space va : Nat) (fetch : Bool) : State :=
  match s.walkNeeds space va fetch with
  | none => s
  | some (k, n) => match s.askAll who [readAsk agent true k n] with | .ok _ => s | .wait s1 => s1

/-- The pieces of a range of keys, split at the 32-byte sectors. -/
def keySectors (key n : Nat) : List (Nat × Nat) :=
  (List.range ((key % 32 + n + 31) / 32)).map (fun k =>
    let lo := max key (key - key % 32 + 32 * k)
    let hi := min (key + n) (key - key % 32 + 32 * k + 32)
    (lo, hi - lo))

/-- What a read at a home comes to. -/
inductive Got where
  | ok (bs : List Byte)
  | fail (c : Cause)
  | wait (s : State)

/-- Bytes that an engine, a context or a packet reads at their home, as write-through loads (R218, R233, R249): at once where the home lets it,
else by requests. -/
def State.homeGet (s : State) (who : Party) (agent key n : Nat) : Got :=
  let as := (keySectors key n).map (fun p => readAsk agent false p.1 p.2)
  if s.direct false key n && as.all (fun a => !(s.fab.asks.any (fun b => b.same a))) then
    (match s.homeRead key n with | .ok bs => .ok bs | .error c => .fail c)
  else
    match s.askAll who as with
    | .wait s1 => .wait s1
    | .ok xs => match xs.findSome? (fun x => x.1) with | some c => .fail c | none => .ok (xs.flatMap (fun x => x.2))

/-- Reads of several ranges, all asked for at once. -/
def State.homeGets (s : State) (who : Party) (agent : Nat) : List (Nat × Nat) → Got
  | [] => .ok []
  | (key, n) :: rest =>
    match s.homeGet who agent key n with
    | .fail c => .fail c
    | .ok bs => (match s.homeGets who agent rest with | .ok bs2 => .ok (bs ++ bs2) | x => x)
    | .wait s1 => (match s1.homeGets who agent rest with | .wait s2 => .wait s2 | _ => .wait s1)

/-- What writing comes to: a failure leaves a state too. -/
inductive Written where
  | ok (s : State)
  | fail (s : State) (c : Cause)
  | wait (s : State)

/-- Cells by the 32-byte sectors of their keys. -/
def bySector (cells : List Host.Cell) : List (List Host.Cell) :=
  (cells.foldl (fun l c => addNat (c.1 / 32) l) []).map (fun sec => cells.filter (fun c => c.1 / 32 == sec))

/-- Whether a home can perform a write of cells at once. -/
def State.directCells (s : State) (cells : List Host.Cell) : Bool :=
  (bySector cells).all (fun cs => match cs with | c :: _ => s.direct true (c.1 - c.1 % 32) 32 | [] => true)

/-- A write that an engine, a context or a packet makes at the homes of cells, as write-through stores (R227): at once, or by one request for
each sector. -/
def State.homePut (s : State) (who : Party) (agent : Nat) (cells : List Host.Cell) : Written :=
  let as := (bySector cells).map (writeAsk agent)
  if s.directCells cells && as.all (fun a => !(s.fab.asks.any (fun b => b.same a))) then
    (match s.homeWrite cells with | .ok s1 => .ok s1 | .error c => .fail s c)
  else
    match s.askAll who as with
    | .wait s1 => .wait s1
    | .ok xs => match xs.findSome? (fun x => x.1) with | some c => .fail s c | none => .ok s

/-- An atomic that an engine or a context makes on a word at its home: the word becomes `f` of what it was, at once or by a request that
names the operation. -/
def State.homeAtomic (s : State) (who : Party) (agent key n op operand : Nat) (f : Nat → Nat) : Written :=
  let a := atomicAsk agent key n op operand
  if s.direct true key n && !(s.fab.asks.any (fun b => b.same a)) then
    match s.homeRead key n with
    | .error c => .fail s c
    | .ok bs => (match s.homeWrite (cellsAt key (leBytes n (f (leNat bs)))) with | .ok s1 => .ok s1 | .error c => .fail s c)
  else
    match s.askAll who [a] with
    | .wait s1 => .wait s1
    | .ok xs => match xs.findSome? (fun x => x.1) with | some c => .fail s c | none => .ok s

/-! ## Grains that agents outside hold -/

/-- Whether an access of an engine or a host path must wait until the home has settled a grain under it: an agent outside this package
holds it, it is in a transient state, or it is accumulating, whose partials a read merges (R249). -/
def State.heldOutside (s : State) (key n : Nat) : Bool :=
  s.fab.trans.any (fun t => overlap t.grain (s.entry t.grain).size key n)
  || s.fab.dir.any (fun p => overlap p.1 p.2.size key n && decide (p.2.st ≠ 0)
      && (p.2.st == 3 || p.2.heldOut p.1))

end Sys2Proof.Machine
end

