-- ==== Sys2Proof/Machine/Home.lean ====
section
/-! DEFINITION. The home directory: requests, the scope checker, serving a request against an entry's state, transient
states and the answers they wait for, merging, and the replies (R235, R236, R245 to R256, R262). -/

namespace Sys2Proof.Machine

/-! ## Units and scopes (R232, R235, R236) -/

/-- Whether unit v lies within scope sc around unit u (R232, R235). -/
def unitWithin (sc : Nat) (u v : BitVec 24) : Bool :=
  let ku := u.toNat / 2 ^ 22
  let kv := v.toNat / 2 ^ 22
  let pu := u.toNat / 2 ^ 12 % 1024
  let pv := v.toNat / 2 ^ 12 % 1024
  match sc with
  | 0 | 1 => u == v
  | 2 => u == v || (ku == 0 && kv == 0 && pu == pv && u.toNat % 4096 / 256 == v.toNat % 4096 / 256)
  | 3 => u == v || (decide (ku ≤ 1) && decide (kv ≤ 1) && pu == pv)
  | 4 => u == v || (decide (ku ≤ 1) && decide (kv ≤ 1))
  | _ => true

/-- The narrowest scope that holds two units (R262): two requests of one core are both within warp scope (R235). -/
def spanOf (u v : BitVec 24) : Nat :=
  if u = v then 0 else if unitWithin 2 u v then 2 else if unitWithin 3 u v then 3 else if unitWithin 4 u v then 4 else 5

/-- What the scope checker answers for a request (R236, R262). -/
inductive ScopeAnswer where
  | accept | refuse | split
  deriving DecidableEq, Repr

/-- The scope check of a request against an entry's record (R236, R262). -/
def scopeCheck (e : Entry) (r : Req) (merged : Bool) : ScopeAnswer :=
  if !r.checked || !e.svalid then .accept
  else
    let inB := unitWithin r.scope r.unit e.sunit
    let inRec := unitWithin e.sscope e.sunit r.unit
    if merged then
      let contains := inRec && decide (r.span ≤ e.sscope)
      let disjoint := !inRec && !(unitWithin r.span r.unit e.sunit)
      if contains || disjoint then (if inB && inRec then .accept else .refuse) else .split
    else if inB && inRec then .accept else .refuse

/-! ## Replies -/

/-- The home event of a request kind (R249). -/
def homeEvent (k : ReqKind) (id : Nat) : Instr :=
  match k with
  | .own => .own id
  | .wi => .wi id
  | .si => .si id
  | .wtr => .wtr id
  | .wtw => .wtw id
  | .atomic => .atHome id
  | .acc => .acc id

/-- Sends a request's reply towards its ticket (R263, R266): to a waybill's stage, to a warp or a stash agent, or outside. -/
def State.sendReply (s : State) (r : Req) (rep : Reply) : State :=
  match r.dest with
  | .warp _ _ _ _ | .prefetch | .window _ _ _ | .forced _ | .waita _ _ _ | .engine => s.push (.memoryReply r.id rep)
  | .waybill t => (s.dropReq r.id).push (.replySplit t rep)
  | .outside id => (s.dropReq r.id).tellTo r.who.pkg (.reply id rep s.ownInc)
  | .settle => s.dropReq r.id

/-! ## What cores hold -/

/-- A tile directory takes over a core's partial: folded into the one it holds, if any (R244). -/
def State.handToTile (s : State) (core grain : Nat) (l : Line) : State :=
  let tile : Party := .tile Config.pkgid (core / 256)
  let wide := decide (16 ≤ l.aop)
  let s1 := s.dropLine (l1Of core) grain
  let s2 := match s1.lineOf tile grain with
    | some _ => s1.mapLine tile grain (fun t => { t with
        words := l.words.foldl (fun m (w : Nat × Nat) => FMap.insert m w.1
          (atomicOp (l.aop % 16) wide (FMap.get t.words (atomicIdentity (l.aop % 16) wide) w.1) w.2)) t.words })
    | none => s1.modFab (fun f => { f with lines := { l with who := tile } :: f.lines })
  s2.untrack grain (l1Of core)

/-- Whether an agent is awaited for a grain. -/
def State.awaited (s : State) (grain : Nat) (p : Party) : Bool :=
  s.fab.trans.any (fun t => t.grain == grain && t.await.contains p)

/-- Removes messages and answers about a grain that an agent's own message has overtaken (R250). -/
def State.overtaken (s : State) (grain : Nat) (p : Party) : State :=
  { s with events := s.events.filter (fun e =>
      match e with
      | .invalidation g q | .recallHeld g q _ => !(g == grain && q == p)
      | .invalidationAcknowledgement g q _ => !(g == grain && q == p)
      | .recallAnswer g q _ _ _ => !(g == grain && q == p)
      | _ => true) }

/-- A core's L1 gives up a line (R244): silently, with a clean-eviction notice, with a write-back, or by handing its partial to the
tile directory; a partial already being recalled goes straight to the home. -/
def State.evictLine (s : State) (core : Nat) (l : Line) : State :=
  match l.st with
  | LineState.s => s.dropLine l.who l.grain
  | LineState.t => (s.dropLine l.who l.grain).pushHome l.grain (.cleanEvictionNotice l.grain l.who s.ownInc)
  | LineState.x => s.evictOwned l none
  | LineState.p =>
    if s.awaited l.grain l.who then
      ((s.dropLine l.who l.grain).overtaken l.grain l.who).pushHome l.grain (.partialReturn l.grain l.who l.partialWords s.ownInc)
    else s.handToTile core l.grain l

/-- The 512-byte lines of an L1 that hold something, the one filled longest ago last. -/
def State.l1Tags (s : State) (core : Nat) : List Nat :=
  (s.fab.lines.filter (fun l => l.who == l1Of core)).foldl (fun ts l => if ts.contains (l.grain / 512) then ts else ts ++ [l.grain / 512]) []

/-- An L1 holds 128 KiB: 256 lines (R1, R241). A new line takes the place of the one filled longest ago (DESIGN CHOICE, log 25: the spec
does not say which line goes). -/
def State.makeRoom (s : State) (who : Party) (grain : Nat) : State :=
  match who with
  | .core _ c =>
    let tags := s.l1Tags c
    if tags.contains (grain / 512) || decide (tags.length < 256) then s
    else
      match tags.getLast? with
      | none => s
      | some t => (s.fab.lines.filter (fun l => l.who == l1Of c && l.grain / 512 == t)).foldl (fun s l => s.evictLine c l) s
  | _ => s

/-- An agent of this package takes a grain in a state with the bytes of a fill (R241): bytes it already held stay valid.
A copy held untracked is superseded. -/
def State.install (s0 : State) (who : Party) (grain size : Nat) (st : LineState) (cells : List Host.Cell) (ver : Byte) :
    State :=
  let s := (match who with | .core _ c => s0.untrackedStale c grain size | _ => s0).makeRoom who grain
  let old := match s.lineOf who grain with
    | some l => if l.st == .s && st != .s then [] else l.cells
    | none => []
  let l : Line :=
    { who := who, grain := grain, size := size, st := st, cells := putCells old cells, dirty := [], ver := ver
      aop := 0, words := [] }
  (s.dropLine who grain).modFab (fun f => { f with lines := l :: f.lines })

/-! ## Performing a request from a settled state (R249, R256) -/

/-- The sectors a request touches, whole, as bytes read at the home with an outside owner's bytes over them. -/
def State.fillCells (s : State) (r : Req) (put : List Host.Cell) : List Host.Cell :=
  let lo := r.key - r.key % 32
  let n := r.key % 32 + max 1 r.len
  (List.range ((n + 31) / 32 * 32)).map (fun i =>
    let k := lo + i
    (k, match put.find? (fun c => c.1 == k) with | some c => c.2 | none => s.coherentByte k))

/-- Whether a request is refused for poison: it reads a poisoned sector, or writes part of one (R256). -/
def State.reqPoisoned (s : State) (r : Req) : Bool :=
  let hit := fun (k : Nat) => s.poisoned k && !(r.op == 14 && coversSector r.cells (keyPlace k / 32))
  if r.op = 14 then r.cells.any (fun c => hit c.1) else (List.range (max 1 r.len)).any (fun i => hit (r.key + i))

/-- The new destination element of an add form of ACCST (R192): the exact sum rounded once. -/
def accAdd (form old x : Nat) : Nat :=
  if form = 2 then (fadd fmtF32 .rn old x).val else (fsum fmtBF16 .rn [fmtBF16.unpack old, fmtF32.unpack x]).val

/-- The value an atomic of the home leaves; none when it writes nothing (R156, R157): of an engine, a reduction (R199) or an add form of
ACCST (R192). -/
def atomicResult (r : Req) (old : Nat) : Option Nat :=
  if 64 ≤ r.op then some (accAdd (r.op - 64) old r.operand)
  else if 32 ≤ r.op then some (redOp (r.op - 32) old r.operand)
  else if r.op = 15 then (if old = r.operand % 2 ^ (8 * r.len) then some (r.newval % 2 ^ (8 * r.len)) else none)
  else some (atomicOp r.op (r.len == 8) old r.operand)

/-- The grain a request falls in. -/
def Req.base (r : Req) : Nat := r.key - r.key % r.grain

/-- OWN from a settled entry: X is granted with a new version, poisoned or not; a store is written into the granted line
at once (R227, R249, R255). -/
def State.performOwn (s : State) (r : Req) : State :=
  let e := s.entry r.base
  let bad := s.reqPoisoned r
  let cells := if bad then [] else s.fillCells r []
  let (s0, e0) := (s.untrackAll r.base).track r.base
    { e with size := r.grain, st := 2, ver := e.ver + 1, owner := some r.who, ptrs := [], tvec := 0#16, aop := 0 } r.who
  let e1 := { e0 with ptrs := [] }
  let s1 := s0.setEntry r.base e1
  let s2 := if ownParty r.who then s1.install r.who r.base r.grain .x cells e1.ver else s1
  if bad then s2.sendReply r (.failed .poison)
  else
    let s3 := if r.op = 14 && ownParty r.who then s2.writeOwned r.who r.base r.cells else s2
    s3.sendReply r (if r.op = 14 && ownParty r.who then .ack else .fill cells .owned e1.ver)

/-- WI from U or T: a tracked copy (R249). -/
def State.performWi (s : State) (r : Req) : State :=
  let bad := s.reqPoisoned r
  let cells := if bad then [] else s.fillCells r []
  let (s1, e1) := s.track r.base { s.entry r.base with size := r.grain } r.who
  let s2 := s1.setEntry r.base { e1 with st := 1 }
  let s3 := if ownParty r.who then s2.install r.who r.base r.grain .t cells e1.ver else s2
  s3.sendReply r (if bad then .failed .poison else .fill cells .tracked e1.ver)

/-- SI and WTR: data, untracked (R249). -/
def State.performRead (s : State) (r : Req) (put : List Host.Cell) (keep : Bool) : State :=
  if s.reqPoisoned r then s.sendReply r (.failed .poison)
  else
    let cells := s.fillCells r put
    let s1 := if keep && ownParty r.who && r.who.isL1 && (match s.lineOf r.who r.base with | some l => l.st == .s | none => true) then
        s.install r.who r.base r.grain .s cells (s.entry r.base).ver
      else s
    s1.sendReply r (.fill cells (if keep then .untracked else .none) (s.entry r.base).ver)

/-- The stores that a request stands for are performed at their home: their bytes in pending-store buffers are no newer than the home's, and
their cores' untracked copies are stale (R227, R228). -/
def State.storesDone (s : State) (r : Req) : State :=
  let ids := (s.leaves s.fab.waybills.length r).map (fun q => q.id)
  let mine := s.fab.pend.filter (fun p => ids.contains p.req)
  let s1 := s.modFab (fun f => { f with pend := f.pend.map (fun p => if ids.contains p.req then { p with done := true } else p) })
  mine.foldl (fun (s : State) p => (s.dropS p.core r.base).untrackedStale p.core r.base r.grain) s1

/-- WTW from U (R249, R256). -/
def State.performWrite (s : State) (r : Req) : State :=
  match s.homeWrite r.cells with
  | .error c => s.sendReply r (.failed c)
  | .ok s1 => (s1.storesDone r).sendReply r .ack

/-- AT from U: old and new as R157, indivisibly. -/
def State.performAtomic (s : State) (r : Req) : State :=
  if s.reqPoisoned r then s.sendReply r (.failed .poison)
  else
    let old := leNat (s.coherent r.key r.len)
    let s1 := match atomicResult r old with
      | some x => s.homeWriteOr (cellsAt r.key (leBytes r.len x))
      | none => s
    s1.sendReply r (if r.ret then .value (BitVec.ofNat 64 old) else .ack)

/-- ACC from U or a matching A: the requester becomes a holder; its operand is folded into its partial (R249, R251). -/
def State.performAcc (s : State) (r : Req) : State :=
  if s.reqPoisoned r then s.sendReply r (.failed .poison)
  else
    let e := s.entry r.base
    let aop := (if r.len = 8 then 16 else 0) + r.op
    let (s1, e1) := s.track r.base { e with size := r.grain } r.who
    let s2 := s1.setEntry r.base { e1 with st := 3, ver := e.ver + 1, aop := aop }
    let s3 :=
      if ownParty r.who then
        let s4 := match s2.lineOf r.who r.base with
          | some l => if l.st == LineState.p then s2 else s2.install r.who r.base r.grain .p [] (e.ver + 1)
          | none => s2.install r.who r.base r.grain .p [] (e.ver + 1)
        (s4.mapLine r.who r.base (fun l => { l with aop := aop })).foldPartial r.who r.base r.op r.len r.key r.operand
      else s2
    s3.sendReply r .ack

/-- What the companion-link proxy asks the companion for when it serves a request for companion memory (R254): 0 exclusive access, 1 a
shared, tracked copy, 2 an uncached access, which ACC is too. -/
def companionAsk : ReqKind → Nat
  | .own => 0
  | .wi | .si => 1
  | .wtr | .wtw | .atomic | .acc => 2

/-- The proxy's request to the companion, whose memory the model performs it in (log 5). -/
def State.askCompanion (s : State) (r : Req) : State :=
  if regionOf (keyPa r.key) = 5 ∧ r.dest ≠ .settle then s.tell (.companion (companionAsk r.kind) r.key r.len s.ownInc) else s

/-- Performs a request against an entry that needs no more answers. -/
def State.perform (s0 : State) (r : Req) (put : List Host.Cell) : State :=
  let s := s0.askCompanion r
  match r.kind with
  | .own => s.performOwn r
  | .wi => s.performWi r
  | .si => s.performRead r put true
  | .wtr => s.performRead r put false
  | .wtw => s.performWrite r
  | .atomic => s.performAtomic r
  | .acc => s.performAcc r

/-! ## Serving a request (R240, R246, R248, R249) -/

/-- What a request must have before it can be performed. -/
inductive Needs where
  | nothing
  /-- messages to these agents, and what their answers leave (the mode of `Transient`) -/
  | answers (of : List Party) (mode : Nat)
  deriving DecidableEq, Repr

/-- The forward-buffer entries that each package reserves for each other (R328). -/
def forwardCredits : Nat := 4

/-- A recall or invalidation for an agent of another package goes only against a forward-buffer entry that the package reserves; else it waits
for one (R328). The companion is no package of the pod. -/
def State.forward (s : State) (pkg : Nat) (m : OutMsg) : State :=
  if pkg = domCommon ∨ !(s.routed pkg) then s.tellTo pkg m
  else if FMap.get s.host.forwards 0 pkg < forwardCredits then
    ({ s with host := { s.host with forwards := FMap.put s.host.forwards 0 pkg (FMap.get s.host.forwards 0 pkg + 1) } } : State).tellTo pkg m
  else { s with host := { s.host with forwardWait := s.host.forwardWait ++ [(pkg, m)] } }

/-- An agent of another package has answered a recall or an invalidation: the entry that it took is free, and the next that waits goes. -/
def State.forwarded (s : State) (p : Party) : State :=
  if ownParty p then s
  else
    match s.host.forwardWait.find? (fun x => x.1 == p.pkg) with
    | some x => ({ s with host := { s.host with forwardWait := s.host.forwardWait.erase x } } : State).tellTo p.pkg x.2
    | none => { s with host := { s.host with forwards := FMap.put s.host.forwards 0 p.pkg (FMap.get s.host.forwards 0 p.pkg - 1) } }

/-- A message of the home to an agent that holds a grain: an invalidation in T, a recall in X and A, or a read of an
owner outside; as an event for an agent of this package, else outbound. -/
def State.askFor (s : State) (grain was mode : Nat) (p : Party) : State :=
  let inc := s.ownInc
  if was = 1 then (if ownParty p then s.push (.invalidation grain p) else s.forward p.pkg (.invalidate grain p inc))
  else if mode = 3 then s.forward p.pkg (.fetchOwner grain p inc)
  else if ownParty p then s.push (.recallHeld grain p (mode == 1)) else s.forward p.pkg (.recallHeld grain p (mode == 1) inc)

/-- The table of R249, with R246 for a fifth package. -/
def State.needs (s : State) (e : Entry) (r : Req) : Needs :=
  let all := s.trackedBy r.base e
  let fifth := r.who.pkg != homePkg r.base && !(e.points r.who.pkg) && decide (4 ≤ e.ptrs.length)
  let oldest := match e.ptrs.head? with
    | some q => if q.1 = Config.pkgid then s.ownHolders r.base else [Party.package q.1]
    | none => []
  let asks := fun (ps : List Party) (mode : Nat) => if ps.isEmpty then Needs.nothing else .answers ps mode
  match e.st with
  | 1 =>
    match r.kind with
    | .own => asks (all.filter (fun p => p != r.who)) 0
    | .wi => if fifth then asks oldest 2 else .nothing
    | .si | .wtr => .nothing
    | .wtw | .atomic | .acc => asks all 0
  | 2 =>
    match e.owner, r.kind with
    | some o, .own | some o, .wtw | some o, .atomic | some o, .acc => .answers [o] 0
    | some o, .wi => .answers [o] 1
    | some o, .si | some o, .wtr => if ownParty o then .nothing else .answers [o] 3
    | none, _ => .nothing
  | 3 =>
    match r.kind with
    | .acc => if e.aop = (if r.len = 8 then 16 else 0) + r.op then (if fifth then asks oldest 2 else .nothing) else asks all 0
    | _ => asks all 0
  | _ => .nothing

/-- Puts a grain in its transient state behind a request (R248). -/
def State.startTransient (s : State) (r : Req) (e : Entry) (ps : List Party) (mode : Nat) : State :=
  let tr : Transient := { grain := r.base, head := r.id, await := ps, partials := [], was := e.st, waiting := [],
                          mode := mode, cells := [], since := s.clock.toNat, inc := s.ownInc }
  let s1 := (s.setEntry r.base { e with st := e.st + 3 }).modFab (fun f => { f with trans := f.trans ++ [tr] })
  ps.foldl (fun s p => s.askFor r.base e.st mode p) s1

/-- The entry has what it needs to leave T or A with nobody held: it is U before the request is performed. -/
def State.emptied (s : State) (r : Req) (e : Entry) : State :=
  match e.st, r.kind with
  | 1, .own | 1, .wtw | 1, .atomic | 1, .acc => s.untrackAll r.base
  | 3, .acc => if e.aop = (if r.len = 8 then 16 else 0) + r.op then s else s.untrackAll r.base
  | 3, _ => s.untrackAll r.base
  | _, _ => s

/-- The scope check at the head of the grain's order (R236, R248, R262), then the request itself. -/
def State.serveHead (s : State) (r : Req) : State :=
  let e := { s.entry r.base with size := r.grain }
  let merged := match r.dest with | .waybill _ => true | _ => false
  match scopeCheck e r merged with
  | .refuse => s.sendReply r (.failed .scopeMismatch)
  | .split =>
    match r.dest with
    | .waybill t => ((s.dropReq r.id).count 4).push (.split t)
    | _ => s.sendReply r (.failed .scopeMismatch)
  | .accept =>
    let e1 := if r.checked then { e with svalid := true, sunit := r.unit, sscope := r.scope } else e
    let s1 := s.setEntry r.base e1
    match s1.needs e1 r with
    | .nothing => (s1.emptied r e1).perform r []
    | .answers ps mode => s1.startTransient r e1 ps mode

/-- The request that takes an entry of another grain size to U (R240). -/
def settleReq (id grain size : Nat) : Req :=
  { id := id, kind := .wtw, key := grain, len := 0, grain := size, op := 14, operand := 0, newval := 0, cells := [],
    scope := 0, checked := false, schk := false, off := false, comb := false, reissued := true, ret := false, keyid := 0,
    who := .package Config.pkgid, unit := 0#24, span := 0, vaddr := 0#64, dest := .settle, slot := 0, inc := 0#8, stage := 3 }

/-- Takes one entry to U as a write-through store would (R240, R247). -/
def State.settle (s : State) (grain size : Nat) : State :=
  let (s1, id) := s.fresh
  let r := settleReq id grain size
  (s1.addReq r).serveHead r

/-- Discards the settled entries of another grain size under a request, keeping the first scope record (R235, R240). -/
def State.regrain (s : State) (r : Req) : State :=
  let old := s.fab.dir.filter (fun p => p.2.size != r.grain && overlap p.1 p.2.size r.base r.grain)
  match old with
  | [] => s
  | p :: _ =>
    let s1 := s.modFab (fun f => { f with dir := f.dir.filter (fun q =>
      !(q.2.size != r.grain && overlap q.1 q.2.size r.base r.grain)) })
    let e := s1.entry r.base
    if e.svalid || !p.2.svalid then s1
    else s1.setEntry r.base { e with size := r.grain, svalid := true, sunit := p.2.sunit, sscope := p.2.sscope }

/-- Puts a request behind the transient that covers it, if there is one. -/
def State.queueBehind (s : State) (r : Req) : Option State :=
  match s.fab.trans.find? (fun t => overlap t.grain (s.entry t.grain).size r.base r.grain) with
  | none => none
  | some t => some (s.modFab (fun f => { f with trans := f.trans.map (fun u =>
      if u.grain = t.grain then { u with waiting := u.waiting ++ [r.id] } else u) }))

/-- The arrival of a request at its home (R240, R248). -/
def State.serve (s : State) (id : Nat) : State :=
  match s.findReq id with
  | none => s
  | some r =>
    match s.queueBehind r with
    | some s1 => s1
    | none =>
      let live := s.fab.dir.filter (fun p =>
        p.2.size != r.grain && decide (p.2.st ≠ 0) && overlap p.1 p.2.size r.base r.grain)
      let s1 := live.foldl (fun s p => s.settle p.1 p.2.size) s
      match s1.queueBehind r with
      | some s2 => s2
      | none => (s1.regrain r).serveHead r

/-- The write-through store of bytes of one sector by the package's controller, unchecked. -/
def hostReq (id grain : Nat) (cells : List Host.Cell) : Req :=
  { id := id, kind := .wtw, key := (match cells with | c :: _ => c.1 | [] => 0), len := cells.length, grain := grain, op := 14, operand := 0
    newval := 0, cells := cells, scope := 5, checked := false, schk := false, off := false, comb := false, reissued := true, ret := false
    keyid := 0, who := pkgParty, unit := BitVec.ofNat 24 (2 ^ 22 + Config.pkgid * 2 ^ 12), span := 5, vaddr := 0#64, dest := .settle
    slot := 0, inc := 0#8, stage := 0 }

/-- Writes cells as write-through stores that nobody awaits, each performed at its home in its turn: a home of this package's serves them at
once, or behind what it does already; another is reached by way of the package's waystation. -/
def State.hostCells (s : State) (cells : List Host.Cell) : State :=
  (bySector cells).foldl (fun (s : State) mine =>
    let at_ := match mine with | c :: _ => c.1 | [] => 0
    let (s1, id) := s.fresh
    let r := hostReq id (s1.grainAt at_).2 mine
    if homePkg at_ = Config.pkgid ∧ farKey at_ = false then (s1.addReq { r with stage := 4 }).serve id
    else (s1.addReq { r with inc := s1.ownInc }).push (.waystationArrival 2 id)) s

/-- Writes bytes at a key as such stores. -/
def State.hostWrite (s : State) (key : Nat) (bs : List Byte) : State := s.hostCells (cellsAt key bs)

/-! ## Answers (R247, R250, R252) -/

/-- Combines collected partials with home memory (R252); a poisoned sector stays so (R256). -/
def State.mergePartials (s : State) (grain size aop : Nat) (ps : List (Nat × FMap Nat)) : State :=
  let cs := touchedCells s.memByte grain size aop ps
  let s1 := s.storeCells cs
  { s1 with events := s1.events ++ wakesFor s1 (sectorsOf cs) }

/-- Every answer is in: the entry leaves its transient state, the head request completes, and those that waited are served
in order (R248, R250). -/
def State.finish (s : State) (tr : Transient) : State :=
  let e := s.entry tr.grain
  let s0 := s.modFab (fun f => { f with trans := f.trans.filter (fun t => t.grain != tr.grain) })
  let s1 :=
    if tr.was = 3 then
      let m := s0.mergePartials tr.grain e.size e.aop tr.partials
      m.setEntry tr.grain { m.entry tr.grain with st := 3, ver := e.ver + 1 }
    else s0.setEntry tr.grain { e with st := tr.was }
  let s2 := match tr.mode with
    | 0 => s1.untrackAll tr.grain
    | 1 =>
      match e.owner with
      | some o =>
        let (a, e2) := s1.track tr.grain { e with st := 1, owner := none } o
        a.setEntry tr.grain e2
      | none => s1.untrackAll tr.grain
    | _ => s1
  let s3 := match s2.findReq tr.head with
    | some r => s2.perform r tr.cells
    | none => s2
  tr.waiting.foldl State.serve s3

/-- An awaited agent has answered. -/
def State.answered (s : State) (grain : Nat) (p : Party) (f : Transient → Transient) : State :=
  match s.fab.trans.find? (fun t => t.grain == grain && t.await.contains p) with
  | none => s
  | some t =>
    let t1 := f { t with await := t.await.filter (fun q => q != p) }
    let s1 := s.modFab (fun g => { g with trans := g.trans.map (fun u => if u.grain = grain then t1 else u) })
    if t1.await.isEmpty then s1.finish t1 else s1

/-- Whether an agent holds a grain in A (R247): another package's by its pointer and tile. -/
def State.holder (s : State) (grain : Nat) (p : Party) : Bool :=
  let e := s.entry grain
  (e.st == 3 || e.st == 6) &&
  (if ownParty p then
    match p with
    | .tile _ t => (e.tiles grain Config.pkgid).getLsbD t
    | q => (s.trackedBy grain e).contains q
  else
    match p with
    | .package q => e.tracks grain q
    | q => e.tiles grain q.pkg &&& tileBit q != 0#16)

/-! ## Dead agents (R255) -/

/-- The home's scrub of an agent declared dead: its sharer entries go; grains it owned or held partials of are poisoned
and U with a new version, other holders' partials of them going too, with one record each; answers awaited from it are taken as
given. -/
def State.scrub (s : State) (pkg : Nat) : State :=
  let mine := fun (p : Party) => Party.pkg p == pkg
  let owned := s.fab.dir.filter (fun p =>
    ((p.2.st == 2 || p.2.st == 5) && (match p.2.owner with | some o => mine o | none => false))
    || ((p.2.st == 3 || p.2.st == 6) && p.2.tracks p.1 pkg))
  let s1 := owned.foldl (fun (s : State) p =>
    let secs := (List.range ((p.2.size + 31) / 32)).map (fun i => keyPlace p.1 / 32 + i)
    let s2 : State := { s with
      poison := secs.foldl (fun l x => addNat x l) s.poison
      fab := { s.fab with lines := s.fab.lines.filter (fun l => !(l.st == LineState.p && l.grain == p.1
        && (p.2.st == 3 || s.fab.trans.any (fun t => t.grain == p.1 && t.mode == 2)))) } }
    let e := s2.entry p.1
    let s3 := if e.st = 2 ∨ e.st = 3 then (s2.setEntry p.1 { e with ver := e.ver + 1 }).untrackAll p.1
      else s2.setEntry p.1 { e with ver := e.ver + 1 }
    s3.post { kind := 5, cause := 0x51, pkg := pkg, addr := BitVec.ofNat 64 (keyPa p.1),
              extra := (s3.incarnation pkg).setWidth 64 }) s
  let s4 := s1.fab.dir.foldl (fun (s : State) p => if p.2.tracks p.1 pkg then s.leave p.1 (.package pkg) else s) s1
  let waits := s4.fab.trans.flatMap (fun t => (t.await.filter mine).map (fun p => (t.grain, p)))
  waits.foldl (fun (s : State) x => s.answered x.1 x.2 (fun u => { u with mode := if u.was = 1 then u.mode else 0 })) s4

end Sys2Proof.Machine
end

