-- ==== Sys2Proof/Machine/Access.lean ====
section
/-! DEFINITION. What an access of a warp passes through: the checks of R145, the scratchpad with its stash windows
(R151, R161 to R164, R253), the reduce apertures' checks (R152, R270), L1 hits (R242, R243), and the requests that go to a
home. -/

namespace Sys2Proof.Machine

/-! ## Stash windows -/

/-- Settles the grains under a range that an engine or a host path may not reach yet (R249): the home takes them to U. -/
def State.settleRange (s : State) (key n : Nat) : State :=
  (s.fab.dir.filter (fun p => overlap p.1 p.2.size key n && decide (p.2.st ≠ 0) && decide (p.2.st ≤ 3)
      && (p.2.st == 3 || p.2.heldOut p.1))).foldl
    (fun s p => s.settle p.1 p.2.size) s

/-- How a sector of a stash window stands for an access. -/
inductive Sector where
  | ready
  /-- its fill failed, with the cause its reply reported (R149) -/
  | failed (n sec : Nat) (c : Cause)
  /-- it cannot be translated -/
  | fault (c : Cause)
  | busy
  | missing (n : Nat) (w : Window) (sec key : Nat) (a : Attr)

/-- The sector under a byte of the allotment of the workgroup whose turn it is; a byte in no window needs none. -/
def State.sectorState (s : State) (off : Nat) : Sector :=
  match s.g.windowAt off with
  | none => .ready
  | some (n, w) =>
    let sec := (off - w.off * 32) / 32
    if w.valid.contains sec then .ready
    else
      match FMap.find w.failed sec with
      | some c => .failed n sec c
      | none =>
        match s.sectorKey s.g w .read sec with
        | .error c => .fault c
        | .ok (key, a) =>
          if (match translate s s.g.space s.g.level .read (w.va sec) with | .error .walkWait => true | _ => false) then .fault .walkWait
          else if s.fab.reqs.any (fun r => r.dest == .window s.g.serial n sec) then .busy else .missing n w sec key a

/-- Starts the fill of a sector (R163, R253): the request of the window's policy for the sector's grain, or a read at the home when the
stash already holds the grain as the policy wants it. -/
def State.startFill (s : State) (off : Nat) : State :=
  match s.sectorState off with
  | .missing n w sec key a =>
    let pol := polFor w.pol key a
    let held := match s.lineOf (stashOf s.g.core) (key - key % a.grain) with
      | some l => l.st == LineState.x || (l.st == LineState.t && pol != 1)
      | none => false
    let (s1, id) := s.fresh
    s1.send { windowBase s1 s1.g w sec key a id (.window s1.g.serial n sec) with kind := if held then .wtr else loadKind pol }
  | _ => s

/-- An access takes the failure of a sector's fill, which a later access asks for anew. -/
def State.takeFailure (s : State) (off : Nat) : State :=
  match s.sectorState off with
  | .failed n sec _ => s.modG (fun g => { g with windows := g.windows.map (fun (q : Nat × Window) =>
      if q.1 = n then (q.1, { q.2 with failed := FMap.erase q.2.failed sec }) else q) })
  | _ => s

/-- An access uses sectors of windows: one of policy wt is valid for this access only, as a read under it takes the home's bytes of its
own moment (R228 rule 3; DESIGN CHOICE, log 104). -/
def State.usePads (s : State) (offs : List Nat) : State :=
  let secs := fun (w : Window) => (offs.filter (fun o => decide (w.off * 32 ≤ o) && decide (o < (w.off + w.len) * 32))).map (fun o => (o - w.off * 32) / 32)
  let once := fun (w : Window) (sec : Nat) =>
    (secs w).contains sec && (match s.sectorKey s.g w .read sec with | .ok (key, a) => polFor w.pol key a == 2 | .error _ => false)
  s.modG (fun g => { g with windows := g.windows.map (fun (q : Nat × Window) => (q.1, { q.2 with valid := q.2.valid.filter (fun i => !(once q.2 i)) })) })

/-- What making a sector valid comes to. -/
inductive Fill where
  | ok (s : State)
  | fault (c : Cause)
  | failed (s : State) (c : Cause)
  | wait (s : State)

/-- Makes the sectors under bytes of the allotment valid: the first that cannot be translated, with its byte; or a wait, with the
fills started that are not under way, as long as requests are free (R150); or the failures, by byte: those that fills have reported, and
poisoned sectors that the access does not write as a `whole` (R256, R359). -/
def State.fillPads (s : State) (offs : List Nat) (whole : List Nat := []) : Except (Nat × Fill) (State × List (Nat × Cause)) :=
  let st := offs.map (fun o => (o, s.sectorState o))
  match st.find? (fun x => match x.2 with | .fault _ => true | _ => false) with
  | some (o, .fault c) => .error (o, .fault c)
  | _ =>
    match st.find? (fun x => match x.2 with | .busy | .missing _ _ _ _ _ => true | _ => false) with
    | some (o, _) => .error (o, .wait (offs.foldl (fun (s : State) o => if s.outstandingOf s.g.core < 8192 then s.startFill o else s) s))
    | none => .ok (offs.foldl State.takeFailure s, st.filterMap (fun x => match x.2 with
        | .failed _ _ c => some (x.1, c)
        | _ => if s.g.padPoison.contains (x.1 / 32) && !(whole.contains (x.1 / 32)) then some (x.1, Cause.poison) else none))

/-- Makes sure the sector under a byte of the allotment is valid when it lies in a window, and not poisoned unless it is written whole. -/
def State.fillAt (s : State) (off : Nat) (whole : Bool := false) : Fill :=
  match s.fillPads [off] (if whole then [off / 32] else []) with
  | .ok (s1, []) => .ok s1
  | .ok (s1, (_, c) :: _) => .failed s1 c
  | .error (_, f) => f

/-- Fills for a list of offsets; the offset at which a fill failed or must wait is answered with it. Poison is met when the bytes move. -/
def State.fillAll (s : State) (offs : List Nat) : Except (Nat × Fill) State :=
  match s.fillPads offs (offs.map (fun o => o / 32)) with
  | .ok (s1, []) => .ok (s1.usePads offs)
  | .ok (s1, (o, c) :: _) => .error (o, .failed s1 c)
  | .error e => .error e

/-- Bytes written into an own window's sector while it was not held enter the line that its fill has granted (R227, R299). -/
def State.ownDirty (s : State) (g : Workgroup) (w : Window) (key : Nat) (a : Attr) : State :=
  let grain := key - key % a.grain
  let cs := s.windowDirty g w key 32
  if cs.isEmpty || polFor w.pol key a != 1 then s
  else (s.writeOwned (stashOf g.core) grain cs).clearWindows g.core grain a.grain g.serial

/-- The reply of a sector's fill: its bytes become valid if the window still maps them and the stash still holds the grain where its
policy tracks it; bytes written while the sector was invalid stand over them (R299). A failure is kept for the access that asked. -/
def State.fillReply (s : State) (r : Req) (serial n sec : Nat) (cells : Except Cause (List Host.Cell)) : State :=
  match (s.findWg serial).bind (fun g => (FMap.find g.windows n).map (fun w => (g, w))) with
  | none => s
  | some (g, w) =>
    match s.sectorKey g w .read sec with
    | .error _ => s
    | .ok (key, a) =>
      let held := match s.lineOf (stashOf g.core) (key - key % a.grain), polFor w.pol key a with
        | some l, 1 => l.st == LineState.x
        | some l, 4 => l.st == LineState.t || l.st == LineState.x
        | none, 1 | none, 4 => false
        | _, _ => true
      if g.place != .running || key != r.key || w.valid.contains sec || w.len ≤ sec then s
      else
        match cells with
        | .error c => s.mapWindow serial n (fun u => { u with failed := FMap.insert u.failed sec c })
        | .ok cs =>
          if !held then s
          else
            let s1 := ((s.chargeSector serial).mapWg serial (fun g => { g with
              pad := cs.foldl (fun m (c : Host.Cell) =>
                let b := 32 * sec + (c.1 - key)
                if c.1 < key ∨ key + 32 ≤ c.1 ∨ w.dirty.contains b then m else FMap.put m 0#8 (w.off * 32 + b) c.2) g.pad
              padPoison := g.padPoison.filter (fun k => k != w.off + sec) })).mapWindow serial n
              (fun u => { u with valid := addNat sec u.valid })
            (s1.dropS g.core (key - key % a.grain)).ownDirty g w key a

/-! ## The scratchpad port (R23, R151) -/

/-- Reads bytes of the allotment. -/
def Workgroup.padRead (g : Workgroup) (off n : Nat) : List Byte := (List.range n).map (fun i => FMap.get g.pad 0#8 (off + i))

/-- Whether a range of the allotment touches a poisoned sector (R359). -/
def Workgroup.padBad (g : Workgroup) (off n : Nat) : Bool := g.padPoison.any (fun k => overlap off n (32 * k) 32)

/-- Writes bytes of the allotment, without windows; a sector written whole is no longer poisoned (R256). -/
def Workgroup.padPut (g : Workgroup) (off : Nat) (bs : List Byte) : Workgroup :=
  { g with
    pad := (cellsAt off bs).foldl (fun m c => FMap.put m 0#8 c.1 c.2) g.pad
    padPoison := g.padPoison.filter (fun k => !(decide (off ≤ 32 * k) && decide (32 * k + 32 ≤ off + bs.length))) }

/-- The events that wake warps waiting on a word of the scratchpad (R166): its 32-byte sector was written. -/
def padWakes (s : State) (serial off : Nat) : List Instr :=
  (s.warpsOf serial).filterMap (fun w =>
    match w.wait with
    | .word _ key _ _ _ _ _ => if key / 32 == (2 ^ 70 + off) / 32 then some (.waitaWake ⟨w.wg, w.wid⟩) else none
    | _ => none)

/-- A write at the port of the workgroup whose turn it is: the bytes, a window's dirty bytes and own line, wakes. -/
def State.padWrite (s : State) (off : Nat) (bs : List Byte) : State :=
  let s1 := s.modG (fun g => g.padPut off bs)
  let s2 := match s.g.windowAt off with
    | none => s1
    | some (n, w) =>
      let rel := off - w.off * 32
      let sec := rel / 32
      let f := fun (u : Window) => { u with dirty := (List.range bs.length).foldl (fun d i => addNat (rel + i) d) u.dirty }
      let s3 := s1.modG (fun g => { g with windows := g.windows.map (fun (q : Nat × Window) => if q.1 = n then (q.1, f q.2) else q) })
      match s.sectorKey s.g w .write sec with
      | .error _ => s3
      | .ok (key, a) =>
        let grain := key - key % a.grain
        if polFor w.pol key a = 1 && (match s3.lineOf (stashOf s.g.core) grain with | some l => l.st == LineState.x | none => false) then
          ((s3.writeOwned (stashOf s.g.core) grain (cellsAt (key + rel % 32) bs)).clearWindows s.g.core grain a.grain s.g.serial).dropS
            s.g.core grain
        else s3
  { s2 with events := s2.events ++ padWakes s2 s.g.serial off }

/-! ## Reduce-aperture groups (R152, R270) -/

/-- A word of a group entry. -/
def Group.word (g : Group) (off : Nat) : Nat := field g.bytes off 4

/-- The number of members of a group. -/
def Group.members (g : Group) : Nat := bitsNat (g.word 0) 24 19 + 1

/-- One entry of a group's member list: base, key id, package; none when it breaks a rule of R270. -/
def State.member (s : State) (g : Group) (m : Nat) : Option (Nat × Nat × Nat) :=
  match physKey (BitVec.ofNat 64 (field g.bytes 0x10 8 + 16 * m)) with
  | none => none
  | some k =>
    match s.homeRead k 16 with
    | .error _ => none
    | .ok bs =>
      let base := field bs 0 8
      let w := field bs 8 4
      if base % 128 ≠ 0 ∨ bitsNat w 31 26 ≠ 0 ∨ field bs 12 4 ≠ 0 ∨ (physKey (BitVec.ofNat 64 base)).isNone then none
      else some (base, bitsNat w 25 16, bitsNat w 9 0)

/-- Whether a group accepts a load from a workgroup's level (R270, R274). -/
def State.groupOk (s : State) (index level : Nat) : Bool :=
  match FMap.find s.fab.groups index with
  | none => false
  | some g =>
    let w := g.word 0
    bitNat w 31 && !g.quarantined && (bitNat w 25 || level != 0)
    && [1, 2, 4, 5, 6, 7].contains (bitsNat w 18 15)
    && g.word 4 == 0 && field g.bytes 0x18 8 == 0
    && field g.bytes 8 8 % 32 == 0 && field g.bytes 0x10 8 % 16 == 0
    && (physKey (BitVec.ofNat 64 (field g.bytes 8 8))).isSome
    && (List.range g.members).all (fun m => (s.member g m).isSome)

/-! ## Addresses and the checks of R145 -/

/-- The address of a lane (R42). -/
def Warp.laneAddr (w : Warp) (ext : Word) (a b : BitVec 6) (mult : Nat) (ofs : Int) (i : Nat) : DWord :=
  let idx := if b = 61#6 then 0 else (w.src ext b i).toNat
  w.srcPair ext a i + BitVec.ofNat 64 (idx * mult) + BitVec.ofInt 64 ofs

/-- The address of a lane's access: a replayed access is made with the addresses that the fault buffer kept (R310). -/
def Warp.keptAddr (w : Warp) (l : Nat) (a : DWord) : DWord :=
  match w.cl with
  | some c => (FMap.find c.addrs l).getD a
  | none => a

/-- Whether every lane forms the same address (R42, R147): no operand is a vector. -/
def uniformAddr (a b : BitVec 6) : Bool := !(isVectorCode a) && !(isVectorCode b)

/-- What the checks of R145 answer: a target per lane, or the cause, the lanes that fail that check, and the address of
the lowest of them. -/
inductive Checked where
  | ok (ts : List (Nat × DWord × Target))
  | bad (c : Cause) (lns : LaneMask) (addr : DWord)

/-- Which kinds of access the aperture rules tell apart (R151, R152). -/
structure AccessKind where
  acc : Access
  width : Nat
  /-- LD.128 with COH 0 -/
  line : Bool
  atomic : Bool
  f32Atomic : Bool
  align : Bool
  deriving DecidableEq, Repr

/-- Where one lane's access leads, with the number of the check it fails (R145): 1 high bits, 2 alignment, 3 aperture, 4
translation, 5 permission, 6 key, 7 a poisoned table; 0 when a walk must first ask a home. -/
def State.resolve (s : State) (k : AccessKind) (addr : DWord) : Except (Nat × Cause) Target :=
  let a := addr.toNat
  if 2 ^ 57 ≤ a then .error (1, .protection)
  else if k.align && a % k.width ≠ 0 then .error (2, .misaligned)
  else
    match apertureOf s.g.padUnits a k.width with
    | some (.error c) => .error (3, c)
    | some (.ok (.pad off)) =>
      if k.atomic && (s.g.windowAt off).isSome then .error (3, .protection) else .ok (.pad off)
    | some (.ok t) =>
      match t with
      | .reduce g _ _ => if k.line && s.groupOk g s.g.level then .ok t else .error (3, .protection)
      | _ => .ok t
    | none =>
      match translate s s.g.space s.g.level k.acc a with
      | .error .walkWait => .error (0, .walkWait)
      | .error .translation => .error (4, .translation)
      | .error .key => .error (6, .key)
      | .error .poison => .error (7, .poison)
      | .error c => .error (5, c)
      | .ok (key, at_) =>
        if k.f32Atomic && regionOf (keyPa key) = 6 then .error (5, .protection) else .ok (.memory key at_)

/-- The checks over all lanes, in the order of R145. -/
def State.checkLanes (s : State) (k : AccessKind) (act : LaneMask) (addr : Nat → DWord) : Checked :=
  let rs := act.toList.map (fun i => (i, addr i, s.resolve k (addr i)))
  let first := fun (n : Nat) => rs.filter (fun (_, _, r) => match r with | .error (m, _) => m == n | .ok _ => false)
  match ([0, 1, 2, 3, 4, 5, 6, 7].map first).find? (fun l => !l.isEmpty) with
  | some l =>
    match l with
    | (_, a, .error (_, c)) :: _ => .bad c (maskOf (fun i => l.any (fun x => x.1 == i))) a
    | _ => .ok []
  | none => .ok (rs.filterMap (fun (i, a, r) => match r with | .ok t => some (i, a, t) | .error _ => none))

/-! ## L1 (R241 to R243) -/

/-- The bytes a load finds in its core's L1, if it hits (R242), with the core's pending stores that are not yet
performed at their home over them (R228, R243); and the pending stores they come from. -/
def State.l1Hit (s : State) (pol key n : Nat) (a : Attr) : Option (List Byte × List Nat) :=
  let grain := key - key % a.grain
  match s.lineOf (l1Of s.g.core) grain with
  | none => none
  | some l =>
    let hits := match pol, l.st with
      | 1, .x | 4, .t | 4, .x | 3, .s | 3, .t | 3, .x => true
      | _, _ => false
    let valid := (List.range n).all (fun i => (FMap.find l.cells (key + i)).isSome)
    if !hits || !valid then none
    else
      let mine := s.fab.pend.filter (fun p => p.core == s.g.core && !p.done)
      let latest := fun (k : Nat) => (mine.flatMap (fun p => (p.cells.filter (fun c => c.1 == k)).map (fun c => (p.req, c.2)))).getLast?
      let bytes := (List.range n).map (fun i =>
        match latest (key + i) with
        | some (_, b) => b
        | none => FMap.get l.cells 0#8 (key + i))
      some (bytes, (List.range n).filterMap (fun i => (latest (key + i)).map (fun p => p.1)))

/-! ## Requests -/

/-- A request of the warp whose turn it is. -/
def State.warpReq (s : State) (id : Nat) (kind : ReqKind) (key len : Nat) (a : Attr) (op scope : Nat) (sync nocomb ret : Bool)
    (vaddr : DWord) (dest : ReqDest) : Req :=
  { id := id, kind := kind, key := key, len := len, grain := a.grain, op := op, operand := 0, newval := 0, cells := [],
    scope := scope, checked := a.schk && !(s.g.scopechk.getLsbD 0) && (sync || decide (2 ≤ scope)), schk := a.schk,
    off := s.g.scopechk.getLsbD 0, comb := a.comb && !nocomb, reissued := false, ret := ret, keyid := a.keyid, who := l1Of s.g.core,
    unit := coreUnit Config.pkgid s.g.core, span := 0, vaddr := vaddr, dest := dest, slot := 0, inc := s.ownInc, stage := 0 }

/-- An access at a checked scope that L1 serves is checked and recorded at its home all the same (R235, R236): the state with the record,
or none when it is refused. -/
def State.recordHit (s : State) (r : Req) : Option State :=
  if !r.checked then some s
  else
    let e := { s.entry r.base with size := r.grain }
    match scopeCheck e r false with
    | .accept => some (s.setEntry r.base { e with svalid := true, sunit := r.unit, sscope := r.scope })
    | _ => none

/-- Whether a number of further requests fits under the limit of 8,192 (R150); none always does. -/
def State.fits (s : State) (n : Nat) : Bool := n == 0 || decide (s.outstandingOf s.g.core + n ≤ 8192)

/-- What a release asks of the warp: it goes on, waits, or takes the failure of a store the release covers. -/
inductive Held where
  | free (s : State)
  | waits (w : Wait)
  | fails (s : State)

/-- The release at a scope of the warp whose turn it is, satisfied (R230): the failures of the stores it covers are taken; a wider
release that the warp holds stays held. -/
def State.released (s : State) (scope : Nat) : Held :=
  let keep := match s.w.held with | some h => if scope < h then some h else none | none => none
  if scope < 2 then .free (s.modW (fun w => { w with held := keep }))
  else
    let (w, fails) := s.w.commit (fun o => o.covered scope)
    let s1 : State := { s with w := { w with held := keep, observed := w.observed.filter (fun r => s.observedPending 5 r) } }
    if fails.isEmpty then .free s1 else .fails (s1.raiseFails fails)

/-- The failures that the release at a scope takes at an instruction that has not issued (R300). -/
def State.releaseFails (s : State) (scope : Nat) : State := match s.released scope with | .fails t => t | _ => s

/-- The held release of the warp whose turn it is, at a store, RED, ATOM or CAS (R168, R230). -/
def State.heldRelease (s : State) : Held :=
  match s.w.held with
  | none => .free s
  | some sc => if s.heldDone s.w sc then s.released sc else .waits (.held sc)

end Sys2Proof.Machine
end

