-- ==== Sys2Proof/Machine/Group.lean ====
section
/-! DEFINITION. What warps of a workgroup do together: acquires (R230, R231), rings (R23, R174), barriers (R25, R172), the
former (R116, R117), stops at clause boundaries and the moment a workgroup is saved (R123, R133, R294, R296). -/

namespace Sys2Proof.Machine

/-- Adds an event unless it is already under way. -/
def State.pushOnce (s : State) (e : Instr) : State := if s.events.contains e then s else s.push e

/-! ## Acquires -/

/-- Clears the valid bits of a core's window sectors that are held self-invalidated; a fill of one that is under way brings nothing. Dirty
bytes stay dirty: an acquire is none of the cases in which R163 writes them back. -/
def State.invalidateSiWindows (s : State) (core : Nat) : State :=
  (s.voidFills core (fun r => r.kind == .si)).staleWindows core (fun pol _ => pol == 3)

/-- An acquire at a scope by the warp whose turn it is: at tile scope or wider every self-invalidated copy of its core
goes (R168, R230). -/
def State.acquire (s : State) (scope : Nat) : State :=
  if scope < 2 then s
  else
    (s.modFab (fun f => { f with lines := f.lines.filter (fun l => !(l.who == l1Of s.g.core && l.st == LineState.s)) })
      ).invalidateSiWindows s.g.core

/-- The waiting instruction's condition has come about: it completes when it is next taken up. -/
def Warp.release1 (w : Warp) : Warp := { w with wait := .none, cl := w.cl.map (fun c => { c with awaits := [0] }) }

/-- Whether the instruction at the warp's index has been told that its wait is over. -/
def State.told (s : State) : Bool := s.awaitIds == [0]

/-! ## Rings -/

/-- Sets a ring slot's phase; warps waiting for it and held matrix instructions look again (R175 to R177). -/
def State.setSlot (s : State) (serial r slot : Nat) (full : Bool) : State :=
  let s1 := s.mapWg serial (fun g =>
    let f := fun (q : Ring) =>
      { q with phase := if full then q.phase ||| (1#8 <<< slot) else q.phase &&& ~~~(1#8 <<< slot) }
    { g with rings := g.rings.map (fun (q : Nat × Ring) => if q.1 = r then (q.1, f q.2) else q) })
  let hit : Warp → Bool := fun w => match w.wait with | .ring r' slot' full' _ => r' == r && slot' == slot && full' == full | _ => false
  let waiters := ((s1.warpsOf serial).filter hit).map (fun w => Instr.ringaComplete ⟨w.wg, w.wid⟩)
  let s2 := s1.mapWarps serial (fun w => if hit w then { w with wait := .ring r slot full true } else w)
  { s2 with events := s2.events ++ waiters }

/-- A RINGW that sets slots full joins the stores before it to the engine reads that it enables: those of the matrix instructions held (R176,
R233). -/
def State.joinHeld (s : State) (full : Bool) : State :=
  if full then
    let ids := s.storeIds s.g.serial
    s.modG (fun g => { g with mx := g.mx.map (fun (e : MxEntry) => if e.released then e else { e with cover := e.cover ++ ids }) })
  else s

/-- The phase of a ring slot; none for a ring or a slot that is not configured (R175). -/
def Workgroup.slotFull (g : Workgroup) (r slot : Nat) : Option Bool :=
  match FMap.find g.rings r with
  | none => none
  | some q => if slot < q.n then some (q.phase.getLsbD slot) else none

/-! ## Barriers -/

/-- A barrier at launch (R25). -/
def Barrier.idle : Barrier := { phase := false, count := 0, arrivals := 0 }

/-- What an arrival of some threads with a count comes to (R25, R172): a conflict, the barrier with the arrivals
counted, or the completed phase. -/
inductive Arrival where
  | conflict
  | counted (b : Barrier)
  | complete (b : Barrier)

/-- An arrival at a barrier. -/
def Barrier.arrive (b : Barrier) (count threads : Nat) : Arrival :=
  if (b.count ≠ 0 ∧ b.count ≠ count) ∨ count < b.arrivals + threads then .conflict
  else if b.arrivals + threads = count then .complete { phase := !b.phase, count := 0, arrivals := 0 }
  else .counted { phase := b.phase, count := count, arrivals := b.arrivals + threads }

/-- Lets the warps go on that wait in a phase of a barrier. -/
def State.freeBarrier (s : State) (serial n : Nat) (phase : Bool) : State :=
  s.mapWarps serial (fun w =>
    match w.wait with
    | .barrier m ph _ => if m == n && ph == phase then w.release1 else w
    | _ => w)

/-! ## Saving (R123, R133, R296, R302) -/

/-- Whether a wait is one in which a workgroup may be saved (R123, R127, R133, R148, R312). -/
def Wait.saveable : Wait → Bool
  | .barrier _ _ _ | .ring _ _ _ _ | .word _ _ _ _ _ _ _ | .kids | .token _ | .commands _ | .ringFree _ => true
  | .loads | .release _ | .stores => true
  | _ => false

/-- Whether a warp stands where its workgroup may be saved: exited, stopped, parked, or with every live lane resting;
with every variable-latency result returned (R302). -/
def Warp.atRest (w : Warp) : Bool :=
  !(w.awaits (fun o => o.hasDest))
    && (w.live == 0#32 || w.stopped || w.wait.saveable || (w.cl.isNone && w.wait == .none && w.live &&& ~~~w.resting == 0#32))

/-! ## The former (R116, R117) -/

/-- Whether every warp that was not formed waits in a barrier or has exited. -/
def State.allWaiting (s : State) (serial : Nat) : Bool :=
  (s.warpsOf serial).all (fun w => w.formed || w.live == 0#32 || (match w.wait with | .barrier _ _ _ => true | _ => false))

/-- The targets of the threads waiting in the former, ascending. -/
def Workgroup.targets (g : Workgroup) : List Nat := g.spawn.foldl (fun l r => addNat r.target.toNat l) []

/-- Whether a warp holds its slot: it has a live lane or something outstanding (R122). -/
def Warp.inUse (w : Warp) : Bool := w.live != 0#32 || w.awaits (fun _ => true)

/-- The warp slots of a core that are taken (R289: 96, in six partitions of 16). -/
def State.slotsUsed (s : State) (core : Nat) : Nat :=
  (s.allWarps.filter (fun w => w.inUse && match s.findWg w.wg with | some g => g.core == core && g.place == .running | none => false)).length

/-- The lowest index above the launch warps, and not above 95, that no warp of the workgroup holds (R16). -/
def State.formedWid (s : State) (g : Workgroup) : Option Nat :=
  let held := (s.warpsOf g.serial).filter Warp.inUse |>.map (fun w => w.wid)
  (List.range 96).find? (fun i => decide (warpsFor g.size ≤ i) && !(held.contains i))

/-- Whether a target is due: 32 threads, every warp waiting, or its timer run out; with a warp slot and an index free. -/
def State.targetDue (s : State) (g : Workgroup) (t : Word) : Bool :=
  let n := (g.spawn.filter (fun r => r.target == t)).length
  g.place == .running && !g.resting && decide (0 < n) && decide (s.slotsUsed g.core < 96)
    && (s.formedWid g).isSome
    && (decide (32 ≤ n) || g.due.contains t || s.allWaiting g.serial)

/-- The targets that are due, in ascending order. -/
def State.dueTargets (s : State) (g : Workgroup) : List Word :=
  (g.targets.map (BitVec.ofNat 32)).filter (fun t => s.targetDue g t)

end Sys2Proof.Machine
end

