-- ==== Sys2Proof/Machine/MemInstr.lean ====
section
/-! DEFINITION. Loads, stores, atomics, prefetch and the stash-window instructions (R144 to R164). -/

namespace Sys2Proof.Machine

/-! ## Shared shapes -/

/-- The width in bytes of an LD or ST form (R153). -/
def memWidth (f : BitVec 4) : Nat :=
  match f.toNat with
  | 0 | 1 => 1
  | 2 | 3 => 2
  | 4 => 4
  | 5 => 8
  | _ => 16

/-- The fields of the memory extension word (R40). -/
def memOfs (x : Word) : Int := (x.extractLsb' 8 24).toInt
def memScale (x : Word) : Bool := x.getLsbD 7
def memNocomb (x : Word) : Bool := x.getLsbD 6
def memScope (x : Word) : Nat := (x.extractLsb' 3 3).toNat
def memCoh (x : Word) : Nat := (x.extractLsb' 0 3).toNat

/-- The fields of the atomic extension word that differ (R41). -/
def atomOfs (x : Word) : Int := (x.extractLsb' 9 23).toInt
def atomNocomb (x : Word) : Bool := x.getLsbD 8
def atomWidth (x : Word) : Nat := if x.getLsbD 6 then 8 else 4

/-- One access of an instruction: the lanes it serves, its address and target, the parts its bytes fill, and the bytes it
stores. -/
structure Acc where
  lns : LaneMask
  addr : DWord
  tgt : Target
  parts : List Part
  bytes : List Byte
  deriving DecidableEq, Repr

/-- The destination parts of a lane for a value of given width (R42, R153). -/
def loadParts (d : BitVec 6) (width : Nat) (sgn : Bool) (lane : Nat) : List Part :=
  (List.range (max 1 (width / 4))).filterMap (fun j =>
    (codeKey (d.toNat + j) lane).map (fun key => { lane := lane, off := 4 * j, len := min 4 width, sgn := sgn, key := key }))

/-- The word a part takes from the bytes of a reply (R153). -/
def Part.value (p : Part) (bs : List Byte) : Word :=
  let x := field bs p.off p.len
  if p.sgn then BitVec.ofInt 32 (signedNat (8 * p.len) x) else BitVec.ofNat 32 x

/-- The values parts take. -/
def partVals (ps : List Part) (bs : List Byte) : List (Nat × Word) := ps.map (fun p => (p.key, p.value bs))

/-- The parts that lie in a piece of an access, with offsets from the piece's start. -/
def partsIn (ps : List Part) (off n : Nat) : List Part :=
  (ps.filter (fun p => decide (off ≤ p.off) && decide (p.off < off + n))).map (fun p => { p with off := p.off - off })

/-- The pieces of an access: a 16-byte access is two 8-byte halves (R154, R226). -/
def piecesOf (width : Nat) : List (Nat × Nat) := if width = 16 then [(0, 8), (8, 8)] else [(0, width)]

/-- The accesses a checked instruction makes: one per lane, or one for every active lane when the address is uniform and
`once` holds (R42, R147). The parts of a uniform destination are those of the lowest lane. -/
def accesses (once : Bool) (act : LaneMask) (ts : List (Nat × DWord × Target)) (parts : Nat → List Part)
    (bytes : Nat → List Byte) (uni : Bool) : List Acc :=
  match once, ts with
  | true, (i, a, t) :: _ =>
    [{ lns := act, addr := a, tgt := t, parts := if uni then parts i else act.toList.flatMap parts, bytes := bytes i }]
  | true, [] => []
  | false, ts => ts.map (fun (i, a, t) => { lns := 1#32 <<< i, addr := a, tgt := t, parts := parts i, bytes := bytes i })

/-- The offsets of accesses to the scratchpad. -/
def padOffs (as : List Acc) : List Nat := as.filterMap (fun a => match a.tgt with | .pad o => some o | _ => none)

/-- The sectors of the allotment that the accesses of one store together write whole (R256). -/
def wholePads (as : List Acc) : List Nat :=
  let bytes := as.flatMap (fun a => match a.tgt with | .pad o => (List.range a.bytes.length).map (fun i => o + i) | _ => [])
  (padOffs as).foldl (fun l o => if (List.range 32).all (fun i => bytes.contains (o / 32 * 32 + i)) then addNat (o / 32) l else l) []

/-- The accesses of a list at a byte of the allotment. -/
def accsAt (as : List Acc) (off : Nat) : List Acc := as.filter (fun a => a.tgt == .pad off)

/-- What an access to sectors of windows waits for: a request under way of the warp whose turn it is, with which it keeps program order, or a
store of the core that its warps see in L1 and the window does not (R228). -/
def State.windowBusy (s : State) (offs : List Nat) : Option Wait :=
  offs.findSome? (fun off =>
    match s.g.windowAt off with
    | none => none
    | some (_, w) =>
      match s.sectorKey s.g w .read ((off - w.off * 32) / 32) with
      | .ok (key, _) =>
        if s.sameBytes s.warpId key 32 then some (.same key 32) else if s.storeInFlight s.g.core key 32 then some (.pending key 32) else none
      | .error _ => none)

/-- The outcome of making the stash sectors of accesses valid (R163): a state to go on from, with the failures that fills reported by
their accesses' offsets; a precise fault; or a wait. -/
def State.withFills (s : State) (as : List Acc) (k : State → List (Nat × Cause) → Host.Outcome State Fault Refusal) :
    Host.Outcome State Fault Refusal :=
  match s.windowBusy (padOffs as) with
  | some x => go (s.stall x)
  | none =>
    match s.fillPads (padOffs as) (wholePads as) with
    | .ok (s1, bad) => k (s1.usePads (padOffs as)) bad
    | .error (o, .fault c) =>
      let hit := as.filter (fun a => match a.tgt with | .pad p => p / 32 == o / 32 | _ => false)
      go (s.raise c (hit.foldl (fun m a => m ||| a.lns) 0#32) (match hit with | a :: _ => a.addr | [] => 0#64))
    | .error (_, .wait s1) => go (s1.stall .sectors)
    | .error (_, .ok s1) | .error (_, .failed s1 _) => k s1 []

/-- The failures that fills reported, as failures of the instruction (R149, R163). -/
def fillFail (as : List Acc) (bad : List (Nat × Cause)) : Option Fail :=
  bad.foldl (fun f (x : Nat × Cause) => (accsAt as x.1).foldl (fun f a =>
    joinFail f (some { cause := x.2, lanes := a.lns, addr := a.addr })) f) none

/-- The accesses whose sectors are valid. -/
def filled (as : List Acc) (bad : List (Nat × Cause)) : List Acc :=
  as.filter (fun a => match a.tgt with | .pad p => !(bad.any (fun x => x.1 == p)) | _ => true)

/-- A step whose accesses fail a check of R145, or go on. -/
def State.withChecks (s : State) (k : AccessKind) (act : LaneMask) (addr : Nat → DWord)
    (next : List (Nat × DWord × Target) → Host.Outcome State Fault Refusal) : Host.Outcome State Fault Refusal :=
  let at_ := fun (l : Nat) => s.w.keptAddr l (addr l)
  match s.checkLanes k act at_ with
  | .bad c lns a => go (s.raise c lns a (if c = .translation then act.toList.map (fun l => (l, at_ l)) else []))
  | .ok ts => next ts

/-- A step that issues only when no held release keeps it (R230). -/
def State.withHeld (s : State) (next : State → Host.Outcome State Fault Refusal) : Host.Outcome State Fault Refusal :=
  if s.w.activeLanes = 0#32 then next s
  else
    match s.heldRelease with
    | .free s1 => next s1
    | .waits w => go (s.modW (fun x => { (x.park w) with cl := x.cl }))
    | .fails s1 => go s1

/-- The end of a memory instruction: the outstanding operation is added, last-use registers are released, the warp passes
it. -/
def State.finishMem (s : State) (i : Instr) (o : Ops) (out : Out) : Host.Outcome State Fault Refusal :=
  go (({ s with w := (s.w.lastUse i o).addOut out }).retire i o)

/-- The end of an instruction with acknowledgements: those of stores into the pod, with the failure already known, and those of stores
to memory outside it, which only a system release awaits (R230). -/
def State.finishAcks (s : State) (i : Instr) (o : Ops) (near far waitNear waitFar : Nat) (fail : Option Fail) :
    Host.Outcome State Fault Refusal :=
  let out : Out := { id := near, cls := 1, hasDest := false, keys := [], vals := [], waiting := waitNear, fail := fail, flags := 0#32 }
  let out2 : Out := { id := far, cls := 1, hasDest := false, far := true, keys := [], vals := [], waiting := waitFar, fail := none, flags := 0#32 }
  go (({ s with w := ((s.w.lastUse i o).addOut out).addOut out2 }).retire i o)

/-! ## Loads (R153, R154) -/

/-- What a load has gathered: the state, values already found, replies awaited, and a failure already known. -/
structure LoadAcc where
  s : State
  vals : List (Nat × Word)
  waiting : Nat
  fail : Option Fail

/-- The pieces of a load of memory: their accesses, keys, offsets and lengths. -/
def loadPieces (width : Nat) (as : List Acc) : List (Acc × Nat × Attr × Nat × Nat) :=
  as.flatMap (fun a => match a.tgt with | .memory key at_ => (piecesOf width).map (fun p => (a, key, at_, p.1, p.2)) | _ => [])

/-- What L1 serves a piece of a load with, if it does. -/
def State.pieceHit (s : State) (o : Ops) (p : Acc × Nat × Attr × Nat × Nat) : Option (List Byte × List Nat) :=
  s.l1Hit (polFor (memCoh o.ext) p.2.1 p.2.2.1) (p.2.1 + p.2.2.2.1) p.2.2.2.2 p.2.2.1

/-- One piece of a load of memory: an L1 hit, or a request. -/
def LoadAcc.piece (x : LoadAcc) (out : Nat) (o : Ops) (p : Acc × Nat × Attr × Nat × Nat) : LoadAcc :=
  let (a, key, at_, off, n) := p
  let pol := polFor (memCoh o.ext) key at_
  let (s1, id) := x.s.fresh
  let r := s1.warpReq id (loadKind pol) (key + off) n at_ 13 (memScope o.ext) false (memNocomb o.ext) true a.addr
    (.warp s1.warpId out (partsIn a.parts off n) a.lns)
  match x.s.pieceHit o p with
  | some (bs, seen) =>
    match x.s.recordHit r with
    | some s2 =>
      { x with
        s := s2.modW (fun w => { w with observed := seen.foldl (fun l r => addNat r l) w.observed })
        vals := x.vals ++ partVals (partsIn a.parts off n) bs }
    | none => { x with fail := joinFail x.fail (some { cause := .scopeMismatch, lanes := a.lns, addr := a.addr }) }
  | none => { x with s := s1.send r, waiting := x.waiting + 1 }

/-- The lines of the reduce aperture that accesses touch: group, round and offset (R152). -/
def apertureLines (as : List Acc) : List (Nat × Nat × Nat) :=
  as.foldl (fun (l : List (Nat × Nat × Nat)) a =>
    match a.tgt with
    | .reduce g r off => if l.contains (g, r, off - off % 128) then l else l ++ [(g, r, off - off % 128)]
    | _ => l) []

/-- The accesses of a load that share a line of the reduce aperture, as aperture loads (R152). -/
def LoadAcc.lines (x : LoadAcc) (out : Nat) (as : List Acc) : LoadAcc :=
  (apertureLines as).foldl (fun (x : LoadAcc) (t : Nat × Nat × Nat) =>
    let (g, r, line) := t
    let mine := as.filter (fun a => match a.tgt with | .reduce g' r' o' => g' == g && r' == r && o' - o' % 128 == line | _ => false)
    let parts := mine.flatMap (fun a => match a.tgt with | .reduce _ _ o' => a.parts.map (fun p => { p with off := p.off + o' % 128 }) | _ => [])
    let (s1, id) := x.s.fresh
    let ap : ApLoad := { id := id, warp := s1.warpId, out := out, group := g, round := r, off := line, core := s1.g.core,
                         user := s1.g.level == 0, parts := parts, lanes := mine.foldl (fun m a => m ||| a.lns) 0#32,
                         vaddr := match mine with | a :: _ => a.addr | [] => 0#64 }
    { x with
      s := (s1.modFab (fun f => { f with apLoads := f.apLoads ++ [ap] })).push (.apertureLoad id)
      waiting := x.waiting + 1 }) x

/-- One access of a load. -/
def LoadAcc.access (x : LoadAcc) (out : Nat) (o : Ops) (width : Nat) (a : Acc) : LoadAcc :=
  match a.tgt with
  | .pad off => { x with vals := x.vals ++ partVals a.parts (x.s.g.padRead off width) }
  | .memory _ _ => (loadPieces width [a]).foldl (fun x p => x.piece out o p) x
  | .reduce _ _ _ => x

/-- LD (R144 to R154). An access that L1 serves waits for the warp's earlier requests to the same bytes (R228, R229). -/
def execLd (o : Ops) (s : State) : Host.Outcome State Fault Refusal :=
  let i : Instr := .ld o
  let act := s.w.activeLanes
  let width := memWidth o.f
  let once := uniformAddr o.a o.b
  let bytes := if act = 0#32 then 0 else if once then width else width * act.count
  let s1 := s.charge 1 bytes
  let w0 := s1.w
  let kind : AccessKind := { acc := .read, width := width, line := width == 16 && memCoh o.ext == 0, atomic := false,
                             f32Atomic := false, align := true }
  s1.withChecks kind act (w0.laneAddr o.ext o.a o.b (if memScale o.ext then width else 1) (memOfs o.ext)) (fun ts =>
    let sgn := o.f = 1#4 ∨ o.f = 3#4
    let as := accesses once act ts (loadParts o.d width sgn) (fun _ => []) (isUniformCode o.d)
    let ps := loadPieces width as
    let need := (ps.filter (fun p => (s1.pieceHit o p).isNone)).length + (apertureLines as).length
    match ps.find? (fun p => (s1.pieceHit o p).isSome && s1.sameBytes s1.warpId (p.2.1 + p.2.2.2.1) p.2.2.2.2) with
    | some p => go (s1.stall (.same (p.2.1 + p.2.2.2.1) p.2.2.2.2))
    | none =>
      if !(s1.fits need) then go (s1.stall (.entries need))
      else
        s1.withFills as (fun s2 bad =>
          let (s3, id) := s2.fresh
          let good := filled as bad
          let x := (good.foldl (fun x a => x.access id o width a) { s := s3, vals := [], waiting := 0, fail := fillFail as bad : LoadAcc }).lines id as
          let keys := as.flatMap (fun a => a.parts.map (fun p => p.key))
          x.s.finishMem i o
            { id := id, cls := 0, hasDest := o.d != 61#6
              keys := match x.fail with | some f => keys.filter (fun k => !(f.loses (as.flatMap (fun a => a.parts)) k)) | none => keys
              vals := x.vals, waiting := x.waiting, fail := x.fail, flags := 0#32 }))

/-! ## Stores (R153, R154, R243, R256) -/

/-- The bytes a lane stores (R153). -/
def Warp.storeBytes (w : Warp) (d : BitVec 6) (width lane : Nat) : List Byte :=
  let word := fun (j : Nat) => if d = 61#6 then 0 else (w.src 0#32 (d + BitVec.ofNat 6 j) lane).toNat
  (leBytes 4 (word 0) ++ (if 4 < width then leBytes 4 (word 1) else [])
    ++ (if 8 < width then leBytes 4 (word 2) ++ leBytes 4 (word 3) else [])).take width

/-- A piece of a store to memory. -/
structure StorePiece where
  lns : LaneMask
  addr : DWord
  key : Nat
  at_ : Attr
  cells : List Host.Cell
  deriving DecidableEq, Repr

/-- The pieces of the accesses to memory, in lane order. -/
def storePieces (width : Nat) (as : List Acc) : List StorePiece :=
  as.flatMap (fun a =>
    match a.tgt with
    | .memory key at_ => (piecesOf width).map (fun (off, n) =>
        { lns := a.lns, addr := a.addr, key := key + off, at_ := at_, cells := cellsAt (key + off) ((a.bytes.drop off).take n) })
    | _ => [])

/-- Pieces that together cover a whole sector go as one request (R256). -/
def gatherSectors (ps : List StorePiece) : List StorePiece :=
  let secs := ps.foldl (fun l p => addNat (p.key / 32) l) []
  secs.flatMap (fun sec =>
    let mine := ps.filter (fun p => p.key / 32 == sec)
    let cells := mine.foldl (fun (m : FMap Byte) p => putCells m p.cells) []
    match mine with
    | p :: _ => if coversSector cells (keyPlace (32 * sec) / 32) then
          [{ p with lns := mine.foldl (fun m q => m ||| q.lns) 0#32, key := 32 * sec, cells := cells }]
        else mine
    | [] => [])

/-- Whether an own store hits its core's line (R242). -/
def State.ownHit (s : State) (p : StorePiece) : Bool :=
  (match s.lineOf (l1Of s.g.core) (p.key - p.key % p.at_.grain) with | some l => l.st == LineState.x | none => false)
    && p.cells.all (fun c => !(s.poisoned c.1) || coversSector p.cells (keyPlace c.1 / 32))

/-- What a store has gathered: acknowledgements awaited from homes in the pod and from others, and a failure already known. -/
structure StoreAcc where
  s : State
  near : Nat
  far : Nat
  fail : Option Fail

/-- One piece of a store: an own hit is written into the line, the others become requests; a store that is not own waits
in the pending-store buffer (R242, R243). -/
def StoreAcc.piece (x : StoreAcc) (out out2 : Nat) (o : Ops) (p : StorePiece) : StoreAcc :=
  let own := polFor (memCoh o.ext) p.key p.at_ == 1
  let (s1, id) := x.s.fresh
  let r := { s1.warpReq id (if own then .own else .wtw) p.key p.cells.length p.at_ 14 (memScope o.ext) false (memNocomb o.ext) false p.addr
      (.warp s1.warpId (if farKey p.key then out2 else out) [] p.lns) with
    cells := p.cells, operand := leNat (p.cells.map (fun c => c.2)) }
  if own && x.s.ownHit p then
    match x.s.recordHit r with
    | some s2 => { x with s := (s2.writeOwned (l1Of s2.g.core) r.base p.cells).untrackedStale s2.g.core r.base r.grain }
    | none => { x with fail := joinFail x.fail (some { cause := .scopeMismatch, lanes := p.lns, addr := p.addr }) }
  else
    let s2 := s1.send r
    let s3 := if own then s2 else s2.modFab (fun f => { f with pend := f.pend ++ [{ core := s2.g.core, req := id, cells := p.cells, wg := s2.g.serial }] })
    if farKey p.key then { x with s := s3, far := x.far + 1 } else { x with s := s3, near := x.near + 1 }

/-- ST (R144 to R154). A store that hits an owned line waits for pending stores to its grain (R243), and for the warp's earlier requests to the
same bytes (R229). -/
def execSt (o : Ops) (s : State) : Host.Outcome State Fault Refusal :=
  s.withHeld (fun s0 =>
    let i : Instr := .st o
    let act := s0.w.activeLanes
    let width := memWidth o.f
    let once := uniformAddr o.a o.b && (isUniformCode o.d || o.d == 61#6)
    let bytes := if act = 0#32 then 0 else if once then width else width * act.count
    let s1 := s0.charge 1 bytes
    let w0 := s1.w
    let kind : AccessKind := { acc := .write, width := width, line := false, atomic := false, f32Atomic := false, align := true }
    s1.withChecks kind act (w0.laneAddr o.ext o.a o.b (if memScale o.ext then width else 1) (memOfs o.ext)) (fun ts =>
      let as := accesses once act ts (fun _ => []) (w0.storeBytes o.d width) false
      let ps := gatherSectors (storePieces width as)
      let hits := ps.filter (fun p => polFor (memCoh o.ext) p.key p.at_ == 1 && s1.ownHit p)
      match hits.find? (fun p => s1.storeInFlight s1.g.core (p.key - p.key % p.at_.grain) p.at_.grain),
            hits.find? (fun p => s1.sameBytes s1.warpId p.key p.cells.length) with
      | some p, _ => go (s1.stall (.pending (p.key - p.key % p.at_.grain) p.at_.grain))
      | none, some p => go (s1.stall (.same p.key p.cells.length))
      | none, none =>
        let need := ps.length - hits.length
        if !(s1.fits need) then go (s1.stall (.entries need))
        else
          s1.withFills as (fun s2 bad =>
            let s3 := ((filled as bad).foldl (fun (s : State) a => match a.tgt with | .pad off => s.padWrite off a.bytes | _ => s) s2).modG
              (fun g => { g with padPoison := g.padPoison.filter (fun k => !((wholePads as).contains k)) })
            let (s4, id) := s3.fresh
            let (s5, id2) := s4.fresh
            let x := ps.foldl (fun (x : StoreAcc) p => x.piece id id2 o p) { s := s5, near := 0, far := 0, fail := fillFail as bad }
            x.s.finishAcks i o id id2 x.near x.far x.fail)))

/-! ## Atomics (R156 to R160) -/

/-- What one lane of an ATOM, RED or CAS does: its operand, its new value for a CAS. -/
structure AtomLane where
  op : Nat
  operand : Nat
  newval : Nat

/-- An atomic of a lane at the scratchpad port: the new bytes and the old value. -/
def atomicAtPad (l : AtomLane) (len old : Nat) : Option Nat :=
  if l.op = 15 then (if old = l.operand then some l.newval else none) else some (atomicOp l.op (len == 8) old l.operand)

/-- What an atomic instruction has gathered: the state, values already found, replies awaited from homes in the pod and from others, and a
failure already known. -/
structure AtomAcc where
  s : State
  vals : List (Nat × Word)
  near : Nat
  far : Nat
  fail : Option Fail

/-- Whether an accumulating RED of a core folds into the partial that the core holds for its operation (R242); one on a poisoned sector goes to
the home, which refuses it (R256). -/
def State.accHit (s : State) (op len key : Nat) (at_ : Attr) : Bool :=
  !(s.poisoned key) &&
  (match s.lineOf (l1Of s.g.core) (key - key % at_.grain) with
   | some ln => ln.st == LineState.p && ln.aop == (if len = 8 then 16 else 0) + op
   | none => false)

/-- One lane of an atomic: at the port, folded into a held partial, or as a request (R151, R157 to R159). An accumulating RED never merges
(R258), and is a plain one outside the pod's memory (R254, R340). -/
def AtomAcc.lane (x : AtomAcc) (out out2 : Nat) (o : Ops) (len : Nat) (acc ret : Bool) (data : Nat → AtomLane)
    (lane : Nat) (a : Acc) : AtomAcc :=
  let l := data lane
  match a.tgt with
  | .pad off =>
    if x.s.g.padBad off len then { x with fail := joinFail x.fail (some { cause := .poison, lanes := a.lns, addr := a.addr }) } else
    let old := leNat (x.s.g.padRead off len)
    let s1 := match atomicAtPad l len old with
      | some v => x.s.padWrite off (leBytes len v)
      | none => x.s
    { x with s := s1, vals := x.vals ++ partVals a.parts (leBytes len old) }
  | .memory key at_ =>
    let (s1, id) := x.s.fresh
    let kind : ReqKind := if acc && !(farKey key) then .acc else .atomic
    let r := { s1.warpReq id kind key len at_ l.op (memScope o.ext) true (atomNocomb o.ext || acc) ret a.addr
        (.warp s1.warpId (if farKey key && !ret then out2 else out) a.parts a.lns) with
      operand := l.operand, newval := l.newval }
    if acc && x.s.accHit l.op len key at_ then
      match x.s.recordHit r with
      | some s2 =>
        { x with s := (s2.foldPartial (l1Of s2.g.core) r.base l.op len key l.operand).untrackedStale s2.g.core r.base r.grain }
      | none => { x with fail := joinFail x.fail (some { cause := .scopeMismatch, lanes := a.lns, addr := a.addr }) }
    else if farKey key && !ret then { x with s := s1.send r, far := x.far + 1 }
    else { x with s := s1.send r, near := x.near + 1 }
  | .reduce _ _ _ => x

/-- ATOM, RED and CAS (R156 to R160): lanes act in ascending order (R146). A uniform destination takes the old value of the lowest active lane
(DESIGN CHOICE, log 27: the spec says of R81's uniform destinations that they are written once, not with which lane's value). An
accumulating RED that folds into the core's partial waits for the warp's earlier requests to its word (R229). -/
def atomicRun (i : Instr) (o : Ops) (s : State) (cas ret : Bool) : Host.Outcome State Fault Refusal :=
  s.withHeld (fun s0 =>
    let act := s0.w.activeLanes
    let len := atomWidth o.ext
    let acc := memCoh o.ext == 5
    let s1 := s0.charge 1 (2 * len * act.count)
    let w0 := s1.w
    let val := fun (c : BitVec 6) (lane : Nat) => if len = 8 then (w0.srcPair 0#32 c lane).toNat else (w0.src 0#32 c lane).toNat
    let data := fun (lane : Nat) =>
      if cas then { op := 15, operand := val o.d lane, newval := val (o.d + (if len = 8 then 2#6 else 1#6)) lane : AtomLane }
      else { op := o.f.toNat, operand := val o.d lane, newval := 0 }
    let kind : AccessKind := { acc := .write, width := len, line := false, atomic := true,
                               f32Atomic := !cas && decide (9 ≤ o.f.toNat), align := true }
    s1.withChecks kind act (w0.laneAddr o.ext o.a o.b len (atomOfs o.ext)) (fun ts =>
      let parts := fun (lane : Nat) =>
        if ret && (!(isUniformCode o.d) || act.lowest == some lane) then loadParts o.d len false lane else []
      let as := accesses false act ts parts (fun _ => []) false
      let hit := fun (a : Acc) => match a.tgt with
        | .memory key at_ => if acc && s1.accHit o.f.toNat len key at_ then some key else none
        | _ => none
      let keys := as.filterMap hit
      match keys.find? (fun k => s1.sameBytes s1.warpId k len) with
      | some k => go (s1.stall (.same k len))
      | none =>
        let need := (as.filter (fun a => (hit a).isNone && (match a.tgt with | .memory _ _ => true | _ => false))).length
        if !(s1.fits need) then go (s1.stall (.entries need))
        else
          let (s3, id) := s1.fresh
          let (s4, id2) := s3.fresh
          let x := (ts.zip as).foldl (fun (x : AtomAcc) p => x.lane id id2 o len acc ret data p.1.1 p.2)
            { s := s4, vals := [], near := 0, far := 0, fail := none }
          if ret then
            x.s.finishMem i o
              { id := id, cls := 0, hasDest := o.d != 61#6, keys := as.flatMap (fun a => a.parts.map (fun p => p.key)), vals := x.vals
                waiting := x.near, fail := x.fail, flags := 0#32 }
          else x.s.finishAcks i o id id2 x.near x.far x.fail))

/-- ATOM. -/
def execAtom (o : Ops) (s : State) : Host.Outcome State Fault Refusal := atomicRun (.atom o) o s false true

/-- RED. -/
def execRed (o : Ops) (s : State) : Host.Outcome State Fault Refusal := atomicRun (.red o) o s false false

/-- CAS. -/
def execCas (o : Ops) (s : State) : Host.Outcome State Fault Refusal := atomicRun (.cas o) o s true true

/-! ## Prefetch (R155) -/

/-- Whether a core already holds every sector of a grain as a policy wants it. -/
def State.heldFor (s : State) (pol grain size : Nat) : Bool :=
  match s.lineOf (l1Of s.g.core) grain with
  | none => false
  | some l =>
    (match pol, l.st with
     | 1, .x | 4, .t | 4, .x | 3, .s | 3, .t | 3, .x => true
     | _, _ => false)
    && (List.range size).all (fun i => (FMap.find l.cells (grain + i)).isSome)

/-- The fills that a prefetch into L1 starts: one request for each grain of each line that is not held. -/
def prefetchFills (s : State) (o : Ops) (ts : List (Nat × DWord × Target)) : List (Nat × Nat × Attr × DWord) :=
  ts.foldl (fun (l : List (Nat × Nat × Attr × DWord)) t =>
    match t.2.2 with
    | .memory key a =>
      let line := key - key % 512
      let pol := polFor (memCoh o.ext) key a
      (List.range (512 / a.grain)).foldl (fun l i =>
        let g := line + a.grain * i
        if pol = 2 || s.heldFor pol g a.grain || l.any (fun x => x.2.1 == g) then l else l ++ [(pol, g, a, t.2.1)]) l
    | _ => l) []

/-- PREF: lanes that would fail a check are dropped; nothing commits, and the scope checker records nothing (R155, R235). -/
def execPref (o : Ops) (s : State) : Host.Outcome State Fault Refusal :=
  let i : Instr := .pref o
  let act := s.w.activeLanes
  let s1 := s.charge 1 0
  let kind : AccessKind := { acc := .read, width := 1, line := false, atomic := false, f32Atomic := false, align := false }
  let addr := s1.w.laneAddr o.ext o.a o.b 1 (memOfs o.ext)
  let ts := act.toList.filterMap (fun l => match s1.resolve kind (addr l) with | .ok t => some (l, addr l, t) | .error _ => none)
  let fills := if o.f = 0#4 then prefetchFills s1 o ts else []
  match act.toList.find? (fun l => match s1.resolve kind (addr l) with | .error (_, .walkWait) => true | _ => false) with
  | some l => go (s1.raise .walkWait act (addr l))
  | none =>
  if !(s1.fits fills.length) then go (s1.stall (.entries fills.length))
  else
    let s2 := fills.foldl (fun (s : State) x =>
      let (pol, g, a, va) := x
      let (s3, id) := s.fresh
      s3.send { s3.warpReq id (loadKind pol) g a.grain a 13 (memScope o.ext) false (memNocomb o.ext) true va .prefetch with checked := false }) s1
    go ((s2.modW (fun w => w.lastUse i o)).retire i o)

/-! ## Stash windows (R161 to R164) -/

/-- A warp-scalar instruction that has nothing to do without an active lane (R31): charged and passed. -/
def State.scalar (s : State) (i : Instr) (o : Ops) (k : State → Host.Outcome State Fault Refusal) :
    Host.Outcome State Fault Refusal :=
  let s1 := s.charge 1 0
  if s1.w.activeLanes = 0#32 then go (s1.retire i o) else k s1

/-- The write-backs of a window's maintenance, which the outstanding operations count in W1 (R148, R164); fills under way bring nothing. -/
def State.maintain (s : State) (n : Nat) (w : Window) (keepValid out out2 : Nat) : State × Nat × Nat :=
  let id := s.warpId
  let act := s.w.activeLanes
  let dest := fun (far : Bool) => ReqDest.warp id (if far then out2 else out) [] act
  let (s1, k, k2) := ((s.modG (fun g => { g with windows := FMap.insert g.windows n w })).voidWindow s.g.serial n).writeBackWindow s.g.serial n w
    (keepValid == 1) dest
  (s1.modG (fun g => { g with windows := g.windows.map (fun (q : Nat × Window) =>
    if q.1 = n then (n, { q.2 with dirty := [], failed := [], valid := if keepValid = 1 then q.2.valid else [] }) else q) }), k, k2)

/-- Whether two windows' global ranges overlap. -/
def Window.rangesMeet (a b : Window) : Bool := overlap a.base.toNat (a.len * 32) b.base.toNat (b.len * 32)

/-- Whether two windows' scratchpad ranges overlap. -/
def Window.padsMeet (a b : Window) : Bool := overlap a.off a.len b.off b.len

/-- The check of R162 that a new window fails; where several fail, the first in the order of R145 and of R162's table is reported (DESIGN CHOICE, log
28: the spec gives the conditions no order). -/
def Workgroup.mapCheck (g : Workgroup) (n : Nat) (w : Window) : Option Cause :=
  if 2 ^ 57 ≤ w.base.toNat then some .protection
  else if w.base.toNat % 32 ≠ 0 then some .misaligned
  else if w.len = 0 ∨ 12288 < w.len then some .illegalOperand
  else if g.padUnits * 128 < w.off + w.len then some .protection
  else if g.windows.any (fun q => q.1 != n && (q.2.padsMeet w || q.2.rangesMeet w)) then some .protection
  else none

/-- STASH.MAP (R162). -/
def execStashMap (o : Ops) (s : State) : Host.Outcome State Fault Refusal :=
  let i : Instr := .stashMap o
  s.scalar i o (fun s1 =>
    let n := o.d.toNat
    let kb := (s1.w.usrc o.ext o.b).toNat
    let w : Window := { base := s1.w.upair o.a + BitVec.ofInt 64 (memOfs o.ext), len := kb / 2 ^ 16, off := kb % 2 ^ 16,
                        pol := memCoh o.ext, scope := memScope o.ext, valid := [], dirty := [] }
    match s1.g.mapCheck n w with
    | some c =>
      go (s1.raise c s1.w.activeLanes (if c = .illegalOperand then pairOf (Ops.toWord 0x36#7 o) o.ext else w.base))
    | none =>
      let need := match FMap.find s1.g.windows n with | some old => s1.windowNeeds s1.g old | none => 0
      if !(s1.fits need) then go (s1.stall (.entries need))
      else
        let (s2, out) := s1.fresh
        let (s3, out2) := s2.fresh
        let (s4, k, k2) := match FMap.find s3.g.windows n with
          | some old => s3.maintain n old 0 out out2
          | none => (s3, 0, 0)
        let s5 := s4.modG (fun g => { g with windows := FMap.insert g.windows n w })
        s5.finishAcks i o out out2 k k2 none)

/-- A maintenance form on the window it names; no effect on an unmapped one (R164). -/
def stashRun (i : Instr) (o : Ops) (s : State) (keepValid : Nat) (unmap : Bool) : Host.Outcome State Fault Refusal :=
  s.scalar i o (fun s1 =>
    let n := o.d.toNat
    match FMap.find s1.g.windows n with
    | none => go (s1.retire i o)
    | some w =>
      if !(s1.fits (s1.windowNeeds s1.g w)) then go (s1.stall (.entries (s1.windowNeeds s1.g w)))
      else
        let (s2, out) := s1.fresh
        let (s3, out2) := s2.fresh
        let (s4, k, k2) := s3.maintain n { w with scope := memScope o.ext } keepValid out out2
        let s5 := if unmap then s4.modG (fun g => { g with windows := FMap.erase g.windows n })
          else s4.modG (fun g => { g with windows := g.windows.map (fun (q : Nat × Window) => if q.1 = n then (n, { q.2 with scope := w.scope }) else q) })
        s5.finishAcks i o out out2 k k2 none)

/-- STASH.UNMAP. -/
def execStashUnmap (o : Ops) (s : State) : Host.Outcome State Fault Refusal := stashRun (.stashUnmap o) o s 0 true

/-- STASH.FLUSH. -/
def execStashFlush (o : Ops) (s : State) : Host.Outcome State Fault Refusal := stashRun (.stashFlush o) o s 1 false

/-- STASH.CLEAN. -/
def execStashClean (o : Ops) (s : State) : Host.Outcome State Fault Refusal := stashRun (.stashClean o) o s 0 false

/-- STASH.INV: dirty sectors are discarded; an own window's line loses its dirty bytes (R164). -/
def execStashInv (o : Ops) (s : State) : Host.Outcome State Fault Refusal :=
  let i : Instr := .stashInv o
  s.scalar i o (fun s1 =>
    let n := o.d.toNat
    match FMap.find s1.g.windows n with
    | none => go (s1.retire i o)
    | some w =>
      let s2 := w.valid.foldl (fun (s : State) (sec : Nat) =>
        match s.sectorKey s.g w .read sec with
        | .error _ => s
        | .ok (key, a) =>
          let grain := key - key % a.grain
          let here := fun (b : Nat) => decide (key ≤ b) && decide (b < key + 32)
          (s.mapLine (stashOf s.g.core) grain (fun l => { l with
            dirty := l.dirty.filter (fun b => !(here b)), cells := l.cells.filter (fun c => !(here c.1)) }))) s1
      let s3 := s2.modG (fun g => { g with windows := FMap.insert g.windows n { w with valid := [], dirty := [], failed := [] } })
      go ((s3.voidWindow s3.g.serial n).retire i o))

end Sys2Proof.Machine
end

