-- ==== Sys2Proof/Machine/Sync.lean ====
section
/-! DEFINITION. Waiting on a word, fences, named barriers and stage rings (R165 to R177, R230, R231). -/

namespace Sys2Proof.Machine

/-- The `taddr` of an operand check that fails at execution (R305): the instruction's two words. -/
def operandAddr (i : Instr) : DWord :=
  match i.opcode with
  | some (op, o) => pairOf (Ops.toWord op o) (if i.extended then o.ext else 0#32)
  | none => 0#64

/-! ## WAITA (R165 to R167) -/

/-- A WAITA condition (R165). -/
def waitaCond (f : BitVec 4) (x c : Word) : Bool :=
  match f.toNat with
  | 0 => x != c
  | 1 => x == c
  | 2 => c.ule x
  | _ => c.sle x

/-- The key under which a warp waits for a word. -/
def waitKey (t : Target) : Nat := match t with | .pad off => 2 ^ 70 + off | .memory key _ => key | .reduce _ _ _ => 0

/-- The access of a WAITA (R145, R165). -/
def waitaKind : AccessKind := { acc := .read, width := 4, line := false, atomic := false, f32Atomic := false, align := true }

/-- A WAITA may complete with its condition false because the purse is exhausted (R166): its warp has not yet been sent to the
resting point (R294). -/
def State.endsEarly (s : State) : Bool := s.g.latch && !s.w.rested

/-- The read of a WAITA at its word's home (R166): a request of its warp, with the number of the wait. -/
def State.waitaRead (s : State) (addr : DWord) (key : Nat) (a : Attr) (scope num : Nat) (woken : Bool) : State :=
  let (s1, id) := s.fresh
  s1.send (s1.warpReq id .wtr key 4 a 13 scope false false true addr (.waita s1.warpId num woken))

/-- A WAITA that waits completes: its destination is written, it acts as an acquire at its scope, and the warp is told (R166). -/
def State.completeWord (s : State) (scope : Nat) (dest : BitVec 6) (x : Word) : State :=
  (s.acquire scope).modW (fun w => (w.writeDest dest w.activeLanes (fun _ => x)).release1)

/-- The word a WAITA waits for has been read: the WAITA completes when its condition holds, when the purse is exhausted or, after a
wake or a restore, as the machine may (R166); else the warp stays parked. -/
def State.wordRead (s : State) (cond : BitVec 4) (cmp : Word) (scope : Nat) (dest : BitVec 6) (x : Word) (woken : Bool) : State :=
  let (s1, n) := if woken then s.draw else (s, 0)
  if waitaCond cond x cmp || s1.endsEarly || (woken && Config.waitaEarly n) then s1.completeWord scope dest x else s1

/-- The read of a WAITA's word in the scratchpad, at its port (R166). -/
def State.padWord (s : State) (off : Nat) : Word := BitVec.ofNat 32 (leNat (s.g.padRead off 4))

/-- WAITA at its address, checked: the warp parks on the word and reads it. The word is read after the warp's earlier loads have
returned. -/
def waitaTry (o : Ops) (addr : DWord) (t : Target) (s : State) : Host.Outcome State Fault Refusal :=
  let i : Instr := .waita o
  let scope := memScope o.ext
  let cmp := s.w.usrc 0#32 o.b
  let acc : Acc := { lns := s.w.activeLanes, addr := addr, tgt := t, parts := [], bytes := [] }
  if s.w.awaits (fun x => x.cls == 0) then go (s.stall .loads)
  else
    match t with
    | .pad off =>
      s.withFills [acc] (fun s1 bad =>
        match bad with
        | (_, c) :: _ => go (s1.passAndRaise i c s1.w.activeLanes addr true)
        | [] =>
          let x := s1.padWord off
          if waitaCond o.f x cmp || s1.endsEarly then
            go (((s1.acquire scope).modW (fun w => (w.lastUse i o).writeDest o.d w.activeLanes (fun _ => x))).retire i o)
          else go (s1.stall (.word addr (waitKey t) o.f cmp scope o.d 0)))
    | .memory key a =>
      if !(s.fits 1) then go (s.stall (.entries 1))
      else
        let (s1, num) := s.fresh
        go ((s1.waitaRead addr key a scope num false).stall (.word addr key o.f cmp scope o.d num))
    | .reduce _ _ _ => go (s.raise .protection s.w.activeLanes addr)

/-- WAITA. -/
def execWaita (o : Ops) (s : State) : Host.Outcome State Fault Refusal :=
  let i : Instr := .waita o
  let act := s.w.activeLanes
  let s1 := s.charge 1 (if act = 0#32 then 0 else 4)
  if act = 0#32 then go (s1.retire i o)
  else if s1.told then go ((s1.modW (fun w => w.lastUse i o)).retire i o)
  else
    let addr := s1.w.keptAddr 0 (s1.w.upair o.a + BitVec.ofInt 64 (memOfs o.ext))
    match s1.resolve waitaKind addr with
    | .error (_, c) => go (s1.raise c act addr (if c = .translation then [(0, addr)] else []))
    | .ok t => waitaTry o addr t s1

/-- A warp parked in WAITA reads its word again (R166, R167). A word that can no longer be reached, or that the warp cannot read now,
sends the warp back to its WAITA. -/
def wakeRead (s : State) (id : WarpId) : State :=
  let s0 := s.focusWarp id
  if !(s0.isWarp id) || s0.g.place != .running then s0
  else
    match s0.w.wait with
    | .word addr _ cond cmp scope dest num =>
      match s0.resolve waitaKind addr with
      | .ok (.memory key a) =>
        if s0.fits 1 then s0.waitaRead addr key a scope num true else s0.modW Warp.unpark
      | .ok (.pad off) =>
        (match s0.fillAt off with
         | .ok s1 => (s1.usePads [off]).wordRead cond cmp scope dest (s1.padWord off) true
         | _ => s0.modW Warp.unpark)
      | _ => s0.modW Warp.unpark
    | _ => s0

/-- The reply of a WAITA's read, if its warp still waits for it: the word is looked at, or the failure is taken as one that a reply
reports (R149). -/
def State.wordReply (s : State) (id : WarpId) (num : Nat) (woken : Bool) (x : Except Cause Word) : State :=
  let s0 := s.focusWarp id
  if !(s0.isWarp id) || s0.g.place != .running then s0
  else
    match s0.w.wait with
    | .word addr _ cond cmp scope dest n =>
      if n ≠ num then s0
      else
        match x with
        | .ok v => s0.wordRead cond cmp scope dest v woken
        | .error c => (s0.modW Warp.unpark).passLen 8 c s0.w.activeLanes addr true
    | _ => s0

/-- WAITA_WAKE: a write was performed in the word's sector. -/
def execWaitaWake (w : WarpId) (s : State) : Host.Outcome State Fault Refusal := go (wakeRead s w)

/-- WAITA_PERIODIC_WAKE: at least once every 4,096 arithmetic clocks. -/
def execWaitaPeriodicWake (w : WarpId) (s : State) : Host.Outcome State Fault Refusal := go (wakeRead s w)

/-! ## Fences (R168 to R170, R230) -/

/-- The wider of the release a warp already holds and a new one. -/
def Warp.hold (w : Warp) (scope : Nat) : Warp :=
  { w with held := some (match w.held with | some h => max h scope | none => scope) }

/-- FENCE (R168, R230). -/
def execFence (o : Ops) (s : State) : Host.Outcome State Fault Refusal :=
  let i : Instr := .fence o
  let scope := o.f.toNat
  s.scalar i o (fun s1 =>
    let loads := s1.w.awaits (fun x => x.cls == 0)
    match o.d.toNat with
    | 0 => if loads then go (s1.stall .loads) else go ((s1.acquire scope).retire i o)
    | 1 => go ((s1.modW (fun w => w.hold scope)).retire i o)
    | 2 =>
      if loads then go (s1.stall .loads) else go (((s1.acquire scope).modW (fun w => w.hold scope)).retire i o)
    | _ =>
      if loads then go (s1.stall .loads)
      else if !(s1.heldDone s1.w scope) then go (s1.stall (.release scope))
      else
        match s1.released scope with
        | .free s2 => go ((s2.acquire scope).retire i o)
        | .waits w => go (s1.stall w)
        | .fails _ => go (s.releaseFails scope))

/-- PFENCE: waits until the warp's earlier stores are performed in L1 (R169). -/
def execPfence (o : Ops) (s : State) : Host.Outcome State Fault Refusal :=
  let i : Instr := .pfence o
  s.scalar i o (fun s1 =>
    if s1.ownUnderWay s1.warpId then go (s1.stall .stores) else go (s1.retire i o))

/-- The commands of a workgroup in the queues of a QFENCE mask (R61). -/
def State.queued (s : State) (serial mask : Nat) : List Nat :=
  match s.findWg serial with
  | none => []
  | some g =>
    (if mask.testBit 4 then g.mx.map (fun e => e.id) else [])
    ++ (g.porter.filter (fun c => mask.testBit c.queue)).map (fun c => c.id)
    ++ (if mask.testBit 5 then
          s.courier.ctxs.filterMap (fun (_, c) => if c.st = 1 && c.wg = serial then some c.id else none)
        else [])

/-- QFENCE: joins the commands placed before it (R170); an acquire at workgroup scope. -/
def execQfence (o : Ops) (s : State) : Host.Outcome State Fault Refusal :=
  let i : Instr := .qfence o
  let first := !s.charged
  s.scalar i o (fun s1 =>
    let ids := if first then s1.queued s1.g.serial o.ext.toNat else s1.awaitIds
    let left := ids.filter (fun n => (s1.commandIds s1.g.serial).contains n)
    if !left.isEmpty then go ((s1.stall (.commands left)).setAwaits left)
    else if s1.w.awaits (fun x => x.cls == 0) then go ((s1.stall .loads).setAwaits [])
    else go ((s1.acquire 1).retire i o))

/-! ## Named barriers (R171 to R173) -/

/-- An arrival at a barrier (R172): a release of the warp's earlier accesses, then the count; `sync` waits for the phase. -/
def barRun (i : Instr) (o : Ops) (s : State) (sync path : Bool) : Host.Outcome State Fault Refusal :=
  s.scalar i o (fun s1 =>
    if s1.told then go ((s1.acquire 1).retire i o)
    else if !(s1.heldDone s1.w 1) then go (s1.stall (.held 1))
    else
      let n := o.d.toNat
      let cnt := (s1.w.usrc o.ext o.a).toNat
      let act := s1.w.activeLanes
      if cnt = 0 ∨ s1.g.size < cnt then go (s1.raise .illegalOperand act (operandAddr i))
      else
        let b := FMap.get s1.g.bars Barrier.idle n
        match b.arrive cnt act.count with
        | .conflict =>
          go (s1.raise .barrierConflict act (BitVec.ofNat 64 (b.count * 2 ^ 21 + cnt * 2 ^ 10 + n)))
        | .counted b' =>
          let s2 := s1.modG (fun g => { g with bars := FMap.put g.bars Barrier.idle n b' })
          if sync then go (s2.stall (.barrier n b.phase path)) else go (s2.retire i o)
        | .complete b' =>
          let s2 := (s1.modG (fun g => { g with bars := FMap.put g.bars Barrier.idle n b' })).freeBarrier s1.g.serial n b.phase
          go ((if sync then s2.acquire 1 else s2).retire i o))

/-- BAR.ARRIVE. -/
def execBarArrive (o : Ops) (s : State) : Host.Outcome State Fault Refusal := barRun (.barArrive o) o s false false

/-- BAR.SYNC. -/
def execBarSync (o : Ops) (s : State) : Host.Outcome State Fault Refusal := barRun (.barSync o) o s true false

/-- BAR.SYNC.PATH: it also joins the generic path to the engines' read paths, which hold no command's read back while the
stores it covers are on their way (R233). -/
def execBarSyncPath (o : Ops) (s : State) : Host.Outcome State Fault Refusal := barRun (.barSyncPath o) o s true true

/-! ## Stage rings (R174 to R177) -/

/-- The ring and slot of a RINGW or RINGA. -/
def ringOf (d : BitVec 6) : Nat := d.toNat / 8
def slotOf (d : BitVec 6) : Nat := d.toNat % 8

/-- RINGW plain: a release at workgroup scope, then the phase (R176). -/
def execRingw (o : Ops) (s : State) : Host.Outcome State Fault Refusal :=
  let i : Instr := .ringw o
  s.scalar i o (fun s1 =>
    if !(s1.heldDone s1.w 1) then go (s1.stall (.held 1))
    else
      match s1.g.slotFull (ringOf o.d) (slotOf o.d) with
      | none => go (s1.raise .illegalOperand s1.w.activeLanes (operandAddr i))
      | some _ => go (((s1.joinHeld (o.f == 1#4)).setSlot s1.g.serial (ringOf o.d) (slotOf o.d) (o.f == 1#4)).retire i o))

/-- RINGW configure (R174, R175): a release at workgroup scope, as every RINGW is (R176). -/
def execRingwCfg (o : Ops) (s : State) : Host.Outcome State Fault Refusal :=
  let i : Instr := .ringwCfg o
  s.scalar i o (fun s1 =>
    let r := ringOf o.d
    let n := slotOf o.d + 1
    let v := (s1.w.usrc o.ext o.a).toNat
    let base := v / 2 ^ 16
    let stride := v % 2 ^ 16
    if stride = 0 then go (s1.raise .illegalOperand s1.w.activeLanes (operandAddr i))
    else if s1.g.padUnits * 128 < base + n * stride then
      go (s1.raise .protection s1.w.activeLanes (BitVec.ofNat 64 (apertureBase + base * 32)))
    else if s1.g.namesRing r then go (s1.stall (.ringFree r))
    else if !(s1.heldDone s1.w 1) then go (s1.stall (.held 1))
    else
      let ph : BitVec 8 := if o.f = 1#4 then 0xFF#8 else 0#8
      let s2 := s1.modG (fun g => { g with rings := FMap.insert g.rings r { n := n, base := base, stride := stride, phase := ph } })
      let s3 := (List.range n).foldl (fun s j => s.setSlot s.g.serial r j (o.f == 1#4)) s2
      go (s3.retire i o))

/-- RINGA: completes when the slot's phase matches (R177). `F` 1 waits for empty. -/
def execRinga (o : Ops) (s : State) : Host.Outcome State Fault Refusal :=
  let i : Instr := .ringa o
  s.scalar i o (fun s1 =>
    if s1.w.awaits (fun x => x.cls == 0) then go (s1.stall .loads)
    else if s1.told then go ((s1.acquire 1).retire i o)
    else
      let full := o.f == 0#4
      match s1.g.slotFull (ringOf o.d) (slotOf o.d) with
      | none => go (s1.raise .illegalOperand s1.w.activeLanes (operandAddr i))
      | some ph =>
        if ph = full then go ((s1.acquire 1).retire i o)
        else go (s1.stall (.ring (ringOf o.d) (slotOf o.d) full false)))

/-- RINGA_COMPLETE: the slot's phase was set, or stands as the warp waits for it (R177). -/
def execRingaComplete (w : WarpId) (s : State) : Host.Outcome State Fault Refusal :=
  let s0 := s.focusWarp w
  if !(s0.isWarp w) then go s0
  else
    match s0.w.wait with
    | .ring r slot full met =>
      if met || s0.g.slotFull r slot == some full then go (s0.modW Warp.release1) else go s0
    | _ => go s0

end Sys2Proof.Machine
end

