-- ==== Sys2Proof/Machine/Control.lean ====
section
/-! DEFINITION. Clause issue and the CTL class but for LAUNCH: branches, splits, calls, landing pads, EXIT, YIELD, macros,
WAITKIDS, fences on arithmetic and code, traps on request (R110 to R127, R133 to R137, R181, R294). -/

namespace Sys2Proof.Machine

/-! ## Selecting a clause -/

/-- The bytes per row or column and step of an MMA operand (R183). -/
def operandRow (fmt planes : Nat) : Nat := if fmt = 2 then 8 * planes else 64

/-- The static charge of one instruction of class MX: units and bytes (R180, R181). -/
def mxCharge (i : Instr) : Nat × Nat :=
  match i with
  | .mmaBf16 o | .mmaF16 o =>
    let x := o.ext.toNat
    let n := bitsNat x 24 21 + 1
    (1 + n, ((if bitNat x 6 then 4096 else 0) + (if bitNat x 7 then 4096 else 0)) * n)
  | .mmaNi o =>
    let x := o.ext.toNat
    let n := bitsNat x 24 21 + 1
    (1 + n, ((if bitNat x 6 then 512 * (bitsNat x 27 25 + 2) else 0) + (if bitNat x 7 then 512 * (bitsNat x 30 28 + 2) else 0)) * n)
  | .accld o => (1, if o.f = 0#4 then 16384 else 8192)
  | .accst o =>
    (1, match o.f.toNat with | 0 => 16384 | 1 => 8192 | 2 => 32768 | 3 => 16384 | _ => 4160)
  | _ => (1, 0)

/-- The static charge of a clause's instructions, from an offset (R181); what cannot be fetched or decoded counts one unit. -/
def State.clauseCharge (s : State) : Nat → Word → Nat × Nat
  | 0, _ => (0, 0)
  | n + 1, off =>
    match s.fetchWord off with
    | .error _ => let (u, b) := s.clauseCharge n (off + 4#32); (u + 1, b)
    | .ok w =>
      match decodeWord w with
      | none => let (u, b) := s.clauseCharge n (off + 4#32); (u + 1, b)
      | some i0 =>
        let ext := if i0.extended then (match s.fetchWord (off + 4#32) with | .ok x => x | .error _ => 0#32) else 0#32
        let (u1, b1) := match decodePair w ext with | some i => mxCharge i | none => (1, 0)
        let (u, b) := s.clauseCharge n (off + BitVec.ofNat 32 i0.lenBytes)
        (u + u1, b + b1)

/-- RESTING_POINT_ENTRY (R294): each live lane gets v47 := `lpc` and `lpc` := `rest`; the first warp loads the grace counters. -/
def State.enterResting (s : State) : State :=
  let w := s.w
  let w1 := w.live.toList.foldl (fun (x : Warp) i =>
    (x.writeKey (vkey 47 i) (w.lpcOf i))) w
  let w2 := { w1 with lpc := w.live.toList.foldl (fun m i => FMap.put m lpcExited i (lpcWritten s.g.rest)) w.lpc, rested := true }
  let g1 := if s.g.resting then s.g else { s.g with
    resting := true, graceUnits := s.g.grace.toNat % 2 ^ 32, graceBytes := s.g.grace.toNat / 2 ^ 32 }
  let s1 : State := { s with w := w2, g := { g1 with latchTaken := true } }
  if !s.g.resting && (g1.graceUnits == 0 || g1.graceBytes == 0) then s1.beginForced else s1

/-- What a warp does at a clause boundary before it selects a clause; none when it selects one (R294, R296, R317). -/
def State.boundaryStop (s : State) : Option State :=
  if (match s.findGrid s.g.grid with | some g => g.aborted | none => false) then some s.stopAborted
  else if s.g.forced then some (s.modW (fun w => { w with stopped := true, active := false }))
  else if s.g.resting && s.noFunds s.g then some (s.beginForced.modW (fun w => { w with stopped := true, active := false }))
  else if s.w.frame.isSome || s.w.rested then none
  else
    let s1 := if !s.g.latch && !s.g.resting && s.noFunds s.g then s.exhaust else s
    if s1.g.forced then some (s1.modW (fun w => { w with stopped := true, active := false }))
    else if s1.g.latch then some s1.enterResting
    else none

/-- Empties the loop buffer when the issue address leaves its span (R135). -/
def Warp.leaveSpan (w : Warp) (p : Word) : Warp :=
  if decide (w.loopLo ≤ p.toNat) && decide (p.toNat < w.loopHi) then w else { w with loopLo := 0, loopHi := 0, loopWords := [] }

/-- CLAUSE_ISSUE (R12, R30, R31, R181). -/
def execClauseIssue (h : Header) (s0 : State) : Host.Outcome State Fault Refusal :=
  let s := s0.unreserve
  match s.boundaryStop with
  | some s1 => go s1
  | none =>
    match s.w.issueOffset with
    | none => go s
    | some p =>
      let s1 := s.modW (fun w => w.leaveSpan p)
      let opened := s1.w.openClause p h
      if !h.ok then
        let s2 : State := { s1 with w := opened }
        go (s2.raiseRec (s2.w.trapRec .illegalClause s2.w.exec (pairOf h.toWord 0#32) false))
      else
        let (u, b) := if h.eng = 2#3 then s1.clauseCharge h.n.toNat (p + 4#32) else (0, 0)
        if !(s1.g.covers u b) then go (if s1.g.resting then s1.beginForced else s1.exhaust)
        else
          let pick := fun (o : Out) => h.wait.getLsbD o.cls
          if s1.w.awaits pick then go (s1.modW (fun w => w.park (.classes h.wait)))
          else
            let (w, fails) := opened.commit pick
            let s2 : State := { s1 with w := w }
            if fails.isEmpty then go (if u = 0 ∧ b = 0 then s2 else s2.reserve u b) else go (s2.raiseFails fails)

/-! ## Branches (R113, R114, R135) -/

/-- The condition of a branch in a lane (R45). -/
def Warp.branchCond (w : Warp) (a : BitVec 6) (i : Nat) : Bool := (w.pred (a.toNat % 8) i) ^^ (a.getLsbD 5)

/-- This clause's header offset. -/
def State.clauseBase (s : State) : Word := match s.w.cl with | some c => c.base | none => 0#32

/-- The offset of the header after an instruction that ends its clause. -/
def State.nextHeader (s : State) (i : Instr) : Word :=
  match s.w.cl with
  | some c => lpcWritten (c.base + BitVec.ofNat 32 (c.off + i.lenBytes))
  | none => 0#32

/-- Sends lanes to a target (R111, R114); a backward branch whose span is at most 512 bytes fills the loop buffer when its transfer takes
effect (R135). -/
def State.branchTo (s : State) (i : Instr) (taken : LaneMask) (tgt : Word) : State :=
  let lo := tgt.toNat
  let hi := (s.nextHeader i).toNat
  let fill := if lo ≤ s.clauseBase.toNat ∧ hi - lo ≤ 512 then some (lo, hi) else none
  if taken = 0#32 then s
  else s.modW (fun w => ({ w with cl := w.cl.map (fun c => { c with fill := fill }) } : Warp).retarget taken (fun _ => tgt))

/-- BRA.LANE. -/
def execBraLane (o : Ops) (s : State) : Host.Outcome State Fault Refusal :=
  let i : Instr := .braLane o
  let s1 := s.charge 1 0
  let act := s1.w.activeLanes
  let taken := maskOf (fun l => act.getLsbD l && s1.w.branchCond o.a l)
  go ((s1.branchTo i taken (s1.clauseBase + o.ext)).retire i o)

/-- BRA.LEAD. -/
def execBraLead (o : Ops) (s : State) : Host.Outcome State Fault Refusal :=
  let i : Instr := .braLead o
  let s1 := s.charge 1 0
  let act := s1.w.activeLanes
  let taken := match act.lowest with
    | some j => if s1.w.branchCond o.a j then act else 0#32
    | none => 0#32
  go ((s1.branchTo i taken (s1.clauseBase + o.ext)).retire i o)

/-! ## Splitting a warp (R112, R115) -/

/-- The mask of a live set from the kernel's table; 0 without a table (R54, R112, R115). The 32-bit offset of the table is
signed (DESIGN CHOICE, log 20: R112 does not say). -/
def State.liveSet (s : State) (n : Nat) : Except (Cause × DWord) Nat :=
  let at_ := s.g.code - 8#64
  match s.fetchVa at_ with
  | .error c => .error (c, at_)
  | .ok off =>
    if off = 0#32 then .ok 0
    else
      let e := s.g.code + off.signExtend 64 + BitVec.ofNat 64 (8 * n)
      match s.fetchVa e, s.fetchVa (e + 4#64) with
      | .ok lo, .ok hi => .ok (lo.toNat + 2 ^ 32 * hi.toNat)
      | .error c, _ => .error (c, e)
      | _, .error c => .error (c, e + 4#64)

/-- BRA.SPLIT: the minority set leaves at the clause boundary, where its records are written (R115); a split waits for the warp's loads and
for its stores to be visible in L1, which the leaving threads must see (R225). -/
def execBraSplit (o : Ops) (s : State) : Host.Outcome State Fault Refusal :=
  let i : Instr := .braSplit o
  let s1 := s.charge 1 0
  let tgt := s1.clauseBase + o.ext
  let t := maskOf (fun l => s1.w.activeLanes.getLsbD l && s1.w.branchCond o.a l)
  let f := s1.w.exec &&& ~~~t
  if t = 0#32 || f = 0#32 then go ((s1.branchTo i t tgt).retire i o)
  else
    match s1.liveSet o.d.toNat with
    | .error (c, a) => go (s1.raise c s1.w.exec a)
    | .ok mask =>
      if bitNat mask 48 || decide (2 ^ 56 ≤ mask) then go (s1.raise .illegalOperand s1.w.activeLanes (operandAddr i))
      else if s1.w.awaits (fun x => x.hasDest) then go (s1.stall (.classes 0x31#6))
      else if !(s1.heldDone s1.w 1) then go (s1.stall (.held 1))
      else
        let takenLeave := decide (t.count ≤ f.count)
        let leave := if takenLeave then t else f
        let stay := if takenLeave then 0#32 else t
        let target := if takenLeave then lpcWritten tgt else s1.nextHeader i
        let s2 := s1.branchTo i stay tgt
        let s3 := s2.modW (fun w => { w with cl := w.cl.map (fun c =>
          { c with
            leaving := leave, split := some (target, mask)
            targets := leave.toList.foldl (fun m l => FMap.insert m l lpcLeft) c.targets }) })
        go (s3.retire i o)

/-! ## Calls, indirect jumps and landing pads (R119 to R121) -/

/-- Whether a target holds a landing pad with a tag; a fetch that faults is reported (R120). -/
def State.landingPad (s : State) (t : Word) (tag : Nat) : Except Cause Bool :=
  match s.fetchWord t with
  | .error c => .error c
  | .ok hw =>
    match decodeHeader hw with
    | none => .ok false
    | some h =>
      if !h.ok then .ok false
      else
        match s.fetchWord (t + 4#32), s.fetchWord (t + 8#32) with
        | .ok w, .ok x =>
          match decodePair w x with
          | some (.lpad o) => .ok (o.ext.toNat == tag)
          | _ => .ok false
        | .ok w, .error c => if (match decodeWord w with | some (.lpad _) => true | _ => false) then .error c else .ok false
        | .error c, _ => .error c

/-- The checks of JMPX, CALLX and RET: the lanes that fail, or the fault of the lowest lane whose target cannot be read, with every lane
whose target fails so (R120, R145; DESIGN CHOICE, log 50). -/
def State.padCheck (s : State) (act : LaneMask) (f : Nat → Word) (tag : Nat) : Except (Cause × LaneMask × DWord) LaneMask :=
  let res := act.toList.map (fun l =>
    let t := f l
    if !(isOffset t) || (t &&& 0xFFFFFFFC#32) == s.clauseBase then (l, Except.ok true)
    else (l, s.landingPad (t &&& 0xFFFFFFFC#32) tag))
  match res.find? (fun r => match r.2 with | .error _ => true | .ok _ => false) with
  | some (l, .error c) =>
    let same := fun (i : Nat) => res.any (fun r => r.1 == i && (match r.2 with | .error e => e == c | .ok _ => false))
    .error (c, maskOf same, s.g.code + (f l &&& 0xFFFFFFFC#32).setWidth 64)
  | _ => .ok (maskOf (fun l => res.any (fun r => r.1 == l && (match r.2 with | .ok b => !b | .error _ => false))))

/-- JMPX, CALLX and RET: the landing-pad check, then the link, then the jump. -/
def jumpRun (i : Instr) (o : Ops) (s : State) (tag : Nat) (link : Bool) : Host.Outcome State Fault Refusal :=
  let s1 := s.charge 1 0
  let act := s1.w.activeLanes
  let w0 := s1.w
  let tgt := fun (l : Nat) => w0.src 0#32 o.a l
  match s1.padCheck act tgt tag with
  | .error (c, lns, a) => go (s1.raise c lns a)
  | .ok bad =>
    if bad ≠ 0#32 then
      go (s1.raise .landingPad bad (pairOf (match bad.lowest with | some l => tgt l | none => 0#32) 0#32))
    else
      let ret := s1.nextHeader i
      let w1 := w0.lastUse i o
      let w2 := if link then w1.writeDest o.d act (fun _ => ret) else w1
      go (({ s1 with w := w2.retarget act tgt }).retire i o)

/-- JMPX. -/
def execJmpx (o : Ops) (s : State) : Host.Outcome State Fault Refusal := jumpRun (.jmpx o) o s (o.ext.toNat % 4096) false

/-- CALLX. -/
def execCallx (o : Ops) (s : State) : Host.Outcome State Fault Refusal := jumpRun (.callx o) o s (o.ext.toNat % 4096) true

/-- RET. -/
def execRet (o : Ops) (s : State) : Host.Outcome State Fault Refusal := jumpRun (.ret o) o s 0 false

/-- CALL. -/
def execCall (o : Ops) (s : State) : Host.Outcome State Fault Refusal :=
  let i : Instr := .call o
  let s1 := s.charge 1 0
  let act := s1.w.activeLanes
  let ret := s1.nextHeader i
  let tgt := s1.clauseBase + o.ext
  go ((s1.modW (fun w => (w.writeDest o.d act (fun _ => ret)).retarget act (fun _ => tgt))).retire i o)

/-- LPAD: no effect but its charge. -/
def execLpad (o : Ops) (s : State) : Host.Outcome State Fault Refusal := go ((s.charge 1 0).retire (.lpad o) o)

/-! ## Ending and yielding (R122, R123, R149) -/

/-- EXIT: one that leaves no live lane first awaits the warp's stores and takes their failures. -/
def execExit (o : Ops) (s : State) : Host.Outcome State Fault Refusal :=
  let i : Instr := .exit o
  let s1 := s.charge 1 0
  let act := s1.w.activeLanes
  let leave := fun (s : State) => go ((s.modW (fun w => w.retarget act (fun _ => lpcExited))).retire i o)
  if act = 0#32 || act != s1.w.live then leave s1
  else if s1.w.awaits (fun x => x.cls == 1) then go (s1.stall (.classes 2#6))
  else
    let (w, fails) := s1.w.commit (fun x => x.cls == 1)
    if fails.isEmpty then leave { s1 with w := w } else go (s.takeFails (fun x => x.cls == 1))

/-- YIELD: each active lane rests at the next clause header. -/
def execYieldOp (o : Ops) (s : State) : Host.Outcome State Fault Refusal :=
  let i : Instr := .yieldOp o
  let s1 := s.charge 1 0
  let act := s1.w.activeLanes
  go ((s1.modW (fun w => { w with cl := w.cl.map (fun c => { c with yields := c.yields ||| act }) })).retire i o)

/-- NOP. -/
def execNop (o : Ops) (s : State) : Host.Outcome State Fault Refusal := go ((s.charge 1 0).retire (.nop o) o)

/-! ## Macros (R125) -/

/-- MACRO: its operations follow, one a turn. -/
def execMacroRun (o : Ops) (s : State) : Host.Outcome State Fault Refusal :=
  let i : Instr := .macroRun o
  s.scalar i o (fun s1 =>
    let n := o.ext.toNat % 64
    match FMap.find s1.g.macros n with
    | none => go (s1.raise .macroTrap s1.w.activeLanes (BitVec.ofNat 64 n))
    | some ops =>
      let m : MacroRun := { index := n, ops := ops, imm := BitVec.ofNat 32 (bitsNat o.ext.toNat 15 8), d := o.d, a := o.a,
                            b := o.b, la := o.la, lb := o.lb, s := o.s, retake := false, j := 0, firstOut := s1.nextId, saved := [] }
      go (s1.modW (fun w => { w with mac := some m, cl := w.cl.map (fun c => { c with charged := false }) })))

/-! ## Children (R133) -/

/-- Whether a child of the workgroup whose turn it is has not started. -/
def State.kidUnstarted (s : State) : Bool :=
  s.g.kids.any (fun k => match s.findGrid k with | some g => decide (g.nextWg = 0) | none => false)

/-- WAITKIDS: a switch marker as well; the workgroup yields while a child is unstarted. In a macro it is NOP (R126). -/
def execWaitkids (o : Ops) (s : State) : Host.Outcome State Fault Refusal :=
  let i : Instr := .waitkids o
  if s.w.mac.isSome then go ((s.charge 1 0).retire i o)
  else
    s.scalar i o (fun s1 =>
      if s1.g.kids.isEmpty then go (s1.retire i { o with s := true })
      else
        let s2 := s1.stall .kids
        if s2.kidUnstarted && !s2.g.forced then go (s2.modG (fun g => { g with forced := true, saveCause := .kids })) else go s2)

/-! ## Fences on arithmetic and on code (R134 to R136) -/

/-- TFENCE. -/
def execTfence (o : Ops) (s : State) : Host.Outcome State Fault Refusal :=
  let i : Instr := .tfence o
  s.scalar i o (fun s1 =>
    if s1.w.awaits (fun x => x.cls == 4) then go (s1.stall .arith)
    else
      let hit := s1.w.aflags &&& s1.w.amask
      if hit ≠ 0#32 then go (s1.passAndRaise i .arith s1.w.activeLanes (pairOf hit 0#32) false)
      else go (s1.retire i o))

/-- ISYNC. -/
def execIsync (o : Ops) (s : State) : Host.Outcome State Fault Refusal :=
  let i : Instr := .isync o
  s.scalar i o (fun s1 =>
    if s1.w.awaits (fun x => x.cls == 1) then go (s1.stall (.classes 2#6))
    else
      let (w, fails) := s1.w.commit (fun x => x.cls == 1)
      let s2 : State := { s1 with w := { w with loopLo := 0, loopHi := 0, loopWords := [] } }
      if fails.isEmpty then go (s2.retire i o) else go (s.takeFails (fun x => x.cls == 1)))

/-! ## Traps on request (R137) -/

/-- TRAP. -/
def execTrap (o : Ops) (s : State) : Host.Outcome State Fault Refusal :=
  let i : Instr := .trap o
  s.scalar i o (fun s1 => go (s1.passAndRaise i .software s1.w.activeLanes (pairOf (s1.w.usrc o.ext o.a) 0#32) false))

/-- BKPT. -/
def execBkpt (o : Ops) (s : State) : Host.Outcome State Fault Refusal :=
  let i : Instr := .bkpt o
  s.scalar i o (fun s1 => go (s1.passAndRaise i .breakpoint s1.w.activeLanes 0#64 false))

end Sys2Proof.Machine
end

