-- ==== Sys2Proof/Machine/Integer.lean ====
section
/-! DEFINITION. The integer, logic, shift, bit-field, compare, select and move instructions (R81 to R95). -/

namespace Sys2Proof.Machine

/-! ## Shared shapes -/

/-- An ALU instruction (R81, R83): one unit is charged, sources are read in the warp before it, last-use registers are
released, the body writes what the active lanes compute, and the warp passes it. -/
def aluRun (i : Instr) (o : Ops) (s : State) (body : Warp → Warp → LaneMask → Warp) : Host.Outcome State Fault Refusal :=
  let s1 := s.charge 1 0
  go (({ s1 with w := body s1.w (s1.w.lastUse i o) s1.w.activeLanes }).retire i o)

/-- The conditions the active lanes raise (R82). -/
def laneFlags (act : LaneMask) (f : Nat → Word) : Word := orFlags (act.toList.map f)

/-- A 32-bit result from sources a, b and the old destination c, lane by lane. -/
def alu32 (i : Instr) (o : Ops) (s : State) (f : Word → Word → Word → Flagged Word) : Host.Outcome State Fault Refusal :=
  aluRun i o s (fun w0 w1 act =>
    let r := fun l => f (w0.src o.ext o.a l) (w0.src o.ext o.b l) (w0.src o.ext o.d l)
    (w1.writeDest o.d act (fun l => (r l).val)).addFlags (laneFlags act (fun l => (r l).flags)))

/-- A 64-bit result from 64-bit sources. -/
def alu64 (i : Instr) (o : Ops) (s : State) (f : DWord → DWord → DWord) : Host.Outcome State Fault Refusal :=
  aluRun i o s (fun w0 w1 act =>
    w1.writePair o.d act (fun l => f (w0.srcPair o.ext o.a l) (w0.srcPair o.ext o.b l)))

/-- A 64-bit result from 32-bit sources and the old destination pair. -/
def aluWide (i : Instr) (o : Ops) (s : State) (f : Word → Word → DWord → DWord) : Host.Outcome State Fault Refusal :=
  aluRun i o s (fun w0 w1 act =>
    w1.writePair o.d act (fun l =>
      f (w0.src o.ext o.a l) (w0.src o.ext o.b l) (if o.d = 61#6 then 0#64 else w0.srcPair o.ext o.d l)))

/-- A result that raises nothing. -/
def plain (x : Word) : Flagged Word := { val := x, flags := 0#32 }

/-- An integer clamped to bounds, with SAT when it was (R87). -/
def saturate (lo hi x : Int) : Flagged Word :=
  let c := max lo (min hi x)
  { val := truncInt 32 c, flags := flagIf (decide (c ≠ x)) flagSAT }

def minS32 : Int := -(2 ^ 31)
def maxS32 : Int := 2 ^ 31 - 1
def maxZ32 : Int := 2 ^ 32 - 1

/-! ## Integer arithmetic (R87) -/

/-- IADD. -/
def execIadd (o : Ops) (s : State) : Host.Outcome State Fault Refusal :=
  match o.f.toNat with
  | 1 => alu64 (.iadd o) o s (fun a b => a + b)
  | 2 => alu32 (.iadd o) o s (fun a b _ => saturate minS32 maxS32 (a.toInt + b.toInt))
  | 3 => alu32 (.iadd o) o s (fun a b _ => saturate 0 maxZ32 ((a.toNat : Int) + (b.toNat : Int)))
  | _ => alu32 (.iadd o) o s (fun a b _ => plain (a + b))

/-- ISUB. -/
def execIsub (o : Ops) (s : State) : Host.Outcome State Fault Refusal :=
  match o.f.toNat with
  | 1 => alu64 (.isub o) o s (fun a b => a - b)
  | 2 => alu32 (.isub o) o s (fun a b _ => saturate minS32 maxS32 (a.toInt - b.toInt))
  | 3 => alu32 (.isub o) o s (fun a b _ => saturate 0 maxZ32 ((a.toNat : Int) - (b.toNat : Int)))
  | _ => alu32 (.isub o) o s (fun a b _ => plain (a - b))

/-- The high word of a product of integers, rounded down. -/
def hiProduct (x : Int) : Word := truncInt 32 (x / 2 ^ 32)

/-- IMUL. -/
def execImul (o : Ops) (s : State) : Host.Outcome State Fault Refusal :=
  match o.f.toNat with
  | 1 => alu32 (.imul o) o s (fun a b _ => plain (hiProduct (a.toInt * b.toInt)))
  | 2 => alu32 (.imul o) o s (fun a b _ => plain (hiProduct ((a.toNat : Int) * (b.toNat : Int))))
  | 3 => aluWide (.imul o) o s (fun a b _ => truncInt 64 (a.toInt * b.toInt))
  | 4 => aluWide (.imul o) o s (fun a b _ => a.setWidth 64 * b.setWidth 64)
  | _ => alu32 (.imul o) o s (fun a b _ => plain (a * b))

/-- IMAC. -/
def execImac (o : Ops) (s : State) : Host.Outcome State Fault Refusal :=
  match o.f.toNat with
  | 1 => aluWide (.imac o) o s (fun a b c => truncInt 64 (a.toInt * b.toInt + c.toInt))
  | 2 => aluWide (.imac o) o s (fun a b c => a.setWidth 64 * b.setWidth 64 + c)
  | _ => alu32 (.imac o) o s (fun a b c => plain (a * b + c))

/-- IMIN. -/
def execImin (o : Ops) (s : State) : Host.Outcome State Fault Refusal :=
  match o.f.toNat with
  | 1 => alu32 (.imin o) o s (fun a b _ => plain (if a.toNat ≤ b.toNat then a else b))
  | 2 => alu64 (.imin o) o s (fun a b => if a.toInt ≤ b.toInt then a else b)
  | 3 => alu64 (.imin o) o s (fun a b => if a.toNat ≤ b.toNat then a else b)
  | _ => alu32 (.imin o) o s (fun a b _ => plain (if a.toInt ≤ b.toInt then a else b))

/-- IMAX. -/
def execImax (o : Ops) (s : State) : Host.Outcome State Fault Refusal :=
  match o.f.toNat with
  | 1 => alu32 (.imax o) o s (fun a b _ => plain (if a.toNat ≤ b.toNat then b else a))
  | 2 => alu64 (.imax o) o s (fun a b => if a.toInt ≤ b.toInt then b else a)
  | 3 => alu64 (.imax o) o s (fun a b => if a.toNat ≤ b.toNat then b else a)
  | _ => alu32 (.imax o) o s (fun a b _ => plain (if a.toInt ≤ b.toInt then b else a))

/-- IABS. -/
def execIabs (o : Ops) (s : State) : Host.Outcome State Fault Refusal :=
  if o.f = 1#4 then alu64 (.iabs o) o s (fun a _ => truncInt 64 (a.toInt.natAbs : Int))
  else alu32 (.iabs o) o s (fun a _ _ => plain (truncInt 32 (a.toInt.natAbs : Int)))

/-- INEG. -/
def execIneg (o : Ops) (s : State) : Host.Outcome State Fault Refusal :=
  if o.f = 3#4 then alu64 (.ineg o) o s (fun a _ => -a) else alu32 (.ineg o) o s (fun a _ _ => plain (-a))

/-! ## Logic and shifts (R88, R89) -/

/-- AND. -/
def execAndOp (o : Ops) (s : State) : Host.Outcome State Fault Refusal := alu32 (.andOp o) o s (fun a b _ => plain (a &&& b))
/-- OR. -/
def execOrOp (o : Ops) (s : State) : Host.Outcome State Fault Refusal := alu32 (.orOp o) o s (fun a b _ => plain (a ||| b))
/-- XOR. -/
def execXorOp (o : Ops) (s : State) : Host.Outcome State Fault Refusal := alu32 (.xorOp o) o s (fun a b _ => plain (a ^^^ b))
/-- ANDN. -/
def execAndnOp (o : Ops) (s : State) : Host.Outcome State Fault Refusal := alu32 (.andnOp o) o s (fun a b _ => plain (a &&& ~~~b))
/-- ORN. -/
def execOrnOp (o : Ops) (s : State) : Host.Outcome State Fault Refusal := alu32 (.ornOp o) o s (fun a b _ => plain (a ||| ~~~b))
/-- NOT. -/
def execNotOp (o : Ops) (s : State) : Host.Outcome State Fault Refusal := alu32 (.notOp o) o s (fun a _ _ => plain (~~~a))

/-- The shifts at a width (R89). -/
def shiftLeft {w : Nat} (a : BitVec w) (n : Nat) : BitVec w := if w ≤ n then 0#w else a <<< n
def shiftRight {w : Nat} (a : BitVec w) (n : Nat) : BitVec w := if w ≤ n then 0#w else a >>> n
def shiftArith {w : Nat} (a : BitVec w) (n : Nat) : BitVec w := if w ≤ n then (if a.msb then BitVec.allOnes w else 0#w) else a.sshiftRight n
def rotLeft {w : Nat} (a : BitVec w) (n : Nat) : BitVec w := a.rotateLeft (n % w)

/-- A shift form at 32 or 64 bits: the 64-bit forms have function codes 4 to 7; the amount is 32 bits. -/
def shiftForm (i : Instr) (o : Ops) (s : State) (f32 : Word → Nat → Word) (f64 : DWord → Nat → DWord) :
    Host.Outcome State Fault Refusal :=
  if 4 ≤ o.f.toNat then
    aluRun i o s (fun w0 w1 act =>
      w1.writePair o.d act (fun l => f64 (w0.srcPair o.ext o.a l) (w0.src o.ext o.b l).toNat))
  else alu32 i o s (fun a b _ => plain (f32 a b.toNat))

/-- SHL. -/
def execShl (o : Ops) (s : State) : Host.Outcome State Fault Refusal := shiftForm (.shl o) o s shiftLeft shiftLeft
/-- SHR. -/
def execShr (o : Ops) (s : State) : Host.Outcome State Fault Refusal := shiftForm (.shr o) o s shiftRight shiftRight
/-- SAR. -/
def execSar (o : Ops) (s : State) : Host.Outcome State Fault Refusal := shiftForm (.sar o) o s shiftArith shiftArith
/-- ROL. -/
def execRol (o : Ops) (s : State) : Host.Outcome State Fault Refusal := shiftForm (.rol o) o s rotLeft rotLeft

/-! ## Bit counts and fields (R90) -/

/-- The number of one bits among the lowest `n`. -/
def onesBelow (a : Word) : Nat → Nat
  | 0 => 0
  | n + 1 => onesBelow a n + (if a.getLsbD n then 1 else 0)

/-- Zeros from bit `n−1` down to the highest one bit below it. -/
def zerosDown (a : Word) : Nat → Nat
  | 0 => 0
  | n + 1 => if a.getLsbD n then 0 else 1 + zerosDown a n

/-- Zeros from bit `32−n` up to the lowest one bit at or above it. -/
def zerosUp (a : Word) : Nat → Nat
  | 0 => 0
  | n + 1 => if a.getLsbD (31 - n) then 0 else 1 + zerosUp a n

/-- ONES. -/
def execOnes (o : Ops) (s : State) : Host.Outcome State Fault Refusal :=
  alu32 (.ones o) o s (fun a _ _ => plain (BitVec.ofNat 32 (onesBelow a 32)))
/-- CLZ. -/
def execClz (o : Ops) (s : State) : Host.Outcome State Fault Refusal :=
  alu32 (.clz o) o s (fun a _ _ => plain (BitVec.ofNat 32 (zerosDown a 32)))
/-- CTZ. -/
def execCtz (o : Ops) (s : State) : Host.Outcome State Fault Refusal :=
  alu32 (.ctz o) o s (fun a _ _ => plain (BitVec.ofNat 32 (zerosUp a 32)))
/-- BITREV. -/
def execBitrev (o : Ops) (s : State) : Host.Outcome State Fault Refusal := alu32 (.bitrev o) o s (fun a _ _ => plain a.reverse)

/-- The position and length of a control word (R90). -/
def fieldCtl (ctl : Word) : Nat × Nat := (ctl.toNat % 256, min (ctl.toNat / 256 % 256) 32)

/-- The field BFX extracts. -/
def bfxValue (sgn : Bool) (a ctl : Word) : Word :=
  let (pos, len) := fieldCtl ctl
  let fld := if 32 ≤ pos then 0 else (a.toNat >>> pos) % 2 ^ len
  if sgn && decide (0 < len) && fld.testBit (len - 1) then truncInt 32 ((fld : Int) - (2 ^ len : Nat)) else BitVec.ofNat 32 fld

/-- The word BFI builds on the old destination. -/
def bfiValue (a ctl c : Word) : Word :=
  let (pos, len) := fieldCtl ctl
  let mask : Word := if 32 ≤ pos then 0#32 else BitVec.ofNat 32 ((2 ^ len - 1) * 2 ^ pos)
  (c &&& ~~~mask) ||| ((a <<< pos) &&& mask)

/-- BFX. -/
def execBfx (o : Ops) (s : State) : Host.Outcome State Fault Refusal :=
  alu32 (.bfx o) o s (fun a ctl _ => plain (bfxValue (o.f == 1#4) a ctl))
/-- BFI. -/
def execBfi (o : Ops) (s : State) : Host.Outcome State Fault Refusal := alu32 (.bfi o) o s (fun a ctl c => plain (bfiValue a ctl c))

/-! ## Compare, select, move (R91 to R95) -/

/-- The comparisons of ICMP (R58, R92). -/
def icmpHolds (f : Nat) (a b : Word) : Bool :=
  match f with
  | 0 => a == b
  | 1 => a != b
  | 2 => decide (a.toInt < b.toInt)
  | 3 => decide (a.toInt ≤ b.toInt)
  | 4 => decide (b.toInt < a.toInt)
  | 5 => decide (b.toInt ≤ a.toInt)
  | 6 => decide (a.toNat < b.toNat)
  | 7 => decide (a.toNat ≤ b.toNat)
  | 8 => decide (b.toNat < a.toNat)
  | _ => decide (b.toNat ≤ a.toNat)

/-- ICMP. -/
def execIcmp (o : Ops) (s : State) : Host.Outcome State Fault Refusal :=
  aluRun (.icmp o) o s (fun w0 w1 act =>
    w1.writePred o.d act (fun l => icmpHolds o.f.toNat (w0.src o.ext o.a l) (w0.src o.ext o.b l)))

/-- SEL: with a uniform destination the lowest active lane's predicate decides. -/
def execSel (o : Ops) (s : State) : Host.Outcome State Fault Refusal :=
  aluRun (.sel o) o s (fun w0 w1 act =>
    w1.writeDest o.d act (fun l =>
      if w0.pred (o.f.toNat % 8) l != o.f.getLsbD 3 then w0.src o.ext o.a l else w0.src o.ext o.b l))

/-- MOV. -/
def execMov (o : Ops) (s : State) : Host.Outcome State Fault Refusal :=
  if o.f = 1#4 then alu64 (.mov o) o s (fun a _ => a) else alu32 (.mov o) o s (fun a _ _ => plain a)

/-- The value of a special selector in a lane (R16). -/
def specialValue (s : State) (sel lane : Nat) : Word :=
  match sel with
  | 0 => BitVec.ofNat 32 (FMap.get s.w.tids 0 lane)
  | 1 => BitVec.ofNat 32 s.w.wid
  | 2 => BitVec.ofNat 32 s.g.x
  | 3 => BitVec.ofNat 32 s.g.y
  | 4 => BitVec.ofNat 32 s.g.z
  | 5 => s.g.grid
  | 6 => BitVec.ofNat 32 s.g.core
  | 7 => BitVec.ofNat 32 s.g.tile
  | 8 => BitVec.ofNat 32 Config.pkgid
  | 9 => BitVec.ofNat 32 s.g.depth
  | 10 => loWord s.clock
  | _ => s.w.clockHi.getD (hiWord s.clock)

/-- MOVS: reading `clock.lo` with an active lane latches the high half. -/
def execMovs (o : Ops) (s : State) : Host.Outcome State Fault Refusal :=
  aluRun (.movs o) o s (fun w0 w1 act =>
    let w2 := w1.writeDest o.d act (fun l => specialValue ({ s with w := w0 }) o.a.toNat l)
    if o.a = 10#6 && act != 0#32 then { w2 with clockHi := some (hiWord s.clock) } else w2)

/-- LEA. -/
def execLea (o : Ops) (s : State) : Host.Outcome State Fault Refusal :=
  aluRun (.lea o) o s (fun w0 w1 act =>
    w1.writePair o.d act (fun l => w0.srcPair o.ext o.a l + ((w0.src o.ext o.b l).setWidth 64 <<< o.f.toNat)))

/-- The operations of PLOG (R94). -/
def plogValue (f : Nat) (a b : Bool) : Bool :=
  match f with
  | 0 => a && b
  | 1 => a || b
  | 2 => a != b
  | _ => a && !b

/-- PLOG. -/
def execPlog (o : Ops) (s : State) : Host.Outcome State Fault Refusal :=
  aluRun (.plog o) o s (fun w0 w1 act =>
    w1.writePred o.d act (fun l => plogValue o.f.toNat (w0.pred o.a.toNat l) (w0.pred o.b.toNat l)))

end Sys2Proof.Machine
end

