-- ==== Sys2Proof/Machine/FloatInstr.lean ====
section
/-! DEFINITION. The floating, conversion, special-function and quantising instructions (R96 to R104). -/

namespace Sys2Proof.Machine

/-- The format of a function code's bits [3:2] (R58): 0 f32, 1 bf16x2, 2 f16x2. -/
def fmtOf (n : Nat) : Fmt := match n with | 0 => fmtF32 | 1 => fmtBF16 | _ => fmtF16

/-- An operation on a register in a format: once for f32, on each element of a packed form with the flags ORed (R64, R96). -/
def packed (fm : Nat) (f : Fmt → Nat → Nat → Nat → Flagged Nat) (a b c : Word) : Flagged Word :=
  if fm = 0 then
    let r := f fmtF32 a.toNat b.toNat c.toNat
    { val := BitVec.ofNat 32 r.val, flags := r.flags }
  else
    let r0 := f (fmtOf fm) (a.toNat % 2 ^ 16) (b.toNat % 2 ^ 16) (c.toNat % 2 ^ 16)
    let r1 := f (fmtOf fm) (a.toNat / 2 ^ 16) (b.toNat / 2 ^ 16) (c.toNat / 2 ^ 16)
    { val := BitVec.ofNat 32 (r1.val * 2 ^ 16 + r0.val), flags := r0.flags ||| r1.flags }

/-- The format and rounding of an arithmetic function code. -/
def fmtCode (o : Ops) : Nat := o.f.toNat / 4
def rndCode (o : Ops) : Rnd := Rnd.ofCode o.f.toNat

/-- FADD. -/
def execFadd (o : Ops) (s : State) : Host.Outcome State Fault Refusal :=
  alu32 (.fadd o) o s (packed (fmtCode o) (fun f a b _ => fadd f (rndCode o) a b))
/-- FMUL. -/
def execFmul (o : Ops) (s : State) : Host.Outcome State Fault Refusal :=
  alu32 (.fmul o) o s (packed (fmtCode o) (fun f a b _ => fmul f (rndCode o) a b))
/-- FMA. -/
def execFma (o : Ops) (s : State) : Host.Outcome State Fault Refusal :=
  alu32 (.fma o) o s (packed (fmtCode o) (fun f a b c => ffma f (rndCode o) a b c))
/-- FMIN. -/
def execFmin (o : Ops) (s : State) : Host.Outcome State Fault Refusal :=
  alu32 (.fmin o) o s (packed o.f.toNat (fun f a b _ => fmin f a b))
/-- FMAX. -/
def execFmax (o : Ops) (s : State) : Host.Outcome State Fault Refusal :=
  alu32 (.fmax o) o s (packed o.f.toNat (fun f a b _ => fmax f a b))
/-- FAMAX. -/
def execFamax (o : Ops) (s : State) : Host.Outcome State Fault Refusal :=
  alu32 (.famax o) o s (packed 0 (fun f a b _ => famax f a b))

/-- The conditions of FCMP (R98). -/
def fcmpHolds (f : Nat) (a b : Word) : Bool :=
  let x := fmtF32.unpack a.toNat
  let y := fmtF32.unpack b.toNat
  let nan := x.isNan || y.isNan
  match f with
  | 0 => x.eq y
  | 1 => !(x.eq y)
  | 2 => !nan && x.lt y
  | 3 => !nan && !(y.lt x)
  | 4 => !nan && y.lt x
  | 5 => !nan && !(x.lt y)
  | 6 => !nan
  | _ => nan

/-- FCMP. -/
def execFcmp (o : Ops) (s : State) : Host.Outcome State Fault Refusal :=
  aluRun (.fcmp o) o s (fun w0 w1 act =>
    let sn := fun l => (fmtF32.unpack (w0.src o.ext o.a l).toNat).isSignalling
      || (fmtF32.unpack (w0.src o.ext o.b l).toNat).isSignalling
    (w1.writePred o.d act (fun l => fcmpHolds o.f.toNat (w0.src o.ext o.a l) (w0.src o.ext o.b l))).addFlags
      (laneFlags act (fun l => flagIf (sn l) flagNV)))

/-- The sign bits of a format code (R99). -/
def signBits (fm : Nat) : Word := if fm = 0 then 0x80000000#32 else 0x80008000#32

/-- FABS. -/
def execFabs (o : Ops) (s : State) : Host.Outcome State Fault Refusal :=
  alu32 (.fabs o) o s (fun a _ _ => plain (a &&& ~~~(signBits (fmtCode o))))
/-- FNEG. -/
def execFneg (o : Ops) (s : State) : Host.Outcome State Fault Refusal :=
  alu32 (.fneg o) o s (fun a _ _ => plain (a ^^^ signBits (fmtCode o)))
/-- FCOPYS. -/
def execFcopys (o : Ops) (s : State) : Host.Outcome State Fault Refusal :=
  alu32 (.fcopys o) o s (fun a b _ =>
    plain ((a &&& ~~~(signBits (fmtCode o))) ||| (b &&& signBits (fmtCode o))))

/-- A flagged number as a flagged word. -/
def Flagged.word (r : Flagged Nat) : Flagged Word := { val := BitVec.ofNat 32 r.val, flags := r.flags }

/-- The conversions of one 32-bit source (R100, forms 0 to 7). -/
def cvtValue (f : Nat) (m : Rnd) (a : Word) : Flagged Word :=
  match f with
  | 0 => (fconvert fmtF32 fmtBF16 m a.toNat).word
  | 1 => (fconvert fmtF32 fmtF16 m a.toNat).word
  | 2 => (fconvert fmtBF16 fmtF32 .rn (a.toNat % 2 ^ 16)).word
  | 3 => (fconvert fmtF16 fmtF32 .rn (a.toNat % 2 ^ 16)).word
  | 4 => let r := cvtToInt m (-(2 ^ 31)) (2 ^ 31 - 1) a.toNat
         { val := truncInt 32 r.val, flags := r.flags }
  | 5 => let r := cvtToInt m 0 (2 ^ 32 - 1) a.toNat
         { val := truncInt 32 r.val, flags := r.flags }
  | 6 => (cvtFromInt m a.toInt).word
  | _ => (cvtFromInt m (a.toNat : Int)).word

/-- CVT: forms 8 and 9 read an f32 pair and pack two elements. -/
def execCvt (o : Ops) (s : State) : Host.Outcome State Fault Refusal :=
  let m := Rnd.ofCode o.b.toNat
  if 8 ≤ o.f.toNat then
    let dst := if o.f = 8#4 then fmtBF16 else fmtF16
    aluRun (.cvt o) o s (fun w0 w1 act =>
      let lo := fun l => fconvert fmtF32 dst m (w0.src o.ext o.a l).toNat
      let hi := fun l => fconvert fmtF32 dst m (w0.src o.ext (o.a + 1#6) l).toNat
      (w1.writeDest o.d act (fun l => BitVec.ofNat 32 ((hi l).val * 2 ^ 16 + (lo l).val))).addFlags
        (laneFlags act (fun l => (lo l).flags ||| (hi l).flags)))
  else alu32 (.cvt o) o s (fun a _ _ => cvtValue o.f.toNat m a)

/-! ## Special functions: results of class W4 (R83, R101) -/

/-- A variable-latency result (R14): its destinations are renamed at issue, and it returns in its time. -/
def State.issueResult (s : State) (cls : Nat) (writes : List (Nat × Word)) (flags : Word) : State :=
  let (s1, id) := s.fresh
  { s1 with
    w := s1.w.addOut { id := id, cls := cls, hasDest := true, keys := writes.map (fun p => p.1), vals := writes,
                       waiting := 1, fail := none, flags := flags }
    events := s1.events ++ [.variableResultReturn s1.warpId id] }

/-- A special-function instruction: charged one unit; with an active lane its result is issued. -/
def sfuRun (i : Instr) (o : Ops) (s : State) (f : Nat → Flagged Nat) : Host.Outcome State Fault Refusal :=
  let s1 := s.charge 1 0
  let act := s1.w.activeLanes
  let r := fun l => f (s1.w.src o.ext o.a l).toNat
  let writes := destWrites o.d act (fun l => BitVec.ofNat 32 (r l).val)
  let fl := laneFlags act (fun l => (r l).flags)
  let s2 := { s1 with w := s1.w.lastUse i o }
  let s3 := if act = 0#32 then s2 else s2.issueResult 4 writes fl
  go (s3.retire i o)

/-- RCP. -/
def execRcp (o : Ops) (s : State) : Host.Outcome State Fault Refusal := sfuRun (.rcp o) o s sfuRcp
/-- RSQ. -/
def execRsq (o : Ops) (s : State) : Host.Outcome State Fault Refusal := sfuRun (.rsq o) o s sfuRsq
/-- SQRT. -/
def execSqrt (o : Ops) (s : State) : Host.Outcome State Fault Refusal := sfuRun (.sqrt o) o s sfuSqrt
/-- EXP2. -/
def execExp2 (o : Ops) (s : State) : Host.Outcome State Fault Refusal := sfuRun (.exp2 o) o s sfuExp2
/-- LOG2. -/
def execLog2 (o : Ops) (s : State) : Host.Outcome State Fault Refusal := sfuRun (.log2 o) o s sfuLog2
/-- SIN. -/
def execSin (o : Ops) (s : State) : Host.Outcome State Fault Refusal := sfuRun (.sin o) o s sfuSin
/-- COS. -/
def execCos (o : Ops) (s : State) : Host.Outcome State Fault Refusal := sfuRun (.cos o) o s sfuCos
/-- TANH. -/
def execTanh (o : Ops) (s : State) : Host.Outcome State Fault Refusal := sfuRun (.tanh o) o s sfuTanh

/-! ## Quantising (R102 to R104) -/

/-- The 64 element values of a block, in all lanes whether active or not (R71, R84). -/
def blockOf (w : Warp) (o : Ops) : List Nat :=
  lanes.map (fun l => (w.src o.ext o.a l).toNat) ++ lanes.map (fun l => (w.src o.ext o.b l).toNat)

/-- QSCALE. -/
def execQscale (o : Ops) (s : State) : Host.Outcome State Fault Refusal :=
  aluRun (.qscale o) o s (fun w0 w1 act =>
    let e : Word := BitVec.ofNat 32 (qscaleByte (blockOf w0 o))
    w1.writeDest o.d act (fun _ => e))

/-- QPACK: the scale byte comes from the lowest active lane; conditions of all 64 elements are raised (R82, R103). -/
def execQpack (o : Ops) (s : State) : Host.Outcome State Fault Refusal :=
  aluRun (.qpack o) o s (fun w0 w1 act =>
    match act.lowest with
    | none => w1
    | some l0 =>
      let e := (w0.src o.ext o.d l0).toNat % 256
      let qs := (blockOf w0 o).map (qpackElem (o.f == 1#4) e)
      let img := planeImage (qs.map (fun q => q.val))
      (w1.writeDest o.d act (fun l => BitVec.ofNat 32 (img.getD (2 * l) 0 + 256 * img.getD (2 * l + 1) 0))).addFlags
        (orFlags (qs.map (fun q => q.flags))))

/-- The image bytes that QPACK's layout holds in a register (R104). -/
def imageOf (w : Warp) (o : Ops) : List Nat :=
  lanes.flatMap (fun l => let x := (w.src o.ext o.a l).toNat; [x % 256, x / 256 % 256])

/-- QUNPK. -/
def execQunpk (o : Ops) (s : State) : Host.Outcome State Fault Refusal :=
  aluRun (.qunpk o) o s (fun w0 w1 act =>
    match act.lowest with
    | none => w1
    | some l0 =>
      let e := (w0.src o.ext o.b l0).toNat % 256
      let img := imageOf w0 o
      let y := fun i => qunpkElem (o.f.getLsbD 3) (o.f.toNat % 8 + 2) e img i
      (w1.writePair o.d act (fun l => pairOf (BitVec.ofNat 32 (y l).val) (BitVec.ofNat 32 (y (l + 32)).val))).addFlags
        (orFlags ((List.range 64).map (fun i => (y i).flags))))

end Sys2Proof.Machine
end

