-- ==== Sys2Proof/Machine/System.lean ====
section
/-! DEFINITION. The SYS class but for PURSE.ADD: system registers, purses, macro loading and the return from a trap (R17 to
R20, R128, R138 to R143); and reading a structure in memory as a load of the warp would. -/

namespace Sys2Proof.Machine

/-! ## Reading a structure as the warp's load would -/

/-- What such a read comes to. -/
inductive BytesRead where
  | ok (s : State) (bs : List Byte)
  | fault (s : State) (c : Cause) (addr : DWord)
  | wait (s : State) (w : Wait)

/-- The bytes at one piece that does not cross a sector (R145, R151; no reduce aperture). -/
def State.readPiece (s : State) (va n : Nat) (acc : Access) : BytesRead :=
  let kind : AccessKind := { acc := acc, width := n, line := false, atomic := false, f32Atomic := false, align := false }
  match s.resolve kind (BitVec.ofNat 64 va) with
  | .error (_, c) => .fault s c (BitVec.ofNat 64 va)
  | .ok (.pad off) =>
    match s.fillAt off with
    | .ok s1 => .ok s1 (s1.g.padRead off n)
    | .failed s1 c => .fault s1 c (BitVec.ofNat 64 va)
    | .fault c => .fault s c (BitVec.ofNat 64 va)
    | .wait s1 => .wait s1 .sectors
  | .ok (.memory key a) =>
    if s.grainBusy s.g.core (key - key % a.grain) a.grain then .wait s (.pending (key - key % a.grain) a.grain)
    else
      match s.homeGet (l1Of s.g.core) (askerOf s.warpId) key n with
      | .wait s1 => .wait s1 .asks
      | .fail c => .fault s c (BitVec.ofNat 64 va)
      | .ok bs => .ok s bs
  | .ok (.reduce _ _ _) => .fault s .protection (BitVec.ofNat 64 va)

/-- Consecutive bytes, piece by piece; `fuel` bounds the pieces. -/
def State.readPieces (s : State) (acc : Access) : Nat → Nat → Nat → List Byte → BytesRead
  | 0, _, _, bs => .ok s bs
  | fuel + 1, va, n, bs =>
    if n = 0 then .ok s bs
    else
      let k := min n (32 - va % 32)
      match s.readPiece va k acc with
      | .ok s1 b => s1.readPieces acc fuel (va + k) (n - k) (bs ++ b)
      | .fault s1 c a => .fault s1 c a
      | .wait s1 w => .wait s1 w

/-- Consecutive bytes at a virtual address. -/
def State.readVa (s : State) (va : DWord) (n : Nat) (acc : Access) : BytesRead :=
  match s.readPieces acc (n / 32 + 2) va.toNat n [] with
  | .ok s1 bs => .ok (s1.usePads ((List.range (n / 32 + 2)).filterMap (fun i =>
      match apertureOf s1.g.padUnits (va.toNat + min (32 * i) (n - 1)) 1 with | some (.ok (.pad off)) => some off | _ => none))) bs
  | r => r

/-- A step that needs bytes of memory as a load of the warp: it goes on with them, takes the fault, or waits. -/
def State.withBytes (s : State) (va : DWord) (n : Nat) (acc : Access)
    (k : State → List Byte → Host.Outcome State Fault Refusal) : Host.Outcome State Fault Refusal :=
  match s.readVa va n acc with
  | .ok s1 bs => k s1 bs
  | .fault s1 c a => go (s1.raise c s1.w.activeLanes a)
  | .wait s1 w => go (s1.stall w)

/-- Writes bytes at a virtual address already read for writing: at the port, or performed at their homes. -/
def State.writeVa (s : State) (va : DWord) (bs : List Byte) : State :=
  (bs.zipIdx).foldl (fun (s : State) (p : Byte × Nat) =>
    let a := va.toNat + p.2
    match apertureOf s.g.padUnits a 1 with
    | some (.ok (.pad off)) => s.padWrite off [p.1]
    | some _ => s
    | none =>
      match translated s s.g.space s.g.level .write a with
      | .ok (key, _) => s.homeWriteOr [(key, p.1)]
      | .error _ => s) s

/-! ## System registers (R17 to R20, R139) -/

/-- The value of a system register. -/
def State.sysValue (s : State) (n : Nat) : DWord :=
  let w (x : Word) : DWord := x.setWidth 64
  match n with
  | 0x000 => BitVec.ofNat 64 (s.purses s.g).1
  | 0x001 => BitVec.ofNat 64 (s.purses s.g).2
  | 0x002 => w s.g.rest
  | 0x003 => s.g.grace
  | 0x010 => w s.g.tvec
  | 0x011 => w s.w.tb.tcause
  | 0x012 => w s.w.tb.tclause
  | 0x013 => w s.w.tb.tindex
  | 0x014 => w s.w.tb.tlanes
  | 0x015 => w s.w.tb.taddrLo
  | 0x016 => w s.w.tb.taddrHi
  | 0x020 => w s.w.wident
  | 0x030 => w s.w.aflags
  | 0x031 => w s.w.amask
  | 0x040 => w s.g.scopechk
  | 0x050 => BitVec.ofNat 64 s.g.level
  | _ => 0#64

/-- SRD: the value before the instruction's own charge, as a result of class W5. -/
def execSrd (o : Ops) (s : State) : Host.Outcome State Fault Refusal :=
  let i : Instr := .srd o
  let n := o.ext.toNat % 4096
  let v := s.sysValue n
  s.scalar i o (fun s1 =>
    if n = 0x030 && s1.w.awaits (fun x => x.cls == 4) then go (s1.stall .arith)
    else
      let act := s1.w.activeLanes
      let writes := if sysRegWidth n = some 32 then destWrites o.d act (fun _ => loWord v) else destPairWrites o.d act (fun _ => v)
      go ((s1.issueResult 5 writes 0#32).retire i o))

/-- A system register's new value (R17 to R20). -/
def State.setSys (s : State) (n : Nat) (v : DWord) : State :=
  let off := loWord v &&& 0xFFFFFFFC#32
  match n with
  | 0x000 => s.setPurses (some (v.toNat % 2 ^ 48)) none
  | 0x001 => s.setPurses none (some (v.toNat % 2 ^ 48))
  | 0x002 => s.modG (fun g => { g with rest := off })
  | 0x003 => s.modG (fun g => { g with grace := v })
  | 0x010 => s.modG (fun g => { g with tvec := off })
  | 0x030 => s.modW (fun w => { w with aflags := w.aflags &&& ~~~(loWord v) })
  | 0x031 => s.modW (fun w => { w with amask := loWord v &&& flagBits })
  | 0x040 => s.modG (fun g => { g with scopechk := loWord v &&& 1#32 })
  | _ => s

/-- SWR. -/
def execSwr (o : Ops) (s : State) : Host.Outcome State Fault Refusal :=
  let i : Instr := .swr o
  let n := o.ext.toNat % 4096
  s.scalar i o (fun s1 =>
    if n = 0x030 && s1.w.awaits (fun x => x.cls == 4) then go (s1.stall .arith)
    else
      let v := if sysRegWidth n = some 32 then (s1.w.usrc 0#32 o.a).setWidth 64 else s1.w.upair o.a
      go ((s1.setSys n v).retire i o))

/-! ## Purses (R140, R141, R143) -/

/-- The largest amount of a purse. -/
def maxPurse : Nat := 2 ^ 48 - 1

/-- PURSE.GET: the purse after the charge of the GET itself, as a result of class W5. -/
def execPurseGet (o : Ops) (s : State) : Host.Outcome State Fault Refusal :=
  let i : Instr := .purseGet o
  s.scalar i o (fun s1 =>
    let v := BitVec.ofNat 64 (if o.a = 0#6 then (s1.purses s1.g).1 else (s1.purses s1.g).2)
    go ((s1.issueResult 5 (destPairWrites o.d s1.w.activeLanes (fun _ => v)) 0#32).retire i o))

/-- Takes amounts from the purses themselves, even in resting mode (R132, R141, R293). -/
def State.takePurses (s : State) (u b : Nat) : State :=
  let was := s.purses s.g
  let s1 := s.modG (fun g => { g with ipurse := g.ipurse - u, mpurse := g.mpurse - b })
  let now := s1.purses s1.g
  if !s.g.resting && (runsOut u was.1 s.g.ipurse now.1 || runsOut b was.2 s.g.mpurse now.2) then s1.exhaust else s1

/-- The write of PURSE.SPLIT's packet, a store of the warp at package scope (R141): on a page with a scope checker the home records it,
or refuses it with SCOPE_MISMATCH, which the store's reply reports (R235, R236). -/
def State.storePacket (s : State) (va : DWord) (bs : List Byte) : State :=
  let kind : AccessKind := { acc := .write, width := 16, line := false, atomic := false, f32Atomic := false, align := false }
  let (s1, id) := s.fresh
  match s1.resolve kind va with
  | .ok (.memory key a) =>
    (match s1.recordHit (s1.warpReq id .wtw key 16 a 14 3 false true false va .prefetch) with
     | some s2 =>
       let cells := cellsAt key bs
       if s2.directCells cells then s2.writeVa va bs
       else
         -- a home that does not perform it at once is sent the store
         let out : Out := { id := id, cls := 1, hasDest := false, far := farKey key, keys := [], vals := [], waiting := (bySector cells).length
                            fail := none, flags := 0#32 }
         (bySector cells).foldl (fun (s : State) cs =>
           let (s3, rid) := s.fresh
           let at_ := match cs with | c :: _ => c.1 | [] => key
           s3.send { s3.warpReq rid .wtw at_ cs.length a 14 3 false true false va (.warp s3.warpId id [] s3.w.activeLanes) with
             cells := cs, checked := false }) (s2.modW (fun w => w.addOut out))
     | none =>
       let f : Fail := { cause := .scopeMismatch, lanes := s1.w.activeLanes, addr := va }
       let out : Out := { id := id, cls := 1, hasDest := false, keys := [], vals := [], waiting := 0, fail := some f, flags := 0#32 }
       s1.modW (fun w => w.addOut out))
  | _ => s1.writeVa va bs

/-- PURSE.SPLIT. -/
def execPurseSplit (o : Ops) (s : State) : Host.Outcome State Fault Refusal :=
  let i : Instr := .purseSplit o
  s.scalar i o (fun s1 =>
    let ai := (s1.w.upair o.d).toNat
    let am := (s1.w.upair (o.d + 2#6)).toNat
    let pkt := s1.w.upair o.a
    let act := s1.w.activeLanes
    if maxPurse < ai ∨ maxPurse < am then go (s1.raise .illegalOperand act (operandAddr i))
    else if 2 ^ 57 ≤ pkt.toNat then go (s1.raise .protection act pkt)
    else if pkt.toNat % 64 ≠ 0 then go (s1.raise .misaligned act pkt)
    else
      match s1.heldRelease with
      | .waits w => go (s1.stall w)
      | .fails _ => go (match s.heldRelease with | .fails t => t | _ => s)
      | .free s2 => s2.withBytes (pkt + 0x20#64) 16 .write (fun s2 bs =>
        let pi := field bs 0 8 % 2 ^ 48
        let pm := field bs 8 8 % 2 ^ 48
        if s2.g.ipurse < ai ∨ s2.g.mpurse < am ∨ maxPurse < pi + ai ∨ maxPurse < pm + am then
          go (s2.raise .launchRefused act pkt)
        else
          let q0 := field bs 0 8 / 2 ^ 48 * 2 ^ 48 + (pi + ai)
          let q1 := (field bs 8 8 / 2 ^ 48 ||| 1) * 2 ^ 48 + (pm + am)
          let s3 := (s2.takePurses ai am).storePacket (pkt + 0x20#64) (leBytes 8 q0 ++ leBytes 8 q1)
          go (s3.retire i o)))

/-- PURSE.SETREST. -/
def execPurseSetrest (o : Ops) (s : State) : Host.Outcome State Fault Refusal :=
  let i : Instr := .purseSetrest o
  s.scalar i o (fun s1 =>
    let v := s1.w.usrc o.ext o.a &&& 0xFFFFFFFC#32
    go ((s1.modG (fun g => { g with rest := v })).retire i o))

/-! ## Macro loading (R46, R128) -/

/-- The operations of an image from its bytes after the header. -/
def imageOps (bs : List Byte) (n : Nat) : List MacroOp × List Word :=
  let ops := (List.range n).map (fun j =>
    ({ word := BitVec.ofNat 32 (field bs (12 * j) 4), ext := BitVec.ofNat 32 (field bs (12 * j + 4) 4),
       subst := BitVec.ofNat 4 (field bs (12 * j + 8) 4) } : MacroOp))
  (ops, (List.range n).map (fun j => BitVec.ofNat 32 (field bs (12 * j + 8) 4)))

/-- MCLOAD. -/
def execMcload (o : Ops) (s : State) : Host.Outcome State Fault Refusal :=
  let i : Instr := .mcload o
  s.scalar i o (fun s1 =>
    let act := s1.w.activeLanes
    let n := (s1.w.usrc o.ext o.b).toNat
    let at_ := s1.w.upair o.a
    let bad := fun (s : State) => go (s.raise .macroTrap act (BitVec.ofNat 64 n))
    if 63 < n then bad s1
    else if 2 ^ 57 ≤ at_.toNat then go (s1.raise .protection act at_)
    else if at_.toNat % 4 ≠ 0 then go (s1.raise .misaligned act at_)
    else
      s1.withBytes at_ 4 .read (fun s2 hb =>
        let hdr := BitVec.ofNat 32 (leNat hb)
        if hdr = 0#32 ∨ 32 < hdr.toNat then bad s2
        else
          s2.withBytes (at_ + 4#64) (12 * hdr.toNat) .read (fun s3 bs =>
            let (ops, top) := imageOps bs hdr.toNat
            match macroImage hdr ops top with
            | none => bad s3
            | some img => go ((s3.modG (fun g => { g with macros := FMap.insert g.macros n img })).retire i o))))

/-! ## The return from a trap (R138, R307) -/

/-- Whether the trapped clause ends with lanes leaving: their records need every result first (R115). -/
def State.splitPending (s : State) : Bool :=
  match s.w.frame with
  | some fr => (match fr.cl with | some c => c.split.isSome | none => false)
  | none => false

/-- TRET: outside a handler it takes ILLEGAL_OPCODE. Its switch marker acts before the transfer (R35): the handler's
outstanding destinations are awaited and commit. -/
def execTret (o : Ops) (s : State) : Host.Outcome State Fault Refusal :=
  let i : Instr := .tret o
  s.scalar i o (fun s1 =>
    if s1.w.frame.isNone then go (s1.raise .illegalOpcode s1.w.activeLanes (operandAddr i))
    else if s1.splitPending && s1.w.awaits (fun x => x.hasDest) then go (s1.stall (.classes 0x31#6))
    else if !o.s then go s1.returnTrap
    else if s1.w.awaits (fun x => x.hasDest) then go (s1.stall .marker)
    else
      let (w, fails) := s1.w.commit (fun x => x.hasDest)
      let s2 : State := { s1 with w := w }
      if fails.isEmpty then go s2.returnTrap else go (s2.raiseFails fails))

end Sys2Proof.Machine
end

