-- ==== Sys2Proof/Machine/Engine.lean ====
section
/-! DEFINITION. What the engines of a workgroup share: ranges of memory and scratchpad with the translations taken at issue,
reading and writing them at their homes or at the port, outstanding operations of their warps, and the tile governor's leave
(R23, R185, R191, R199, R203, R355). -/

namespace Sys2Proof.Machine

/-! ## Ranges -/

/-- The pieces of a range, split at the 32-byte sectors. -/
def splitSectors (va n : Nat) : List (Nat × Nat) :=
  (List.range ((va % 32 + n + 31) / 32)).map (fun k =>
    let lo := max va (va - va % 32 + 32 * k)
    let hi := min (va + n) (va - va % 32 + 32 * k + 32)
    (lo, hi - lo))

/-- Where an engine finds a byte: in the allotment, or in memory. -/
inductive Loc where
  | pad (off : Nat)
  | mem (key : Nat)
  deriving DecidableEq, Repr

/-- The location of an address under translations taken earlier, one for each 64-KiB page. -/
def Workgroup.loc (g : Workgroup) (xl : FMap Nat) (va n : Nat) : Option Loc :=
  match apertureOf g.padUnits va n with
  | some (.ok (.pad off)) => some (.pad off)
  | some _ => none
  | none => (FMap.find xl (va / 65536)).map (fun k => .mem (k + va % 65536))

/-- The checks of R145 on one sector's bytes of a range, with its translation kept (R185, R191). `port`: the scratchpad is
allowed; `common`: COMMON pages are; `f32`: the access is an f32 atomic. -/
def State.checkPiece (s : State) (acc : Access) (port common f32 : Bool) (xl : FMap Nat) (va n : Nat) : Except Cause (FMap Nat) :=
  if 2 ^ 57 < va + n then .error .protection
  else
    match apertureOf s.g.padUnits va n with
    | some (.ok (.pad _)) => if port then .ok xl else .error .protection
    | some _ => .error .protection
    | none =>
      match translate s s.g.space s.g.level acc va with
      | .error c => .error c
      | .ok (key, a) =>
        if (a.common && !common) || (f32 && regionOf (keyPa key) = 6) then .error .protection
        else .ok (FMap.insert xl (va / 65536) (key - va % 65536))

/-- The checks over the pieces of a range; the first failure is answered with its address. -/
def State.checkPieces (s : State) (acc : Access) (port common f32 : Bool) :
    List (Nat × Nat) → FMap Nat → Except (Cause × Nat) (FMap Nat)
  | [], xl => .ok xl
  | (va, n) :: rest, xl =>
    match s.checkPiece acc port common f32 xl va n with
    | .error c => .error (c, va)
    | .ok xl1 => s.checkPieces acc port common f32 rest xl1

/-- What making a range ready comes to. -/
inductive Prep where
  | ok (s : State)
  | fail (c : Cause) (va : Nat)
  | wait (s : State)

/-- Makes the pieces of a range ready one after another: windows' sectors are filled, and bytes that are to be read and that a home does not
give at once are asked for (R23, R163, R249). -/
def State.prepareEach (s : State) (write : Bool) (xl : FMap Nat) : List (Nat × Nat) → Prep
  | [] => .ok s
  | (va, n) :: rest =>
    match s.g.loc xl va n with
    | some (.pad off) =>
      if s.g.place == .saved then s.prepareEach write xl rest else
      match s.fillAt off (write && off % 32 == 0 && n == 32) with
      | .ok s1 => s1.prepareEach write xl rest
      | .fault .walkWait => .wait (s.askWalk (l1Of s.g.core) s.acting s.g.space (match s.g.windowAt off with | some (_, w) => w.va ((off - w.off * 32) / 32) | none => 0) false)
      | .fault c => .fail c va
      | .failed _ c => .fail c va
      | .wait s1 => .wait s1
    | some (.mem key) =>
      match (if write then Got.ok [] else s.homeGet (l1Of s.g.core) s.acting key n) with
      | .wait s1 => (match s1.prepareEach write xl rest with | .wait s2 => .wait s2 | _ => .wait s1)
      | _ => s.prepareEach write xl rest
    | none => .fail .protection va

/-- The sectors of windows under a range are used. -/
def State.useRange (s : State) (xl : FMap Nat) (ps : List (Nat × Nat)) : State :=
  if s.g.place == .saved then s
  else s.usePads (ps.filterMap (fun p => match s.g.loc xl p.1 p.2 with | some (.pad off) => some off | _ => none))

/-- Makes the pieces of a range ready to be read at once. -/
def State.prepare (s : State) (xl : FMap Nat) (ps : List (Nat × Nat)) : Prep :=
  match s.prepareEach false xl ps with
  | .ok s1 => .ok (s1.useRange xl ps)
  | x => x

/-- Makes the pieces of a range ready to be written. -/
def State.prepareWrite (s : State) (xl : FMap Nat) (ps : List (Nat × Nat)) : Prep :=
  match s.prepareEach true xl ps with
  | .ok s1 => .ok (s1.useRange xl ps)
  | x => x

/-- A byte of the allotment as an engine reads it while the workgroup is saved: a window's sector is not held then, and its
byte is read in memory unless it has been written since (R299). -/
def State.savedByte (s : State) (off : Nat) : Byte :=
  match s.g.windowAt off with
  | none => FMap.get s.g.pad 0#8 off
  | some (_, w) =>
    let rel := off - w.off * 32
    if w.dirty.contains rel then FMap.get s.g.pad 0#8 off
    else
      match s.sectorKey s.g w .read (rel / 32) with
      | .ok (key, _) => s.coherentByte (key + rel % 32)
      | .error _ => FMap.get s.g.pad 0#8 off

/-- The bytes of a piece of a range that is ready. -/
def State.pieceBytes (s : State) (xl : FMap Nat) (va n : Nat) : Except Cause (List Byte) :=
  match s.g.loc xl va n with
  | some (.pad off) =>
    if s.g.padBad off n then .error .poison else
    .ok (if s.g.place == .saved then (List.range n).map (fun i => s.savedByte (off + i)) else s.g.padRead off n)
  | some (.mem key) =>
    match s.homeGet (l1Of s.g.core) s.acting key n with
    | .ok bs => .ok bs
    | .fail c => .error c
    | .wait _ => .error .walkWait
  | none => .error .protection

/-- The bytes of the pieces of a range that is ready. -/
def State.piecesBytes (s : State) (xl : FMap Nat) : List (Nat × Nat) → Except Cause (List Byte)
  | [] => .ok []
  | (va, n) :: rest =>
    match s.pieceBytes xl va n with
    | .error c => .error c
    | .ok bs =>
      match s.piecesBytes xl rest with
      | .error c => .error c
      | .ok bs2 => .ok (bs ++ bs2)

/-- Writes a piece at its home or at the port. -/
def State.writePiece (s : State) (xl : FMap Nat) (va : Nat) (bs : List Byte) : Written :=
  match s.g.loc xl va bs.length with
  | some (.pad off) =>
    if s.g.padBad off bs.length && !(off % 32 == 0 && bs.length == 32) then .fail s .poison else .ok (s.padWrite off bs)
  | some (.mem key) => s.homePut (l1Of s.g.core) s.acting (cellsAt key bs)
  | none => .fail s .protection

/-- Changes an element in place, indivisibly: at the port, or at its home (R193, R199). `op` names the change to a home that is not this
package's. -/
def State.changePiece (s : State) (xl : FMap Nat) (va n op operand : Nat) (f : Nat → Nat) : Written :=
  match s.g.loc xl va n with
  | some (.pad off) =>
    (match s.pieceBytes xl va n with
     | .ok bs => .ok (s.padWrite off (leBytes n (f (leNat bs))))
     | .error c => .fail s c)
  | some (.mem key) => s.homeAtomic (l1Of s.g.core) s.acting key n op operand f
  | none => .fail s .protection

/-! ## Stores of the workgroup's warps -/

/-- Whether every store of a workgroup's warps, write-back of its windows and write that its warps have observed has been performed: it is
saved, or completes, only then (R187, R299). -/
def State.storesQuiet (s : State) (serial : Nat) : Bool := (s.storeIds serial).isEmpty

/-- Whether entries of a workgroup's engine queues may start (R204). -/
def Workgroup.enginesRun (g : Workgroup) : Bool := g.place == .running

/-! ## Reading for an engine -/

/-- What an engine's read comes to. -/
inductive EngRead where
  | ok (s : State) (bs : List Byte)
  | fail (c : Cause) (va : Nat)
  | wait (s : State)

/-- Reads bytes at the home or the port, for a command that keeps no translation (R199, R200). -/
def State.engineRead (s : State) (va n align : Nat) : EngRead :=
  if 2 ^ 57 ≤ va then .fail .protection va
  else if va % align ≠ 0 then .fail .misaligned va
  else
    let ps := splitSectors va n
    match s.checkPieces .read true true false ps [] with
    | .error (.walkWait, a) => .wait (s.askWalk (l1Of s.g.core) s.acting s.g.space a false)
    | .error (c, a) => .fail c a
    | .ok xl =>
      match s.prepare xl ps with
      | .fail c a => .fail c a
      | .wait s1 => .wait s1
      | .ok s1 =>
        match s1.piecesBytes xl ps with
        | .ok bs => .ok s1 bs
        | .error c => .fail c va

/-! ## Exhaustion by held work, and a queue's reserves (R201, R221, R295) -/

/-- Treats the workgroup whose turn it is as exhausted for work that its purse does not cover: in resting mode a forced
yield, else the latch (R201, R294). -/
def State.holdFor (s : State) : State :=
  if s.g.place != .running then s else if s.g.resting then s.beginForced else s.exhaust

/-- Whether a charge can be debited now: work that was held starts only against the purse (R201, R221, R294). -/
def Workgroup.coversNow (g : Workgroup) (held : Bool) (bytes : Nat) : Bool :=
  if held then g.place == .running && !g.resting && decide (bytes ≤ g.mpurse) else g.covers 0 bytes

/-- Whether work that a workgroup's purse does not cover has already had its effect on it, so that nothing is to be done
before the workgroup is resumed. -/
def Workgroup.heldKnown (g : Workgroup) : Bool := g.place != .running || g.forced || (g.latch && !g.resting)

/-- Bytes of a queue's descriptor, read at the home (R282, R361). -/
def State.queueField (s : State) (q : Queue) (off n : Nat) : Nat :=
  match physKey (q.desc + BitVec.ofNat 64 off) with
  | some k => leNat (s.coherent k n)
  | none => 0

/-- Writes a 64-bit field of a queue's descriptor. -/
def State.queuePut (s : State) (q : Queue) (off v : Nat) : State :=
  match physKey (q.desc + BitVec.ofNat 64 off) with
  | some k => s.hostWrite k (leBytes 8 v)
  | none => s

/-- The number under which the reads of a queue's reserves stand: who draws on them does so in turn. -/
def reserveAgent (queue : Nat) : Nat := 2 ^ 61 + queue

/-- What a draw on a queue's reserves comes to. -/
inductive Draw where
  | ok (s : State)
  | short
  | wait (s : State)

/-- Debits a queue's reserves, read and written at their home (R248, R295): short when one does not cover its part. -/
def State.drawReserve (s : State) (queue units bytes : Nat) : Draw :=
  match FMap.find s.host.queues queue with
  | none => .short
  | some q =>
    match physKey (q.desc + 0x30#64) with
    | none => .short
    | some k =>
      match s.homeGet pkgParty (reserveAgent queue) k 16 with
      | .wait s1 => .wait s1
      | .fail _ => .short
      | .ok bs =>
        let i := field bs 0 8 % 2 ^ 48
        let m := field bs 8 8 % 2 ^ 48
        if i < units ∨ m < bytes then .short
        else
          let s1 := if units = 0 then s else s.queuePut q 0x30 (i - units)
          .ok ((if bytes = 0 then s1 else s1.queuePut q 0x38 (m - bytes)).asksEnd (reserveAgent queue))

/-- Whether the reads of a queue's reserves that were asked for are answered. -/
def State.reserveKnown (s : State) (queue : Nat) : Bool := s.fab.asks.all (fun a => a.agent != reserveAgent queue || a.ans.isSome)

/-! ## The tile governor (R355) -/

/-- A tile's governor. -/
def State.gov (s : State) (tile : Nat) : Gov := FMap.get s.pkg.tiles Gov.default tile

/-- Changes a tile's governor. -/
def State.modGov (s : State) (tile : Nat) (f : Gov → Gov) : State :=
  { s with pkg := { s.pkg with tiles := FMap.put s.pkg.tiles Gov.default tile (f (s.gov tile)) } }

/-- Asks a tile's governor for leave: the request joins its queue. -/
def State.askPower (s : State) (tile who id : Nat) : State :=
  s.modGov tile (fun g => { g with queue := g.queue ++ [(who, id)] })

end Sys2Proof.Machine
end

