-- ==== Sys2Proof/Machine/Matrix.lean ====
section
/-! DEFINITION. The matrix pair: MMA and the accumulator instructions at issue, the release of an MMA, its steps, the turn of
an accumulator transfer, and the clove patterns (R178 to R195). -/

namespace Sys2Proof.Machine

/-! ## Issue -/

/-- The entries of a pair's tile task table (R178). -/
def State.tasksUsed (s : State) (core : Nat) : Nat :=
  ((s.allWgs.filter (fun h => pairOfCore h.core == pairOfCore core && h.enginesRun)).map (fun h => h.mx.length)).foldl (· + ·) 0

/-- An MX instruction that has passed its checks enters its workgroup's queue, charged (R178 to R180). -/
def State.enterMx (s : State) (i : Instr) (o : Ops) (units bytes acc : Nat) (op : MxOp) : Host.Outcome State Fault Refusal :=
  let (s1, id) := s.fresh
  let (s2, out) := s1.fresh
  let (base, idx) := match s.w.cl with | some c => (c.base, c.idx) | none => (0#32, 0)
  let e : MxEntry := { id := id, wid := s.w.wid, out := out, acc := acc, op := op, released := false, granted := false,
                       relTime := 0, step := 0, clause := base, index := idx, lns := s.w.activeLanes
                       cover := s.storeIds s.g.serial }
  let s3 := (s2.spend units bytes).modG (fun g => { g with mx := g.mx ++ [e] })
  s3.finishMem i o { id := out, cls := 2, hasDest := false, keys := [], vals := [], waiting := 1, fail := none, flags := 0#32 }

/-- The common part of an MX instruction: it does not issue without a free entry of the task table; it is warp-scalar. -/
def State.mxIssue (s : State) (i : Instr) (o : Ops) (k : State → Host.Outcome State Fault Refusal) :
    Host.Outcome State Fault Refusal :=
  if s.w.activeLanes != 0#32 && decide (32 ≤ s.tasksUsed s.g.core) then go (s.modW (fun w => { (w.park .taskSlot) with cl := w.cl }))
  else
    let s1 := if s.charged then s else s.spend 1 0
    if s1.w.activeLanes = 0#32 then go (s1.retire i o) else k s1

/-- A failure of an operand check at issue (R185, R191). -/
def State.badOperand (s : State) (i : Instr) : Host.Outcome State Fault Refusal :=
  go (s.raise .illegalOperand s.w.activeLanes (operandAddr i))

/-- Whether a ring slot can hold an operand of a size (R185). -/
def Workgroup.slotFits (g : Workgroup) (r slot bytes : Nat) : Bool :=
  match FMap.find g.rings r with
  | none => false
  | some q => decide (slot < q.n) && decide (bytes ≤ q.stride * 32)

/-- The rows of a far operand: the pieces of `len` bytes from base + m·pitch for 64 rows. -/
def farPieces (base : DWord) (pitch off len : Nat) : List (Nat × Nat) :=
  (List.range 64).flatMap (fun m => splitSectors ((base + BitVec.ofNat 64 (m * pitch + off)).toNat) len)

/-- A far descriptor read and checked, with the range's translations (R183, R185). -/
def State.withFar (s : State) (i : Instr) (at_ : DWord) (len : Nat) (k : State → MmaSrc → Host.Outcome State Fault Refusal) :
    Host.Outcome State Fault Refusal :=
  s.withBytes at_ 32 .read (fun s1 bs =>
    let base := BitVec.ofNat 64 (field bs 0 8)
    let pitch := field bs 8 4
    if base.toNat % 32 ≠ 0 ∨ pitch % 32 ≠ 0 then go (s1.raise .misaligned s1.w.activeLanes base)
    else if pitch < len ∨ (bs.drop 12).any (fun b => b != 0#8) then s1.badOperand i
    else
      match s1.checkPieces .read false false false (farPieces base pitch 0 len) [] with
      | .error (c, va) => go (s1.raise c s1.w.activeLanes (BitVec.ofNat 64 va))
      | .ok xl => k s1 (.far base pitch xl))

/-- An operand of an MMA: a ring slot large enough, or the next far descriptor. Goes on with the address of the descriptor
after it. -/
def State.withOperand (s : State) (i : Instr) (far : Bool) (r slot rowBytes n : Nat) (at_ : DWord)
    (k : State → MmaSrc → DWord → Host.Outcome State Fault Refusal) : Host.Outcome State Fault Refusal :=
  if far then s.withFar i at_ (n * rowBytes) (fun s1 src => k s1 src (at_ + 32#64))
  else if s.g.slotFits r slot (n * 64 * rowBytes) then k s (.ring r slot) at_
  else s.badOperand i

/-- The scale registers of one operand, for every lane, from the register its field names (R184). -/
def Warp.scaleRegs (w : Warp) (c : BitVec 6) (bsel n : Nat) : FMap Word :=
  (List.range ((bsel + n - 1) / 2 + 1)).foldl (fun (m : FMap Word) r =>
    lanes.foldl (fun (m : FMap Word) l => FMap.put m 0#32 (32 * r + l) (FMap.get w.vregs 0#32 (vkey (c.toNat + r) l))) m) []

/-- MMA at issue (R182 to R185); format 0 bf16, 1 f16, 2 nested integers. -/
def mmaRun (i : Instr) (o : Ops) (s : State) (fmt : Nat) : Host.Outcome State Fault Refusal :=
  s.mxIssue i o (fun s1 =>
    let x := o.ext.toNat
    let n := bitsNat x 24 21 + 1
    let ka := bitsNat x 27 25 + 2
    let kb := bitsNat x 30 28 + 2
    let bsel := bitsNat x 20 20
    let wa := operandRow fmt ka
    let wb := operandRow fmt kb
    let afar := bitNat x 6
    let bfar := bitNat x 7
    let at_ := s1.w.upair o.d
    if (afar || bfar) && at_.toNat % 32 != 0 then go (s1.raise .misaligned s1.w.activeLanes at_)
    else
      s1.withOperand i afar (bitsNat x 10 8) (bitsNat x 13 11) wa n at_ (fun s2 a at2 =>
        s2.withOperand i bfar (bitsNat x 16 14) (bitsNat x 19 17) wb n at2 (fun s3 b _ =>
          let ni := fmt == 2
          let op : MxOp := .mma fmt ka kb (ni && o.f.getLsbD 1) (ni && o.f.getLsbD 0) bsel n a b
            (if ni then s3.w.scaleRegs o.a bsel n else []) (if ni then s3.w.scaleRegs o.b bsel n else [])
          s3.enterMx i o n ((if afar then 64 * wa * n else 0) + (if bfar then 64 * wb * n else 0)) (x % 64) op)))

/-- MMA.BF16. -/
def execMmaBf16 (o : Ops) (s : State) : Host.Outcome State Fault Refusal := mmaRun (.mmaBf16 o) o s 0
/-- MMA.F16. -/
def execMmaF16 (o : Ops) (s : State) : Host.Outcome State Fault Refusal := mmaRun (.mmaF16 o) o s 1
/-- MMA.NI. -/
def execMmaNi (o : Ops) (s : State) : Host.Outcome State Fault Refusal := mmaRun (.mmaNi o) o s 2

/-- ACCZ (R190 to R192). -/
def execAccz (o : Ops) (s : State) : Host.Outcome State Fault Refusal :=
  let i : Instr := .accz o
  s.mxIssue i o (fun s1 => s1.enterMx i o 0 0 (o.ext.toNat % 64) .accz)

/-- The bytes of a row of an accumulator transfer: 4 or 2 an element, or an image (R190). -/
def accRow (ni half : Bool) : Nat := if ni then 64 else if half then 128 else 256

/-- The pieces of an accumulator transfer's range: 64 rows, and the scales of .ni (R190). -/
def accPieces (addr : DWord) (pitch row : Nat) (ni : Bool) : List (Nat × Nat) :=
  farPieces addr pitch 0 row ++ (if ni then splitSectors ((addr + BitVec.ofNat 64 (64 * pitch)).toNat) 64 else [])

/-- The offsets in the allotment of pieces that lie in it. -/
def Workgroup.padsOf (g : Workgroup) (ps : List (Nat × Nat)) : List Nat :=
  ps.filterMap (fun p => match g.loc [] p.1 p.2 with | some (.pad o) => some o | _ => none)

/-- The checks of a transfer's range (R191): the address and pitch, the bytes under R145, and the windows' sectors. -/
def State.withAccRange (s : State) (i : Instr) (acc : Access) (addr : DWord) (pitch row : Nat) (ni f32 : Bool)
    (k : State → FMap Nat → Host.Outcome State Fault Refusal) : Host.Outcome State Fault Refusal :=
  if addr.toNat % 32 ≠ 0 then go (s.raise .misaligned s.w.activeLanes addr)
  else if pitch % 32 ≠ 0 ∨ pitch < row then s.badOperand i
  else
    let ps := accPieces addr pitch row ni
    match s.checkPieces acc true true f32 ps [] with
    | .error (c, va) => go (s.raise c s.w.activeLanes (BitVec.ofNat 64 va))
    | .ok xl =>
      match s.fillAll (s.g.padsOf ps) with
      | .ok s1 => k s1 xl
      | .error (off, .fault c) => go (s.raise c s.w.activeLanes (BitVec.ofNat 64 (apertureBase + off)))
      | .error (off, .failed s1 c) => go (s1.raise c s1.w.activeLanes (BitVec.ofNat 64 (apertureBase + off)))
      | .error (_, .wait s1) => go (s1.stall .sectors)
      | .error (_, .ok s1) => k s1 xl

/-- ACCLD (R190 to R192). -/
def execAccld (o : Ops) (s : State) : Host.Outcome State Fault Refusal :=
  let i : Instr := .accld o
  s.mxIssue i o (fun s1 =>
    let bf := o.f == 1#4
    let row := accRow false bf
    let addr := s1.w.upair o.a + BitVec.ofInt 64 (memOfs o.ext)
    let pitch := if o.b = 61#6 then row else (s1.w.usrc 0#32 o.b).toNat
    s1.withAccRange i .read addr pitch row false false (fun s2 xl =>
      s2.enterMx i o 0 (64 * row) (o.ext.toNat % 64) (.accld bf addr pitch xl)))

/-- The flip a flip spec asks for: none when it breaks a rule of R190 or R191. -/
def Workgroup.flipOf (g : Workgroup) (v : Nat) : Option (Option (Nat × Nat)) :=
  if 512 ≤ v ∨ bitsNat v 7 6 ≠ 0 then none
  else if !(bitNat v 8) then some none
  else if (g.slotFull (bitsNat v 5 3) (bitsNat v 2 0)).isSome then some (some (bitsNat v 5 3, bitsNat v 2 0))
  else none

/-- ACCST (R190 to R192). -/
def execAccst (o : Ops) (s : State) : Host.Outcome State Fault Refusal :=
  let i : Instr := .accst o
  s.mxIssue i o (fun s1 =>
    let form := o.f.toNat
    let ni := form == 4
    let row := accRow ni (form == 1 || form == 3)
    let addr := s1.w.upair o.a + BitVec.ofInt 64 (memOfs o.ext)
    let pitch := if o.b = 61#6 then row else (s1.w.usrc 0#32 o.b).toNat
    let tile := o.ext.toNat % 64
    if addr.toNat % 32 ≠ 0 then go (s1.raise .misaligned s1.w.activeLanes addr)
    else
      match s1.g.flipOf (if o.d = 61#6 then 0 else (s1.w.usrc 0#32 o.d).toNat) with
      | none => s1.badOperand i
      | some flip =>
        s1.withAccRange i .write addr pitch row ni (form == 2 || form == 3) (fun s2 xl =>
          if (FMap.get s2.g.marks 0 tile).testBit 0 then
            go (s2.raise .accSuspect s2.w.activeLanes (BitVec.ofNat 64 tile))
          else s2.enterMx i o 0 (mxCharge i).2 tile (.accst form addr pitch xl flip)))

/-! ## The queue -/

/-- The head of a workgroup's matrix queue, while its engines run. -/
def Workgroup.mxHead (g : Workgroup) : Option MxEntry := if g.enginesRun then g.mx.head? else none

/-- Changes a matrix entry of the workgroup whose turn it is. -/
def State.mapMx (s : State) (id : Nat) (f : MxEntry → MxEntry) : State :=
  s.modG (fun g => { g with mx := g.mx.map (fun (e : MxEntry) => if e.id = id then f e else e) })

/-- A matrix entry completes: it leaves the queue and class W2 (R179). -/
def State.mxDone (s : State) (e : MxEntry) (fail : Option Fail) : State :=
  (s.modG (fun g => { g with mx := g.mx.filter (fun (x : MxEntry) => x.id != e.id) })).outReply ⟨s.g.serial, e.wid⟩ e.out [] fail

/-- Sets marks of an accumulator tile: 1 suspect, 2 poison. -/
def Workgroup.mark (g : Workgroup) (tile m : Nat) : Workgroup :=
  let old := FMap.get g.marks 0 tile
  { g with marks := FMap.put g.marks 0 tile (if old.testBit (m - 1) then old else old + m) }

/-- Replaces the contents of a tile. -/
def Workgroup.putTile (g : Workgroup) (tile : Nat) (xs : List Nat) : Workgroup :=
  let new := (xs.zipIdx.filter (fun p => p.1 != 0)).map (fun p => (4096 * tile + p.2, BitVec.ofNat 32 p.1))
  { g with acc := g.acc.filter (fun p => decide (p.1 < 4096 * tile)) ++ new
      ++ g.acc.filter (fun p => decide (4096 * (tile + 1) ≤ p.1)) }

/-- The 4,096 elements of a tile in row order. -/
def Workgroup.tileOf (g : Workgroup) (tile : Nat) : List Nat :=
  (List.range 4096).map (fun i => (FMap.get g.acc 0#32 (4096 * tile + i)).toNat)

/-- Whether the slots of an MMA read full. -/
def Workgroup.slotsFull (g : Workgroup) (a b : MmaSrc) : Bool :=
  let full := fun (x : MmaSrc) => match x with | .ring r slot => g.slotFull r slot == some true | .far _ _ _ => true
  full a && full b

/-- Whether the head of a workgroup's matrix queue is an MMA to be released now (R178, R186). -/
def State.releaseDue (s : State) (g : Workgroup) : Bool :=
  match g.mxHead with
  | some e =>
    (match e.op with | .mma _ _ _ _ _ _ _ a b _ _ => g.slotsFull a b | _ => false) && !e.released && s.performed e.cover
  | none => false

/-- MMA_RELEASE: the task table releases the MMA, which asks the tile governor for leave (R186, R355). -/
def execMmaRelease (wg : Nat) (s : State) : Host.Outcome State Fault Refusal :=
  let s0 := s.focusWg wg
  match s0.g.mxHead with
  | some e =>
    if s0.g.serial = wg ∧ s0.releaseDue s0.g then
      go ((s0.mapMx e.id (fun x => { x with released := true, granted := false, relTime := s0.clock.toNat })).askPower
        s0.g.tile wg e.id)
    else go s0
  | none => go s0

/-! ## The pair array (R186 to R189) -/

/-- A pair's state. -/
def State.pair (s : State) (p : Nat) : Pair := FMap.get s.pkg.pairs Pair.fresh p

/-- Changes a pair's state. -/
def State.modPair (s : State) (p : Nat) (f : Pair → Pair) : State :=
  { s with pkg := { s.pkg with pairs := FMap.put s.pkg.pairs Pair.fresh p (f (s.pair p)) } }

/-- Whether both arrays of a pair are fenced (R195). -/
def Pair.dead (p : Pair) : Bool := p.fenced &&& 0x0F#8 != 0#8 && p.fenced &&& 0xF0#8 != 0#8

/-- Whether a workgroup has an MMA that may take the array: released and with leave. -/
def Workgroup.mmaReady (g : Workgroup) : Option MxEntry :=
  match g.mxHead with
  | some e => (match e.op with
      | .mma _ _ _ _ _ _ _ _ _ _ _ => if e.released && e.granted then some e else none
      | _ => none)
  | none => none

/-- Which of two waiting MMAs the array takes: the higher class, then the one released first (R188). -/
def mmaBefore (c1 t1 c2 t2 : Nat) : Bool := decide (c2 < c1) || (c1 == c2 && decide (t1 < t2))

/-- The MMA whose step the array takes next, with its workgroup. -/
def State.arrayNext (s : State) (pair : Nat) : Option (Nat × MxEntry) :=
  let cands := s.allWgs.filterMap (fun g => if pairOfCore g.core = pair then g.mmaReady.map (fun e => (g, e)) else none)
  (cands.foldl (fun (best : Option (Workgroup × MxEntry)) c =>
    match best with
    | none => some c
    | some b => if mmaBefore c.1.cls c.2.relTime b.1.cls b.2.relTime then some c else some b) none).map
    (fun b => (b.1.serial, b.2))

/-- The pieces of an operand's rows for one step, row by row (R183). -/
def Workgroup.operandRows (g : Workgroup) (src : MmaSrc) (w step : Nat) : List (List (Nat × Nat)) :=
  match src with
  | .ring r slot =>
    match FMap.find g.rings r with
    | none => []
    | some q => (List.range 64).map (fun m =>
        splitSectors (apertureBase + (q.base + slot * q.stride) * 32 + step * 64 * w + m * w) w)
  | .far base pitch _ =>
    (List.range 64).map (fun m => splitSectors ((base + BitVec.ofNat 64 (m * pitch + step * w)).toNat) w)

/-- The translations of an operand. -/
def MmaSrc.xl : MmaSrc → FMap Nat
  | .ring _ _ => []
  | .far _ _ x => x

/-- The bytes of an operand's rows, or the failure that a read returned. -/
def State.rowsBytes (s : State) (xl : FMap Nat) (rows : List (List (Nat × Nat))) : Except Cause (List (List Byte)) :=
  rows.foldr (fun r acc =>
    match acc, s.piecesBytes xl r with
    | .ok ls, .ok bs => .ok (bs :: ls)
    | .error c, _ => .error c
    | _, .error c => .error c) (.ok [])

/-- The K values of a row of floats. -/
def halfWords (bs : List Byte) : List Nat := (List.range (bs.length / 2)).map (fun j => field bs (2 * j) 2)

/-- The scale byte of a row or column at a step (R71, R184). -/
def scaleAt (sc : FMap Word) (bsel step m : Nat) : Nat :=
  let b := (bsel + step) % 2
  let x := (FMap.get sc 0#32 (32 * ((bsel + step) / 2) + m % 32)).toNat
  bitsNat x (8 * (2 * b + m / 32) + 7) (8 * (2 * b + m / 32))

/-- A tile after one step on its operands' rows (R73, R74, R186). -/
def stepTile (fmt ka kb : Nat) (sa sb : Bool) (bsel step : Nat) (scA scB : FMap Word) (tile : List Nat)
    (as bs : List (List Byte)) : List Nat :=
  if fmt = 2 then
    let elems := fun (k : Nat) (sgn : Bool) (r : List Byte) =>
      (List.range 64).map (fun j => planeElem (!sgn) k (r.map (fun b => b.toNat)) j)
    let ra := as.map (elems ka sa)
    let rb := bs.map (elems kb sb)
    tile.zipIdx.map (fun (c, i) =>
      niStep c (ra.getD (i / 64) []) (rb.getD (i % 64) []) ka kb (scaleAt scA bsel step (i / 64)) (scaleAt scB bsel step (i % 64)))
  else
    let f := if fmt = 0 then fmtBF16 else fmtF16
    let ra := as.map halfWords
    let rb := bs.map halfWords
    tile.zipIdx.map (fun (c, i) => floatStep f c (ra.getD (i / 64) []) (rb.getD (i % 64) []))

/-- The end of an MMA: its slots are set empty, once if they are the same, and it completes (R179, R186). -/
def State.mmaEnd (s : State) (e : MxEntry) (a b : MmaSrc) : State :=
  let empty := fun (s : State) (x : MmaSrc) => match x with | .ring r slot => s.setSlot s.g.serial r slot false | .far _ _ _ => s
  ((empty (empty s a) b)).mxDone e none

/-- One step applied: the pair's count and the tiles written since the last pattern, and the entry's progress. -/
def State.stepDone (s : State) (pair : Nat) (e : MxEntry) (steps : Nat) (a b : MmaSrc) : State :=
  let key := (s.g.serial, e.acc)
  let s1 := s.modPair pair (fun p =>
    { p with steps := p.steps + 1, written := if p.written.contains key then p.written else p.written ++ [key] })
  if e.step + 1 = steps then s1.mmaEnd e a b else s1.mapMx e.id (fun x => { x with step := x.step + 1 })

/-- MMA_STEP: the array takes one step of the MMA it chooses. With both arrays fenced the MMA completes without its steps and
its tile is marked suspect (R195). A far byte that reads POISON poisons the tile (R194). -/
def execMmaStep (pair : Nat) (s : State) : Host.Outcome State Fault Refusal :=
  match s.arrayNext pair with
  | none => go s
  | some (wg, e) =>
    let s0 := { s.focusWg wg with acting := e.id }
    match e.op with
    | .mma fmt ka kb sa sb bsel steps a b scA scB =>
      if (s0.pair pair).dead then go ((s0.modG (fun g => g.mark e.acc 1)).mmaEnd e a b)
      else
        let rowsA := s0.g.operandRows a (operandRow fmt ka) e.step
        let rowsB := s0.g.operandRows b (operandRow fmt kb) e.step
        match s0.prepare a.xl rowsA.flatten with
        | .wait s1 => go s1
        | .fail _ _ => go ((s0.modG (fun g => g.mark e.acc 2)).stepDone pair e steps a b)
        | .ok s1 =>
          match s1.prepare b.xl rowsB.flatten with
          | .wait s2 => go s2
          | .fail _ _ => go ((s1.modG (fun g => g.mark e.acc 2)).stepDone pair e steps a b)
          | .ok s2 =>
            match s2.rowsBytes a.xl rowsA, s2.rowsBytes b.xl rowsB with
            | .ok as, .ok bs =>
              let tile := stepTile fmt ka kb sa sb bsel e.step scA scB (s2.g.tileOf e.acc) as bs
              go ((s2.modG (fun g => g.putTile e.acc tile)).stepDone pair e steps a b)
            | _, _ => go ((s2.modG (fun g => g.mark e.acc 2)).stepDone pair e steps a b)
    | _ => go s0

/-! ## Accumulator transfers (R192 to R194) -/

/-- Whether the head of a workgroup's matrix queue is an accumulator instruction to be performed now (R178, R203). -/
def State.accDue (s : State) (g : Workgroup) : Bool :=
  match g.mxHead with
  | some e => (match e.op with | .mma _ _ _ _ _ _ _ _ _ _ _ => false | _ => true) && s.performed e.cover
  | none => false

/-- The tile with its marks cleared (R192). -/
def Workgroup.unmark (g : Workgroup) (tile : Nat) : Workgroup := { g with marks := FMap.erase g.marks tile }

/-- An element of the bytes that ACCLD reads. -/
def accElem (bf : Bool) (bs : List Byte) (i : Nat) : Nat :=
  if bf then (fconvert fmtBF16 fmtF32 .rn (field bs (2 * i) 2)).val else field bs (4 * i) 4

/-- The bytes ACCST writes for a row of elements in a plain form (R192). -/
def accBytes (form : Nat) (row : List Nat) : List Byte :=
  match form with
  | 0 => row.flatMap (leBytes 4)
  | 1 => row.flatMap (fun x => leBytes 2 (fconvert fmtF32 fmtBF16 .rn x).val)
  | _ => (planeImage (row.map (fun x => (qpackElem false (qscaleByte row) x).val))).map (BitVec.ofNat 8)

/-- One write of an ACCST: the bytes of a piece, or an element added to, in an add form. -/
inductive AccJob where
  | put (va : Nat) (bs : List Byte)
  | add (va n form v : Nat)

/-- The address of a write. -/
def AccJob.va : AccJob → Nat
  | .put va _ | .add va _ _ _ => va

/-- The key in memory that a write goes to; none at the port. -/
def AccJob.key (j : AccJob) (g : Workgroup) (xl : FMap Nat) : Option Nat :=
  match g.loc xl j.va (match j with | .put _ bs => bs.length | .add _ n _ _ => n) with
  | some (.mem k) => some k
  | _ => none

/-- The access by which a write goes to a home that does not perform it at once. -/
def AccJob.ask (j : AccJob) (agent key : Nat) : Ask :=
  match j with
  | .put _ bs => writeAsk agent (cellsAt key bs)
  | .add _ n form v => atomicAsk agent key n (64 + form) v

/-- Performs a write at the port, or at a home that performs it at once. -/
def AccJob.run (j : AccJob) (s : State) (xl : FMap Nat) : Written :=
  match j with
  | .put va bs => s.writePiece xl va bs
  | .add va n form v => s.changePiece xl va n (64 + form) v (fun old => accAdd form old v)

/-- The pieces of consecutive bytes, as writes. -/
def putJobs (va : Nat) (bs : List Byte) : List AccJob :=
  (splitSectors va bs.length).map (fun p => .put p.1 ((bs.drop (p.1 - va)).take p.2))

/-- The writes of an ACCST in order (R192, R193): its rows, and the scales of a nested-integer form after them. -/
def accJobs (form : Nat) (addr : DWord) (pitch : Nat) (tile : List Nat) : List AccJob :=
  let row := fun (m : Nat) => (tile.drop (64 * m)).take 64
  let at_ := fun (m : Nat) => (addr + BitVec.ofNat 64 (m * pitch)).toNat
  let n := if form = 2 then 4 else 2
  (List.range 64).flatMap (fun m =>
    if form = 2 ∨ form = 3 then (List.range 64).map (fun j => AccJob.add (at_ m + n * j) n form ((row m).getD j 0))
    else putJobs (at_ m) (accBytes form (row m)))
  ++ (if form = 4 then putJobs (at_ 64) ((List.range 64).map (fun m => BitVec.ofNat 8 (qscaleByte (row m)))) else [])

/-- What writing the rows of an ACCST comes to: the state, the failure with the address of its first element, and whether a home has been
asked for a write whose answer is awaited. -/
structure AccWrite where
  s : State
  fail : Option (Cause × Nat)
  waits : Bool := false

/-- Performs writes in order until one is refused (R194). -/
def runJobs (xl : FMap Nat) : List AccJob → State → AccWrite
  | [], s => { s := s, fail := none }
  | j :: js, s =>
    match j.run s xl with
    | .ok s1 => runJobs xl js s1
    | .fail s1 c => { s := s1, fail := some (c, j.va) }
    | .wait s1 => { s := s1, fail := none, waits := true }

/-- Asks the homes for the writes to memory, each once the one before is performed, until one is refused. -/
def askJobs (xl : FMap Nat) (s : State) : List AccJob → AccWrite
  | [] => { s := s, fail := none }
  | j :: js =>
    match j.key s.g xl with
    | none => askJobs xl s js
    | some k =>
      match s.askAll (l1Of s.g.core) [j.ask s.acting k] with
      | .wait s1 => { s := s1, fail := none, waits := true }
      | .ok xs => match xs.findSome? (fun x => x.1) with | some c => { s := s, fail := some (c, j.va) } | none => askJobs xl s js

/-- Performs the writes of an ACCST (R192, R193): at once, when every home does, else by requests, the port's after them. -/
def accStore (s : State) (form : Nat) (addr : DWord) (pitch : Nat) (xl : FMap Nat) (tile : List Nat) : AccWrite :=
  let jobs := accJobs form addr pitch tile
  let asked := fun (j : AccJob) =>
    match j.key s.g xl with
    | some k => !(s.direct true (k - k % 32) 32) || s.fab.asks.any (fun b => b.same (j.ask s.acting k))
    | none => false
  if jobs.any asked then
    let x := askJobs xl s jobs
    if x.waits || x.fail.isSome then x else runJobs xl (jobs.filter (fun j => (j.key s.g xl).isNone)) x.s
  else runJobs xl jobs s

/-- ACCLD when its turn has come: POISON poisons the tile and leaves its elements. -/
def State.accLoad (s : State) (e : MxEntry) (bf : Bool) (addr : DWord) (pitch : Nat) (xl : FMap Nat) : State :=
  let ps := farPieces addr pitch 0 (accRow false bf)
  match s.prepare xl ps with
  | .wait s1 => s1
  | .fail _ _ => (s.modG (fun g => g.mark e.acc 2)).mxDone e none
  | .ok s1 =>
    match s1.piecesBytes xl ps with
    | .error _ => (s1.modG (fun g => g.mark e.acc 2)).mxDone e none
    | .ok bs =>
      (s1.modG (fun g => (g.putTile e.acc ((List.range 4096).map (accElem bf bs))).unmark e.acc)).mxDone e none

/-- ACCST when its turn has come: a marked tile writes nothing (R194). -/
def State.accDrain (s : State) (e : MxEntry) (form : Nat) (addr : DWord) (pitch : Nat) (xl : FMap Nat)
    (flip : Option (Nat × Nat)) : State :=
  let mark := FMap.get s.g.marks 0 e.acc
  let fail := fun (c : Cause) (a : Nat) => some ({ cause := c, lanes := e.lns, addr := BitVec.ofNat 64 a } : Fail)
  if mark.testBit 0 then s.mxDone e (fail .accSuspect e.acc)
  else if mark.testBit 1 then s.mxDone e (fail .poison e.acc)
  else
    match s.prepareWrite xl (accPieces addr pitch (accRow (form == 4) (form == 1 || form == 3)) (form == 4)) with
    | .wait s1 => s1
    | .fail c va => s.mxDone e (fail c va)
    | .ok s1 =>
      let x := accStore s1 form addr pitch xl (s1.g.tileOf e.acc)
      if x.waits then x.s else
      match x.fail with
      | some (c, va) => x.s.mxDone e (fail c va)
      | none =>
        match flip with
        | some (r, slot) => (x.s.setSlot x.s.g.serial r slot true).mxDone e none
        | none => x.s.mxDone e none

/-- ACC_TURN: the accumulator instruction at the head of a matrix queue is performed (R192). -/
def execAccTurn (wg : Nat) (s : State) : Host.Outcome State Fault Refusal :=
  let s0 := s.focusWg wg
  if s0.g.serial = wg ∧ s0.accDue s0.g then
    match s0.g.mxHead with
    | none => go s0
    | some e =>
      let s1 := { s0 with acting := e.id }
      match e.op with
      | .accz => go ((s1.modG (fun g => (g.putTile e.acc []).unmark e.acc)).mxDone e none)
      | .accld bf addr pitch xl => go (s1.accLoad e bf addr pitch xl)
      | .accst form addr pitch xl flip => go (s1.accDrain e form addr pitch xl flip)
      | .mma _ _ _ _ _ _ _ _ _ _ _ => go s0
  else go s0

/-! ## Clove patterns (R195, R360) -/

/-- Whether a pattern is due on a pair: no step runs before it. -/
def Pair.patternDue (p : Pair) : Bool := decide (p.interval ≤ p.steps)

/-- CLOVE_PATTERN: `failed` names the sub-arrays that fail it: bits 3–0 of the even core, 7–4 of the odd one. -/
def execClovePattern (pair : Nat) (failed : BitVec 8) (s : State) : Host.Outcome State Fault Refusal :=
  let p := s.pair pair
  let new := failed &&& ~~~p.fenced
  let s1 := s.modPair pair (fun p => { p with steps := 0, interval := s.pkg.clove })
  if new = 0#8 then go (s1.modPair pair (fun p => { p with written := [] }))
  else
    let s2 := p.written.foldl (fun (s : State) (t : Nat × Nat) => s.mapWg t.1 (fun g => g.mark t.2 1)) s1
    let s3 := s2.modPair pair (fun p => { p with fenced := p.fenced ||| failed })
    let subs := (List.range 8).filter (fun j => new.getLsbD j)
    go (subs.foldl (fun (s : State) j =>
      s.post { kind := 5, cause := 0x56, core := 2 * pair + j / 4, elem := j % 4, extra := BitVec.ofNat 64 p.written.length }) s3)

end Sys2Proof.Machine
end

