-- ==== Sys2Proof/Machine/CourierBase.lean ====
section
/-! DEFINITION. What the Courier's operations and events share: contexts and their descriptors, a context's accesses to
memory, peers and messages, the start, the stop and the end of an itinerary, and its charges (R206 to R222, R362). -/

namespace Sys2Proof.Machine

/-! ## Contexts -/

/-- A context. -/
def State.ctx (s : State) (n : Nat) : Ctx := (FMap.find s.courier.ctxs n).getD (Ctx.idle n)

/-- Changes a context. -/
def State.modCtx (s : State) (n : Nat) (f : Ctx → Ctx) : State :=
  { s with courier := { s.courier with ctxs := FMap.insert s.courier.ctxs n (f (s.ctx n)) } }

/-- Fields of a context's descriptor (R206). -/
def Ctx.rank (c : Ctx) : Nat := field c.desc 0 2
def Ctx.nrank (c : Ctx) : Nat := field c.desc 2 2
def Ctx.prio (c : Ctx) : Nat := field c.desc 4 1 % 4
def Ctx.chunk (c : Ctx) : Nat := 2 ^ field c.desc 5 1
def Ctx.compl (c : Ctx) : DWord := BitVec.ofNat 64 (field c.desc 0x10 8)
def Ctx.flagAddr (c : Ctx) (n : Nat) : Nat := field c.desc 0x18 8 + 4 * n
def Ctx.status (c : Ctx) : DWord := BitVec.ofNat 64 (field c.desc 0x20 8)
def Ctx.slotBase (c : Ctx) (b : Nat) : Nat := field c.desc (0x30 + 16 * b) 8
def Ctx.slotLen (c : Ctx) (b : Nat) : Nat := field c.desc (0x38 + 16 * b) 8

/-- A chunk register (R212). -/
def Ctx.reg (c : Ctx) (n : Nat) : Word := FMap.get c.regs 0#32 n

/-- The package and context of a rank (R206, R211). -/
def Ctx.target (c : Ctx) (p : Nat) : Nat × Nat :=
  let e := field c.desc (256 + 4 * p) 4
  (bitsNat e 9 0, bitsNat e 15 10)

/-- What the context holds about a peer (R362). -/
def Ctx.peer (c : Ctx) (p : Nat) : PeerState := FMap.get c.peers { sends := 0, recvs := 0, grants := [], signals := 0 } p

/-- Changes what the context holds about a peer. -/
def Ctx.modPeer (c : Ctx) (p : Nat) (f : PeerState → PeerState) : Ctx :=
  { c with peers := FMap.put c.peers { sends := 0, recvs := 0, grants := [], signals := 0 } p (f (c.peer p)) }

/-- Whether a descriptor's fields meet the rules of R206, for a context's generation. -/
def descOk (gen : BitVec 4) (d : List Byte) : Bool :=
  let rank := field d 0 2
  let n := field d 2 2
  decide (1 ≤ n) && decide (n ≤ 1024) && decide (rank < n)
    && decide (field d 4 1 < 4) && decide (12 ≤ field d 5 1) && decide (field d 5 1 ≤ 20)
    && field d 6 1 == gen.toNat && field d 7 1 == 0
    && field d 8 8 % 4 == 0 && field d 0x10 8 % 4 == 0 && field d 0x18 8 % 64 == 0 && field d 0x20 8 % 64 == 0
    && field d 0x2C 4 == 0
    && (List.range 8).all (fun b => field d (0x30 + 16 * b) 8 % 16 == 0)
    && (d.drop 0xB0).all (fun b => b == 0#8)

/-- Whether the entries of a rank map meet their rule. -/
def mapOk (m : List Byte) (n : Nat) : Bool := (List.range n).all (fun p => field m (4 * p + 2) 2 == 0)

/-! ## A context's accesses to memory (R218) -/

/-- What an access of a context comes to. -/
inductive CtxRead where
  | ok (s : State) (bs : List Byte)
  | fail (s : State) (c : Cause) (va : Nat)
  | wait (s : State)

/-- The pieces of a range, split at the 64-KiB pages. -/
def splitPages (va n : Nat) : List (Nat × Nat) :=
  (List.range ((va % 65536 + n + 65535) / 65536)).map (fun k =>
    let lo := max va (va - va % 65536 + 65536 * k)
    let hi := min (va + n) (va - va % 65536 + 65536 * k + 65536)
    (lo, hi - lo))

/-- Translates the pages of a range for a context: keys and lengths; neither aperture may be named. -/
def State.ctxKeys (s : State) (c : Ctx) (acc : Access) : List (Nat × Nat) → Except (Cause × Nat) (List (Nat × Nat))
  | [] => .ok []
  | (va, n) :: rest =>
    if 2 ^ 57 < va + n || inFixedRange va then .error (.protection, va)
    else
      match translate s c.space c.level acc va with
      | .error e => .error (e, va)
      | .ok (key, _) =>
        match s.ctxKeys c acc rest with
        | .error e => .error e
        | .ok ks => .ok ((key, n) :: ks)

/-- A context reads memory at the home, as write-through loads at package scope (R218, R222). -/
def State.ctxRead (s : State) (c : Ctx) (va n : Nat) : CtxRead :=
  match s.ctxKeys c .read (splitPages va n) with
  | .error (.walkWait, a) => .wait (s.askWalk pkgParty c.id c.space a false)
  | .error (e, a) => .fail s e a
  | .ok ks =>
    match s.homeGets pkgParty c.id ks with
    | .wait s1 => .wait s1
    | .fail e => .fail s e va
    | .ok bs => .ok s bs

/-- The cells of bytes at translated pages. -/
def keysCells : List (Nat × Nat) → List Byte → List Host.Cell
  | [], _ => []
  | (key, n) :: rest, bs => cellsAt key (bs.take n) ++ keysCells rest (bs.drop n)

/-- A context writes memory, as write-through stores at package scope. -/
def State.ctxWrite (s : State) (c : Ctx) (va : Nat) (bs : List Byte) : CtxRead :=
  match s.ctxKeys c .write (splitPages va bs.length) with
  | .error (.walkWait, a) => .wait (s.askWalk pkgParty c.id c.space a false)
  | .error (e, a) => .fail s e a
  | .ok ks =>
    match s.homePut pkgParty c.id (keysCells ks bs) with
    | .fail s1 e => .fail s1 e va
    | .wait s1 => .wait s1
    | .ok s1 => .ok s1 []

/-- A write to the completion word: in the starting workgroup's allotment when it lies in the scratchpad aperture, redirected
to its image while it is saved; else in memory (R206, R217). The whole-block writes of the status block take the same way (DESIGN CHOICE, log
113: R206 names the aperture for the completion word only). -/
def State.ctxWriteWord (s : State) (c : Ctx) (va : Nat) (bs : List Byte) : CtxRead :=
  if inFixedRange va then
    let s1 := s.focusWg c.wg
    if c.wg = 0 ∨ s1.g.serial ≠ c.wg ∨ s1.g.place = .complete then .fail s .protection va
    else
      match apertureOf s1.g.padUnits va bs.length with
      | some (.ok (.pad off)) =>
        if s1.g.place = .saved then (if s1.g.padBad off bs.length then .fail s1 .poison va else .ok (s1.padWrite off bs) [])
        else
          match s1.fillAt off with
          | .fault e => .fail s e va
          | .failed s2 e => .fail s2 e va
          | .wait s2 => .wait s2
          | .ok s2 => .ok ((s2.usePads [off]).padWrite off bs) []
      | _ => .fail s .protection va
  else s.ctxWrite c va bs

/-! ## Stopping and ending (R208, R219, R222) -/

/-- A message of another generation than its context's is dropped, and the drop is counted by the context and by the package (R209, R274,
R275). -/
def State.dropMessage (s : State) (n : Nat) : State := (s.modCtx n (fun c => { c with drops := c.drops + 1 })).count 7

/-- The kind-3 record of a context. -/
def ctxRecord (n code : Nat) (addr : DWord) (token : Nat) : Rec :=
  { kind := 3, cause := code, ctx := n, addr := addr, token := token }

/-- The first 16 bytes of the status block (R208). -/
def statusHead (st code ops : Nat) (addr : DWord) : List Byte :=
  leBytes 4 (code * 256 + st) ++ leBytes 4 ops ++ leBytes 8 addr.toNat

/-- Stops a running context with a fault code (R222): its sends are abandoned, its grants withdrawn; the status block and the
completion word are to be written, after the writes of its start. The block gets the address of the word that the context has reached, also
when a queued send is what failed, and its count of chunk operations here and at HALT only (DESIGN CHOICE, log 113). -/
def State.stopCtx (s : State) (n code : Nat) : State :=
  let c := s.ctx n
  if c.st ≠ 1 ∨ c.ending.isSome then s
  else
    s.modCtx n (fun c => { c with
      sends := [], mcast := [], wait := .none, parked := 0, word := none, ending := some code
      todo := c.todo ++ [(c.status, statusHead (if code = 7 then 4 else 3) code c.ops c.pc), (c.compl, leBytes 4 (0x80000000 + code))] })

/-- A running context parks on a token for a TRANSLATION fault; its watchdog is suspended (R222). -/
def State.parkCtx (s : State) (n : Nat) (va : Nat) : State :=
  let (s1, t) := s.parkFault (.ctx n) [] (ctxRecord n Cause.translation.code (BitVec.ofNat 64 va) 0)
  s1.modCtx n (fun c => { c with parked := t })

/-- The leaf whose address a record gives, when a malformed one caused a failure (R238). -/
def State.leafOf (s : State) (c : Ctx) (e : Cause) (va : Nat) : Option DWord :=
  let a := s.recordAddr c.space e (BitVec.ofNat 64 va)
  if a = BitVec.ofNat 64 va then none else some a

/-- A failure of a running context's access: a TRANSLATION fault parks it, anything else stops it with MEMORY (R222). -/
def State.ctxFail (s : State) (n : Nat) (c : Cause) (va : Nat) : State :=
  if c = .translation then s.parkCtx n va else (s.modCtx n (fun x => { x with leaf := s.leafOf x c va })).stopCtx n 4

/-- The end of an itinerary: the report of a stop, the outstanding operation or the packet told, and the context idle with its
per-peer state kept (R219, R222, R362). -/
def State.finishCtx (s : State) (n code : Nat) : State :=
  let c := s.ctx n
  let s1 := s.modCtx n (fun c => { Ctx.idle n with gen := c.gen, quarantined := c.quarantined, peers := c.peers, drops := c.drops })
  let s2 := if code = 0 then s1 else s1.post (ctxRecord n code (c.leaf.getD c.pc) 0)
  if c.wg = 0 then
    let st := match code with | 0 => 0 | 6 => 2 | 7 => 4 | _ => 3
    { s2 with packets := s2.packets.map (fun p => if p.id = c.packet then { p with status := max p.status st, finished := true } else p) }
  else s2.outReply ⟨c.wg, c.wid⟩ c.out [] none

/-- The next write of a context's start or end. A write of the end that fails otherwise than by TRANSLATION is lost, with a
record of its own (R222). -/
def State.ctxTodo (s : State) (n : Nat) (va : DWord) (bs : List Byte) : State :=
  let c := s.ctx n
  let drop := fun (s : State) => s.modCtx n (fun c => { c with todo := c.todo.drop 1 })
  match s.ctxWriteWord c va.toNat bs with
  | .ok s1 _ => drop s1
  | .wait s1 => s1
  | .fail s1 e a =>
    if e = .translation then s1.parkCtx n a
    else if c.ending.isSome then (drop s1).post (ctxRecord n 4 (s1.recordAddr c.space e (BitVec.ofNat 64 a)) 0)
    else (drop s1).ctxFail n e a

/-! ## Starting (R205, R206, R208, R219) -/

/-- Starts an itinerary on an idle context: the status block is to be written with state 1 and an empty bitmap. -/
def State.startCtx (s : State) (n : Nat) (itin : DWord) (desc : List Byte) (c0 : Word) (space level : Nat) (f : Ctx → Ctx) :
    State :=
  let (s1, id) := s.fresh
  s1.modCtx n (fun c => f { Ctx.idle n with
    st := 1, gen := c.gen, peers := c.peers, drops := c.drops, desc := desc
    regs := FMap.put [] 0#32 0 c0, pc := itin, space := space, level := level, id := id
    todo := [(BitVec.ofNat 64 (field desc 0x20 8), leBytes 4 1 ++ List.replicate 252 0#8)] })

/-! ## Peers and messages (R209, R211, R214) -/

/-- The peer rank of a word, or the fault code (R211). -/
def Ctx.peerOf (c : Ctx) (w : Itin) : Except Nat Nat :=
  let off : Int := if w.flags.getLsbD 1 then ((c.reg (w.peer.toNat % 16)).toNat : Int)
    else if w.flags.getLsbD 0 then (w.peer.toNat : Int) else w.peer.toInt
  if w.flags.getLsbD 0 then (if off < (c.nrank : Int) then .ok off.toNat else .error 2)
  else .ok (((c.rank : Int) + off) % (c.nrank : Int)).toNat

/-- The message of a context to a rank: to a context of this package, or outside. -/
def State.toRank (s : State) (n p seq : Nat) (here : CtxMsg → Instr) (out : Nat → CtxMsg → OutMsg) : State :=
  let c := s.ctx n
  let (pkg, ctx) := c.target p
  let m : CtxMsg := { ctx := ctx, gen := c.gen, rank := c.rank, seq := seq }
  if pkg = Config.pkgid then s.push (here m) else s.tellTo pkg (out pkg m)

/-- A chunk of a slot: its address and length, or the fault code RANGE (R207). -/
def Ctx.chunkOf (c : Ctx) (b j : Nat) : Except Nat (Nat × Nat) :=
  let len := c.slotLen b
  if len ≤ j * c.chunk then .error 2 else .ok (c.slotBase b + j * c.chunk, min c.chunk (len - j * c.chunk))

/-- The chunks of two slots, of one length and whole elements (R213, R216). -/
def Ctx.chunkPair (c : Ctx) (sa sb j red : Nat) : Except Nat (Nat × Nat × Nat) :=
  match c.chunkOf sa j, c.chunkOf sb j with
  | .ok (a, n), .ok (b, m) =>
    if n ≠ m ∨ (red ≠ 0 ∧ n % redSize red ≠ 0) then .error 8 else .ok (a, b, n)
  | .error e, _ => .error e
  | _, .error e => .error e

/-- A reduction of chunk bytes, element by element (R216). -/
def combineBytes (red : Nat) (xs ys : List Byte) : List Byte :=
  let n := redSize red
  (List.range (xs.length / n)).flatMap (fun i => leBytes n (redOp red (field xs (n * i) n) (field ys (n * i) n)))

/-! ## Charges (R219, R221) -/

/-- What a charge of a context comes to. -/
inductive CtxPay where
  | paid (s : State)
  | held (s : State)
  /-- the reserve of its queue is being read -/
  | wait (s : State)
  | stop

/-- Debits bytes for a context, from its starting workgroup or its packet's purse, which a packet with `REFILL` raises to its
amount; a charge not covered is held, and the workgroup treated as exhausted. An amount that is itself below the charge stops the itinerary
with no refill, and a workgroup that completed OK goes on paying from the purse it left (DESIGN CHOICE, log 114). -/
def State.ctxPay (s : State) (n bytes : Nat) : CtxPay :=
  let c := s.ctx n
  if bytes = 0 then .paid s
  else if c.wg ≠ 0 then
    let s1 := s.focusWg c.wg
    if s1.g.serial ≠ c.wg ∨ (s1.g.place = .complete ∧ s1.g.status = 2) then .stop
    else if s1.g.coversNow c.held bytes then .paid ((s1.debit 0 bytes).modCtx n (fun c => { c with held := false }))
    else .held ((if s1.g.heldKnown then s1 else s1.holdFor).modCtx n (fun c => { c with held := true }))
  else if bytes ≤ c.purse then .paid (s.modCtx n (fun c => { c with purse := c.purse - bytes }))
  else
    match s.packets.find? (fun p => p.id == c.packet) with
    | none => .stop
    | some p =>
      let amount := field p.bytes 0x28 8 % 2 ^ 48
      if !(bitNat (field p.bytes 0 2) 11) || decide (amount < bytes) then .stop
      else
        match s.drawReserve p.queue 0 (amount - c.purse) with
        | .short => .stop
        | .wait s1 => .wait s1
        | .ok s1 => .paid (s1.modCtx n (fun c => { c with purse := amount - bytes }))

/-- Whether a charge may be tried: it is covered, or trying it has an effect. -/
def State.payReady (s : State) (c : Ctx) (bytes : Nat) : Bool :=
  if c.wg = 0 then (match s.packets.find? (fun p => p.id == c.packet) with | some p => s.reserveKnown p.queue | none => true)
  else
    match s.findWg c.wg with
    | none => true
    | some g => !c.held || g.coversNow true bytes || (g.place == .complete && g.status == 2)

/-- The code with which a context stops because of its workgroup: BUDGET after it completed BUDGET_EXHAUSTED, ABORTED when its
grid is aborted (R221, R317). -/
def State.ctxDoom (s : State) (c : Ctx) : Option Nat :=
  if c.wg = 0 ∨ c.ending.isSome then none
  else
    match s.findWg c.wg with
    | none => none
    | some g =>
      if g.place = .complete ∧ g.status = 2 then some 6
      else
        match s.findGrid g.grid with
        | some h => if h.aborted then some (if h.status = 2 then 6 else 7) else none
        | none => none

/-- The state that R208 gives a context: 0 idle, 1 running, and while it is ending 2 halted, 3 faulted, 4 aborted (R208, R209). -/
def Ctx.state (c : Ctx) : Nat :=
  match c.ending with
  | none => c.st
  | some 0 => 2
  | some 7 => 4
  | some _ => 3

/-- A context as the data path acts for it: the path's accesses are answered apart from those of the context's words. -/
def Ctx.onPath (c : Ctx) : Ctx := { c with id := 2 ^ 62 + c.id }

end Sys2Proof.Machine
end

