-- ==== Sys2Proof/Machine/Porter.lean ====
section
/-! DEFINITION. The Porter: TCOPY, TGATH, TSCAT and TWALK at issue, the start of a queued command, its transfer row by row, its
end, and the posted reservations of a rank transfer (R196 to R203, R215). -/

namespace Sys2Proof.Machine

/-! ## The record (R197 to R200, R202) -/

/-- The element size in bytes of a record. -/
def recSize (r : List Byte) : Nat := 2 ^ (field r 0x50 4 % 8)
/-- The reduction code of a record. -/
def recRed (r : List Byte) : Nat := bitsNat (field r 0x50 4) 7 4
def recRank (r : List Byte) : Bool := bitNat (field r 0x50 4) 8
def recCompl (r : List Byte) : Bool := bitNat (field r 0x50 4) 9
def recFlip (r : List Byte) : Bool := bitNat (field r 0x50 4) 10
def recCtx (r : List Byte) : Nat := bitsNat (field r 0x50 4) 21 16
def recBuf (r : List Byte) : Nat := bitsNat (field r 0x50 4) 27 24

/-- The extents e0–e3 of a TCOPY. -/
def recExt (r : List Byte) (i : Nat) : Nat := field r (0x10 + 4 * i) 4

/-- Whether bytes of a record are zero. -/
def recZero (r : List Byte) (off n : Nat) : Bool := field r off n == 0

/-- The rules on offsets 0x50–0x7F, shared by the four commands (R198); `rankOk`: the command may set RANK. -/
def Workgroup.recTail (g : Workgroup) (r : List Byte) (rankOk : Bool) : Bool :=
  let ctl := field r 0x50 4
  let c := ctl % 8
  let red := recRed r
  let rank := recRank r
  let flip := field r 0x68 4
  bitsNat ctl 31 28 == 0 && bitsNat ctl 23 22 == 0 && bitsNat ctl 15 11 == 0 && !bitNat ctl 3
    && decide (c ≤ 4) && decide (red ≤ 7)
    && (red == 0 || recSize r == redSize red)
    && (rankOk || !rank)
    && (if rank then
          decide (recBuf r ≤ 7) && bitsNat (field r 0x54 4) 31 30 == 0 && bitsNat (field r 0x58 4) 31 20 == 0
            && decide (1 ≤ bitsNat (field r 0x58 4) 9 0) && decide (1 ≤ bitsNat (field r 0x58 4) 19 10)
            && field r 0x5C 4 != 0 && decide (field r 0x5C 4 < 2 ^ 16)
        else bitsNat ctl 27 16 == 0 && recZero r 0x54 12)
    && (!(recCompl r) || (field r 0x60 4 % 4 == 0 && decide (field r 0x60 4 < g.padUnits * 4096)))
    && decide (field r 0x64 4 < 2 ^ 31)
    && decide (flip < 64) && (!(recFlip r) || (g.slotFull (flip / 8) (flip % 8)).isSome)
    && recZero r 0x6C 20

/-- The rules of a record (R198, R200, R202); kind 0 TCOPY, 1 TGATH, 2 TSCAT, 3 TWALK.coo, 4 TWALK.csr. -/
def Workgroup.recOk (g : Workgroup) (kind : Nat) (r : List Byte) : Bool :=
  let size := recSize r
  match kind with
  | 0 =>
    g.recTail r true && field r 0 8 % size == 0 && field r 8 8 % size == 0
      && (List.range 4).all (fun i => decide (1 ≤ recExt r i))
      && decide (recExt r 0 * recExt r 1 * recExt r 2 * recExt r 3 * size ≤ 2 ^ 32)
      && [0x20, 0x28, 0x30, 0x38, 0x40, 0x48].all (fun o => field r o 8 % size == 0)
  | 1 | 2 =>
    g.recTail r false && decide (1 ≤ field r 0x10 4) && decide (1 ≤ field r 0x14 4) && decide (field r 0x14 4 ≤ 65536)
      && field r 0x28 8 % 4 == 0 && recZero r 0x18 8 && recZero r 0x30 8 && recZero r 0x40 16
      && (kind == 2 || recRed r == 0)
  | _ =>
    g.recTail r false && decide (1 ≤ field r 0x14 4) && decide (field r 0x14 4 ≤ 4096)
      && (kind == 4 || field r 0x18 4 == 0) && field r 0x20 8 % 16 == 0 && recZero r 0x1C 4 && recZero r 0x28 40
      && recRed r == 0

/-- The targets of a RANK transfer (R199): none when its first rank is outside the group; each with its package and context. -/
def rankTargets (c : Ctx) (r : List Byte) : Option (List (Nat × Nat)) :=
  let xyz := field r 0x54 4
  let e := field r 0x58 4
  let t := bitsNat xyz 9 0 + bitsNat e 9 0 * (bitsNat xyz 19 10 + bitsNat e 19 10 * bitsNat xyz 29 20)
  if c.nrank ≤ t then none
  else some (((List.range 16).filter (fun j => bitNat (field r 0x5C 4) j)).map (fun j => c.target ((t + j) % c.nrank)))

/-- The number of elements of a command's transfer. -/
def recCount (kind : Nat) (r : List Byte) : Nat :=
  match kind with
  | 0 => recExt r 0 * recExt r 1 * recExt r 2 * recExt r 3
  | 1 | 2 => field r 0x10 4 * field r 0x14 4
  | _ => 1

/-- The bytes a command moves to one destination. -/
def recBytes (kind : Nat) (r : List Byte) : Nat := recCount kind r * recSize r

/-- The elements of one contiguous row. -/
def recRow (kind : Nat) (r : List Byte) : Nat := match kind with | 0 => recExt r 0 | 1 | 2 => field r 0x10 4 | _ => 1

/-! ## Issue (R196, R197) -/

/-- A Porter instruction at issue. -/
def porterRun (i : Instr) (o : Ops) (s : State) (kind : Nat) : Host.Outcome State Fault Refusal :=
  s.scalar i o (fun s1 =>
    let at_ := s1.w.upair o.a
    if at_.toNat % 32 ≠ 0 then go (s1.raise .misaligned s1.w.activeLanes at_)
    else
      s1.withBytes at_ 128 .read (fun s2 r =>
        let c := s2.ctx (recCtx r)
        let targets := if kind = 0 && recRank r then (if c.st = 1 then rankTargets c r else none) else some []
        if !(s2.g.recOk kind r) then s2.badOperand i
        else
          match targets with
          | none => s2.badOperand i
          | some ts =>
            let (s3, id) := s2.fresh
            let (s4, out) := s3.fresh
            let (base, idx) := match s.w.cl with | some c => (c.base, c.idx) | none => (0#32, 0)
            let cmd : PorterCmd :=
              { id := id, queue := bitsNat o.ext.toNat 7 6, wid := s.w.wid, out := out, kind := kind, record := r
                started := false, granted := false, held := none, elem := 0, target := 0, targets := ts, rgen := c.gen
                token := 0, clause := base, index := idx, cover := s.storeIds s.g.serial }
            (s4.modG (fun g => { g with porter := g.porter ++ [cmd] })).finishMem i o
              { id := out, cls := 3, hasDest := false, keys := [], vals := [], waiting := 1, fail := none, flags := 0#32 }))

/-- TCOPY. -/
def execTcopy (o : Ops) (s : State) : Host.Outcome State Fault Refusal := porterRun (.tcopy o) o s 0
/-- TGATH. -/
def execTgath (o : Ops) (s : State) : Host.Outcome State Fault Refusal := porterRun (.tgath o) o s 1
/-- TSCAT. -/
def execTscat (o : Ops) (s : State) : Host.Outcome State Fault Refusal := porterRun (.tscat o) o s 2
/-- TWALK. -/
def execTwalk (o : Ops) (s : State) : Host.Outcome State Fault Refusal := porterRun (.twalk o) o s (if o.f = 0#4 then 3 else 4)

/-! ## The end of a command (R203) -/

/-- The head of a Porter queue. -/
def Workgroup.porterHead (g : Workgroup) (queue : Nat) : Option PorterCmd := g.porter.find? (fun c => c.queue == queue)

/-- Changes a command of the workgroup whose turn it is. -/
def State.mapCmd (s : State) (id : Nat) (f : PorterCmd → PorterCmd) : State :=
  s.modG (fun g => { g with porter := g.porter.map (fun (c : PorterCmd) => if c.id = id then f c else c) })

/-- The element index that a record gives: rows for a gather or a scatter (R200, R203). -/
def PorterCmd.reported (c : PorterCmd) (elem : Nat) : Nat :=
  match c.kind with | 1 | 2 => elem / recRow c.kind c.record | _ => elem

/-- The kind-2 record of a command. -/
def State.cmdRecord (s : State) (c : PorterCmd) (cause : Cause) (va elem token : Nat) : Rec :=
  { kind := 2, cause := cause.code, grid := s.g.grid, x := s.g.x, y := s.g.y, z := s.g.z
    wident := match s.findWarp ⟨s.g.serial, c.wid⟩ with | some w => w.wident | none => 0#32
    queue := c.queue, core := s.g.core, addr := s.recordAddr s.g.space cause (BitVec.ofNat 64 va), clause := c.clause
    index := c.index, elem := c.reported elem, token := token }

/-- A command ends: the completion word (with bit 31 after a failure), the flip (not after one), a failure's record; it leaves
its queue and class W3. -/
def State.endCmd (s : State) (c : PorterCmd) (fail : Option (Cause × Nat × Nat)) : State :=
  let v := field c.record 0x64 4 + (if fail.isSome then 2 ^ 31 else 0)
  let s1 := if recCompl c.record && !(s.g.padBad (field c.record 0x60 4) 4) then s.padWrite (field c.record 0x60 4) (leBytes 4 v) else s
  let flip := field c.record 0x68 4
  let s2 := if recFlip c.record && fail.isNone then s1.setSlot s1.g.serial (flip / 8) (flip % 8) true else s1
  let s3 := match fail with | some (e, va, elem) => s2.post (s2.cmdRecord c e va elem 0) | none => s2
  (s3.modG (fun g => { g with porter := g.porter.filter (fun (x : PorterCmd) => x.id != c.id) })).outReply
    ⟨s3.g.serial, c.wid⟩ c.out [] none

/-- A failure at an element: a TRANSLATION fault parks the queue, anything else stops the command (R203). -/
def State.failCmd (s : State) (c : PorterCmd) (cause : Cause) (va elem : Nat) : State :=
  if cause ≠ .translation then s.endCmd c (some (cause, va, elem))
  else
    let (s1, t) := s.parkFault (.porter s.g.serial c.id) [(elem, BitVec.ofNat 64 va)] (s.cmdRecord c cause va elem 0)
    s1.mapCmd c.id (fun x => { x with token := t })

/-! ## Elements (R199, R200) -/

/-- The byte address of an element at one side of a TCOPY; `side` 0 source, 1 destination. -/
def copyAddr (r : List Byte) (side l : Nat) : Nat :=
  let e := recExt r
  let i0 := l % e 0
  let i1 := l / e 0 % e 1
  let i2 := l / e 0 / e 1 % e 2
  let i3 := l / e 0 / e 1 / e 2
  let st := 0x20 + 24 * side
  (field r (8 * side) 8 + i0 * recSize r + i1 * field r st 8 + i2 * field r (st + 8) 8 + i3 * field r (st + 16) 8) % 2 ^ 64

/-- Where an element comes from and goes to: no source for a row of zeros, no destination for a row that is skipped. -/
structure Move where
  src : Option Nat
  dst : Option Nat
  deriving DecidableEq, Repr

/-- The move of an element of a gather or scatter whose row has an index. -/
def rowMove (kind : Nat) (r : List Byte) (l idx : Nat) : Move :=
  let k := l / field r 0x10 4
  let j := l % field r 0x10 4
  let table := (field r 0 8 + idx * field r 0x20 8 + j * recSize r) % 2 ^ 64
  let packed := (field r 8 8 + k * field r 0x38 8 + j * recSize r) % 2 ^ 64
  let none_ := idx == 2 ^ 32 - 1
  if kind = 1 then { src := if none_ then none else some table, dst := some packed }
  else { src := some packed, dst := if none_ then none else some table }

/-- What finding or moving an element comes to. -/
inductive ElemRes (α : Type) where
  | ok (s : State) (x : α)
  | fail (s : State) (c : Cause) (va : Nat)
  | wait (s : State)

/-- The index of the row of element l of a gather or scatter, read when the row is reached and kept while it lasts (R200). -/
def State.rowIndex (s : State) (kind : Nat) (r : List Byte) (l : Nat) (idx : Option (Nat × Nat)) : ElemRes (Option (Nat × Nat)) :=
  let k := l / field r 0x10 4
  let kept := match idx with | some (j, _) => j == k | none => false
  if kind = 0 ∨ kept = true then .ok s idx
  else
    match s.engineRead ((field r 0x28 8 + 4 * k) % 2 ^ 64) 4 4 with
    | .ok s1 bs => .ok s1 (some (k, leNat bs))
    | .fail c va => .fail s c va
    | .wait s1 => .wait s1

/-- The move of element l under its row's index. -/
def moveOf (kind : Nat) (r : List Byte) (l : Nat) (idx : Option (Nat × Nat)) : Move :=
  if kind = 0 then { src := some (copyAddr r 0 l), dst := some (copyAddr r 1 l) }
  else rowMove kind r l (match idx with | some (_, v) => v | none => 2 ^ 32 - 1)

/-- The source bytes of an element. -/
def State.elemBytes (s : State) (size : Nat) (src : Option Nat) : ElemRes (List Byte) :=
  match src with
  | none => .ok s (List.replicate size 0#8)
  | some va =>
    match s.engineRead va size size with
    | .ok s1 bs => .ok s1 bs
    | .fail c a => .fail s c a
    | .wait s1 => .wait s1

/-- Whether a reduction is a float one, which a UALink peer cannot perform (R340). -/
def redFloat (red : Nat) : Bool := [2, 3, 4, 5, 6].contains red

/-- Writes an element, reduced into its destination when a reduction is named, indivisibly (R199). -/
def State.elemWrite (s : State) (size red va : Nat) (bs : List Byte) : ElemRes Unit :=
  if 2 ^ 57 ≤ va then .fail s .protection va
  else if va % size ≠ 0 then .fail s .misaligned va
  else
    match s.checkPieces .write true true (redFloat red) [(va, size)] [] with
    | .error (.walkWait, a) => .wait (s.askWalk (l1Of s.g.core) s.acting s.g.space a false)
    | .error (c, a) => .fail s c a
    | .ok xl =>
      match s.prepareWrite xl [(va, size)] with
      | .fail c a => .fail s c a
      | .wait s1 => .wait s1
      | .ok s1 =>
        match (if red = 0 then s1.writePiece xl va bs else s1.changePiece xl va size (32 + red) (leNat bs) (fun old => redOp red old (leNat bs))) with
        | .ok s2 => .ok s2 ()
        | .fail s2 c => .fail s2 c va
        | .wait s2 => .wait s2

/-- What gathering a sector from elements comes to: their bytes, none when they do not cover it, or a wait. -/
inductive Cover where
  | ok (s : State) (idx : Option (Nat × Nat)) (bs : List Byte)
  | no
  | wait (s : State)

/-- The bytes of the elements from l that together cover the sector at `d0`, when they follow one another there (R256); `n`
elements are left. Answers the row reached with its index too. -/
def State.sectorBytes (s : State) (kind : Nat) (r : List Byte) (d0 size : Nat) : Nat → Nat → Option (Nat × Nat) → List Byte → Cover
  | 0, _, idx, acc => .ok s idx acc
  | n + 1, l, idx, acc =>
    if recCount kind r ≤ l then .no
    else
      match s.rowIndex kind r l idx with
      | .ok s1 idx1 =>
        let m := moveOf kind r l idx1
        if m.dst ≠ some (d0 + acc.length) then .no
        else
          (match s1.elemBytes size m.src with
           | .ok s2 bs => s2.sectorBytes kind r d0 size n (l + 1) idx1 (acc ++ bs)
           | .fail _ _ _ => .no
           | .wait s2 => .wait s2)
      | .fail _ _ _ => .no
      | .wait s1 => .wait s1

/-- A poisoned sector that following elements cover whole is written by them together (R256): the state, their number and the row reached; none
when they do not, or when one of them cannot be read. -/
def State.coverSector (s : State) (kind : Nat) (r : List Byte) (l va size : Nat) (idx : Option (Nat × Nat)) :
    Option (ElemRes (Nat × Option (Nat × Nat))) :=
  let n := 32 / size
  if va % 32 ≠ 0 ∨ recRed r ≠ 0 then none
  else
    match s.sectorBytes kind r va size n l idx [] with
    | .no => none
    | .wait s1 => some (.wait s1)
    | .ok s1 idx1 bs =>
      match s1.elemWrite 32 0 va bs with
      | .ok s2 _ => some (.ok s2 (n, idx1))
      | .wait s2 => some (.wait s2)
      | .fail _ _ _ => none

/-- One element moved: the state, how many elements were done, and the row reached with its index. -/
def State.moveElem (s : State) (kind : Nat) (r : List Byte) (l : Nat) (idx : Option (Nat × Nat)) : ElemRes (Nat × Option (Nat × Nat)) :=
  let size := recSize r
  match s.rowIndex kind r l idx with
  | .fail s1 c va => .fail s1 c va
  | .wait s1 => .wait s1
  | .ok s1 idx1 =>
    let m := moveOf kind r l idx1
    match m.dst with
    | none => .ok s1 (1, idx1)
    | some d =>
      match s1.elemBytes size m.src with
      | .fail s2 c va => .fail s2 c va
      | .wait s2 => .wait s2
      | .ok s2 bs =>
        match s2.elemWrite size (recRed r) d bs with
        | .ok s3 _ => .ok s3 (1, idx1)
        | .wait s3 => .wait s3
        | .fail s3 c va =>
          if c = .poison then
            match s2.coverSector kind r l d size idx1 with
            | some x => x
            | none => .fail s3 c va
          else .fail s3 c va

/-- Where a row of elements stops. -/
structure RowRes where
  s : State
  elem : Nat
  idx : Option (Nat × Nat)
  fail : Option (Cause × Nat)
  waits : Bool

/-- The index that the row of element l keeps when an element of it must be done later. -/
def State.keepIndex (s : State) (kind : Nat) (r : List Byte) (l : Nat) (idx : Option (Nat × Nat)) : Option (Nat × Nat) :=
  match s.rowIndex kind r l idx with | .ok _ x => x | _ => idx

/-- Moves elements up to a bound, in order; `fuel` is at least their number. -/
def State.moveRow (s : State) (kind : Nat) (r : List Byte) (stop : Nat) : Nat → Nat → Option (Nat × Nat) → RowRes
  | 0, l, idx => { s := s, elem := l, idx := idx, fail := none, waits := false }
  | fuel + 1, l, idx =>
    if stop ≤ l then { s := s, elem := l, idx := idx, fail := none, waits := false }
    else
      match s.moveElem kind r l idx with
      | .ok s1 (n, idx1) => (s1.asksEnd s1.acting).moveRow kind r stop fuel (l + n) idx1
      | .fail s1 c va => { s := s1, elem := l, idx := s.keepIndex kind r l idx, fail := some (c, va), waits := false }
      | .wait s1 => { s := s1, elem := l, idx := s.keepIndex kind r l idx, fail := none, waits := true }

/-! ## The coordinate walk (R201, R202) -/

/-- What reading a walk's arrays comes to: the rows and columns of its entries, or a failure at an entry. -/
inductive WalkRes where
  | ok (s : State) (rows cols : List Nat)
  | fail (c : Cause) (va entry : Nat)
  | wait (s : State)

/-- A z32 element of an array. -/
def State.word32 (s : State) (base k : Nat) : ElemRes Nat :=
  match s.engineRead ((base + 4 * k) % 2 ^ 64) 4 4 with
  | .ok s1 bs => .ok s1 (leNat bs)
  | .fail c va => .fail s c va
  | .wait s1 => .wait s1

/-- Binary search over rowptr[lo..hi] for the largest r with rowptr[r] ≤ i, given that rowptr[lo] ≤ i. -/
def State.rowSearch (s : State) (base i : Nat) : Nat → Nat → Nat → ElemRes Nat
  | 0, lo, _ => .ok s lo
  | fuel + 1, lo, hi =>
    if hi ≤ lo then .ok s lo
    else
      let mid := (lo + hi + 1) / 2
      match s.word32 base mid with
      | .fail s1 c va => .fail s1 c va
      | .wait s1 => .wait s1
      | .ok s1 x => if x ≤ i then s1.rowSearch base i fuel mid hi else s1.rowSearch base i fuel lo (mid - 1)

/-- The row of entry i: an array element, or found over the row pointers; R when no row below R is found. -/
def State.rowOf (s : State) (kind : Nat) (r : List Byte) (i : Nat) : ElemRes Nat :=
  let base := field r 0 8
  if kind = 3 then s.word32 base i
  else
    match s.word32 base 0 with
    | .fail s1 c va => .fail s1 c va
    | .wait s1 => .wait s1
    | .ok s1 x => if i < x then .ok s1 (field r 0x18 4) else s1.rowSearch base i 34 0 (field r 0x18 4)

/-- Reads the rows and columns of the entries left, from entry k of n. -/
def State.walkRead (s : State) (kind : Nat) (r : List Byte) : Nat → Nat → List Nat → List Nat → WalkRes
  | 0, _, rows, cols => .ok s rows cols
  | n + 1, k, rows, cols =>
    let i := field r 0x10 4 + k
    match s.rowOf kind r i with
    | .fail _ c va => .fail c va k
    | .wait s1 => .wait s1
    | .ok s1 row =>
      if kind = 4 ∧ field r 0x18 4 ≤ row then .fail .illegalOperand (field r 0 8) k
      else
        match s1.word32 (field r 8 8) i with
        | .fail _ c va => .fail c va k
        | .wait s2 => .wait s2
        | .ok s2 col => s2.walkRead kind r n (k + 1) (rows ++ [row]) (cols ++ [col])

/-- The distinct values of a list in order of first appearance. -/
def firsts (xs : List Nat) : List Nat := xs.foldl (fun acc x => if acc.contains x then acc else acc ++ [x]) []

/-- The output of a walk, by address (R202). -/
def walkOut (r : List Byte) (rows cols : List Nat) : List (Nat × List Byte) :=
  let n := rows.length
  let rl := firsts rows
  let cl := firsts cols
  let o := field r 0x20 8
  [(o, leBytes 4 rl.length ++ leBytes 4 cl.length ++ leBytes 4 n ++ leBytes 4 0 ++ rl.flatMap (leBytes 4)),
   ((o + 16 + 4 * n) % 2 ^ 64, cl.flatMap (leBytes 4)),
   ((o + 16 + 8 * n) % 2 ^ 64, (rows.zip cols).flatMap (fun p => leBytes 4 (cl.idxOf p.2 * 65536 + rl.idxOf p.1)))]

/-- The charge of a walk (R202). -/
def walkCharge (kind : Nat) (r : List Byte) (rows cols : List Nat) : Nat :=
  let n := rows.length
  (if kind = 3 then 8 * n else 4 * n + 4 * (field r 0x18 4 + 1)) + 16 + 4 * ((firsts rows).length + (firsts cols).length + n)

/-- The charge of the other commands (R180, R199). -/
def PorterCmd.charge (c : PorterCmd) : Nat :=
  let b := recBytes c.kind c.record
  let per := if recRed c.record = 0 || recRank c.record then 2 * b else 3 * b
  match c.kind with
  | 0 => per * max 1 c.targets.length
  | _ => 4 * field c.record 0x14 4 + per

/-- Writes a walk's output: all of it or, when a check or a write would fail, none (R202). Where a home cannot write at once the output's bytes
are first read, so that a sector that refuses them is found before any is written (DESIGN CHOICE, log 105). -/
def State.walkWrite (s : State) (out : List (Nat × List Byte)) : ElemRes Unit :=
  let ps := out.flatMap (fun p => splitSectors p.1 p.2.length)
  match out.find? (fun p => decide (2 ^ 57 ≤ p.1)) with
  | some p => .fail s .protection p.1
  | none =>
    match s.checkPieces .write true true false ps [] with
    | .error (.walkWait, a) => .wait (s.askWalk (l1Of s.g.core) s.acting s.g.space a false)
    | .error (c, va) => .fail s c va
    | .ok xl =>
      match s.prepareWrite xl ps with
      | .fail c va => .fail s c va
      | .wait s1 => .wait s1
      | .ok s1 =>
        let bytes := out.flatMap (fun p => p.2)
        let (_, placed) := ps.foldl (fun (acc : List Byte × List (Nat × List Byte)) p =>
          (acc.1.drop p.2, acc.2 ++ [(p.1, acc.1.take p.2)])) (bytes, [])
        let inMem := fun (s : State) (p : Nat × List Byte) => match s.g.loc xl p.1 p.2.length with | some (.mem k) => some (k, p.2) | _ => none
        let cells := (placed.filterMap (inMem s1)).flatMap (fun p => cellsAt p.1 p.2)
        let pads := fun (s : State) => placed.foldl (fun (s : State) p =>
          match s.g.loc xl p.1 p.2.length with | some (.pad off) => s.padWrite off p.2 | _ => s) s
        let first := fun (bad : Nat × List Byte → Bool) => match placed.find? bad with | some p => p.1 | none => 0
        if s1.directCells cells then
          match s1.homeWrite cells with
          | .ok s2 => .ok (pads s2) ()
          | .error c => .fail s1 c (first (fun p => match inMem s1 p with | some (k, _) => s1.poisoned k | none => false))
        else
          let whole := fun (p : Nat × List Byte) => p.2.length == 32
          let probes := (placed.filterMap (fun p => (inMem s1 p).map (fun q => (p, q.1)))).filter (fun q => !(whole q.1))
          let who := l1Of s1.g.core
          let got := probes.map (fun q => (q.1.1, s1.homeGet who s1.acting q.2 q.1.2.length))
          match got.findSome? (fun q => match q.2 with | .wait s2 => some s2 | _ => none),
                got.findSome? (fun q => match q.2 with | .fail c => some (q.1, c) | _ => none) with
          | some s2, _ => .wait s2
          | none, some (va, c) => .fail s1 c va
          | none, none =>
            match s1.homePut who s1.acting cells with
            | .wait s2 => .wait s2
            | .fail s2 c => .fail s2 c (first (fun p => (inMem s1 p).isSome))
            | .ok s2 => .ok (pads s2) ()

/-! ## Start (R201) -/

/-- Whether the head of a Porter queue may be taken up: it starts only after the command before it has completed, and a held
one only when its charge may be covered. -/
def State.porterStartDue (s : State) (g : Workgroup) (queue : Nat) : Bool :=
  match g.porterHead queue with
  | some c =>
    !c.started && c.token == 0 && g.enginesRun && s.performed c.cover
      && (match c.held with | some n => g.coversNow true n | none => true)
  | none => false

/-- The command begins: its charge is debited whole; one that moves more than 64 KiB asks the governor for leave. -/
def State.beginCmd (s : State) (c : PorterCmd) (charge : Nat) : State :=
  let big := decide (65536 < recBytes c.kind c.record)
  let s1 := (s.debit 0 charge).mapCmd c.id (fun x => { x with started := true, held := none, granted := !big })
  if big then s1.askPower s1.g.tile s1.g.serial c.id else s1

/-- A walk whose output is known and whose charge is covered: the charge is debited and the output written; one that fails is charged
nothing (R201, R202). -/
def State.walkEnd (s : State) (c : PorterCmd) (charge : Nat) (out : List (Nat × List Byte)) : State :=
  match s.walkWrite out with
  | .ok s1 _ => (s1.debit 0 charge).endCmd c none
  | .fail s1 e va => s1.failCmd c e va 0
  | .wait s1 => s1

/-- A command whose charge is not covered is held. -/
def State.holdCmd (s : State) (c : PorterCmd) (charge : Nat) : State :=
  (if s.g.heldKnown then s else s.holdFor).mapCmd c.id (fun x => { x with held := some charge })

/-- PORTER_COMMAND_START: a command whose charge is not covered is held at the head of its queue, and the workgroup treated as
exhausted; a walk first reads its arrays. -/
def execPorterCommandStart (wg queue : Nat) (s : State) : Host.Outcome State Fault Refusal :=
  let s0 := s.focusWg wg
  if s0.g.serial ≠ wg then go s0
  else
    match s0.g.porterHead queue with
    | none => go s0
    | some c =>
      let s0 := { s0 with acting := c.id }
      if c.started || c.token != 0 || !s0.g.enginesRun || !(s0.performed c.cover) then go s0
      else if c.kind < 3 then
        go (if s0.g.coversNow c.held.isSome c.charge then s0.beginCmd c c.charge else s0.holdCmd c c.charge)
      else
        match s0.walkRead c.kind c.record (field c.record 0x14 4) 0 [] [] with
        | .wait s1 => go s1
        | .fail e va k => go (s0.failCmd c e va k)
        | .ok s1 rows cols =>
          let charge := walkCharge c.kind c.record rows cols
          go (if s1.g.coversNow c.held.isSome charge then s1.walkEnd c charge (walkOut c.record rows cols) else s1.holdCmd c charge)

/-! ## Posted reservations (R215) -/

/-- The source bytes of the elements of a piece, up to a failure: the bytes by offset in the slot. -/
def State.pieceCells (s : State) (r : List Byte) : Nat → Nat → List Host.Cell → RowRes × List Host.Cell
  | 0, l, acc => ({ s := s, elem := l, idx := none, fail := none, waits := false }, acc)
  | n + 1, l, acc =>
    match s.elemBytes (recSize r) (some (copyAddr r 0 l)) with
    | .ok s1 bs => s1.pieceCells r n (l + 1) (acc ++ cellsAt (copyAddr r 1 l) bs)
    | .fail s1 c va => ({ s := s1, elem := l, idx := none, fail := some (c, va), waits := false }, acc)
    | .wait s1 => ({ s := s1, elem := l, idx := none, fail := none, waits := true }, acc)

/-- Sends the reservation request of a command's next piece: at most 64 KiB in the order of R199. The piece's bytes are read as it is sent,
before any of them is written (DESIGN CHOICE, log 115: a source that overlaps the target slot may be read otherwise by a one-by-one order). -/
def State.requestPiece (s : State) (c : PorterCmd) : State :=
  match c.targets[c.target]? with
  | none => s
  | some (pkg, ctx) =>
    let r := c.record
    let (x, cells) := s.pieceCells r (min (65536 / recSize r) (recCount 0 r - c.elem)) c.elem []
    if x.waits then x.s
    else if cells.isEmpty then (match x.fail with | some (e, va) => x.s.failCmd c e va c.elem | none => x.s)
    else
      let (s1, id) := x.s.fresh
      let keys := cells.map (fun k => k.1)
      let first := keys.foldl min (keys.headD 0)
      let last := keys.foldl max 0
      let p : Piece := { id := id, wg := s1.g.serial, cmd := c.id, pkg := pkg, ctx := ctx, gen := c.rgen, buf := recBuf r
                         cells := cells, count := x.elem - c.elem }
      let m : PostedReq := { ctx := ctx, gen := c.rgen, buf := recBuf r, first := first, last := last, srcPkg := Config.pkgid, piece := id }
      let s2 := { s1 with courier := { s1.courier with pieces := s1.courier.pieces ++ [p] } }
      if pkg = Config.pkgid then s2.push (.postedReservationRequest m) else s2.tellTo pkg (.postedRequest pkg m)

/-- Whether a command of a workgroup has a piece under way. -/
def State.pieceOut (s : State) (wg cmd : Nat) : Bool := s.courier.pieces.any (fun p => p.wg == wg && p.cmd == cmd)

/-- Whether a credit for a posted request to a package is left: two (R215). -/
def State.pieceCredit (s : State) (pkg : Nat) : Bool := decide ((s.courier.pieces.filter (fun p => p.pkg == pkg)).length < 2)

/-- Removes a piece record. -/
def State.dropPiece (s : State) (id : Nat) : State :=
  { s with courier := { s.courier with pieces := s.courier.pieces.filter (fun p => p.id != id) } }

/-- A piece has been acknowledged: the command goes on with the elements after it, or with its next target. -/
def State.pieceDone (s : State) (p : Piece) : State :=
  let s1 := (s.dropPiece p.id).focusWg p.wg
  if s1.g.serial ≠ p.wg then s1
  else
    s1.mapCmd p.cmd (fun c =>
      let e := c.elem + p.count
      if recCount 0 c.record ≤ e then { c with elem := 0, target := c.target + 1 } else { c with elem := e })

/-- A piece has failed: its command stops at the piece's first element, or parks for a TRANSLATION fault at the target. -/
def State.pieceFailed (s : State) (p : Piece) (cause : Cause) (va : Nat) : State :=
  let s1 := (s.dropPiece p.id).focusWg p.wg
  match s1.g.porter.find? (fun c => c.id == p.cmd) with
  | some c => if s1.g.serial = p.wg then s1.failCmd c cause va c.elem else s1
  | none => s1

/-- The bytes of a granted piece are written into a slot of the target context, by their offsets in it, as write-through stores at package
scope (R215). -/
def State.postedWrite (s : State) (c : Ctx) (buf : Nat) (bytes : List Host.Cell) : CtxRead :=
  if c.st ≠ 1 then .fail s .remoteFailed 0
  else
    let base := c.slotBase buf
    let pages := (bytes.foldl (fun l k => addNat ((base + k.1) / 65536) l) []).map (fun n => (n * 65536, 1))
    match s.ctxKeys c .write pages with
    | .error (.walkWait, va) => .wait (s.askWalk pkgParty c.id c.space va false)
    | .error (e, va) => .fail s e va
    | .ok ks =>
      let xl : FMap Nat := (pages.zip ks).foldl (fun m q => FMap.insert m (q.1.1 / 65536) q.2.1) []
      let cells := bytes.map (fun k => (FMap.get xl 0 ((base + k.1) / 65536) + (base + k.1) % 65536, k.2))
      match s.homePut pkgParty c.id cells with
      | .fail s1 e => .fail s1 e base
      | .wait s1 => .wait s1
      | .ok s1 => .ok s1 []

/-- POSTED_RESERVATION_REQUEST: a stale generation is dropped and counted; else the piece is granted when the context runs, the
slot is present and the piece lies within it. -/
def execPostedReservationRequest (m : PostedReq) (s : State) : Host.Outcome State Fault Refusal :=
  let c := s.ctx m.ctx
  if c.gen ≠ m.gen then go (s.dropMessage m.ctx)
  else
    let ok := c.st == 1 && decide (m.buf < 8) && decide (m.first ≤ m.last) && decide (m.last < c.slotLen m.buf)
    if m.srcPkg = Config.pkgid then go (s.push (.postedGrant m.piece ok))
    else
      let s1 := if ok then { s with courier := { s.courier with posted := s.courier.posted ++ [m] } } else s
      go (s1.tellTo m.srcPkg (.postedAnswer m.srcPkg m.piece ok))

/-- POSTED_GRANT: a refusal stops the command with PROTECTION; on a grant the piece is sent, and a piece for this package is
written into the slot as write-through stores. -/
def execPostedGrant (piece : Nat) (granted : Bool) (s : State) : Host.Outcome State Fault Refusal :=
  match s.courier.pieces.find? (fun p => p.id == piece) with
  | none => go s
  | some p =>
    if !granted then go (s.pieceFailed p .protection 0)
    else if p.pkg ≠ Config.pkgid then
      let keys := p.cells.map (fun k => k.1)
      go (s.tellTo p.pkg (.postedData p.pkg
        { ctx := p.ctx, gen := p.gen, buf := p.buf, first := keys.foldl min (keys.headD 0), last := keys.foldl max 0
          srcPkg := Config.pkgid, piece := p.id } p.cells))
    else
      let c := s.ctx p.ctx
      if c.gen ≠ p.gen then go (s.pieceFailed p .remoteFailed 0)
      else
        match ({ s with acting := c.id }).postedWrite c p.buf p.cells with
        | .ok s1 _ => go (s1.pieceDone p)
        | .wait s1 => go (s1.push (.postedGrant piece granted))
        | .fail s1 e va => go (s1.pieceFailed p e va)

/-! ## Transfer and completion (R199, R200, R203) -/

/-- Whether a started command at the head of its queue can go on. -/
def State.porterGoes (s : State) (g : Workgroup) (queue : Nat) : Bool :=
  match g.porterHead queue with
  | some c =>
    decide (c.kind < 3) && c.started && c.granted && c.token == 0 && !(s.pieceOut g.serial c.id)
      && (match c.targets[c.target]? with | some t => s.pieceCredit t.1 | none => true)
  | none => false

/-- PORTER_COMMAND_COMPLETE: the command moves its next row of elements, or sends its next piece, and ends after the last. -/
def execPorterCommandComplete (wg queue : Nat) (s : State) : Host.Outcome State Fault Refusal :=
  let s0 := s.focusWg wg
  if s0.g.serial ≠ wg ∨ s0.porterGoes s0.g queue = false then go s0
  else
    match s0.g.porterHead queue with
    | none => go s0
    | some c =>
      let s1 := { s0 with acting := c.id }
      if recRank c.record then
        if c.targets.length ≤ c.target then go (s1.endCmd c none) else go (s1.requestPiece c)
      else
        let row := recRow c.kind c.record
        let stop := min (recCount c.kind c.record) ((c.elem / row + 1) * row)
        let x := s1.moveRow c.kind c.record stop row c.elem c.idx
        let s2 := x.s.mapCmd c.id (fun y => { y with elem := x.elem, idx := x.idx })
        match x.fail with
        | some (e, va) => go (s2.failCmd { c with elem := x.elem } e va x.elem)
        | none => if recCount c.kind c.record ≤ x.elem then go (s2.endCmd c none) else go s2

end Sys2Proof.Machine
end

