-- ==== Sys2Proof/Machine/Courier.lean ====
section
/-! DEFINITION. The Courier: ITIN, the operations of an itinerary, and the events of its contexts (R205, R206 to R223). -/

namespace Sys2Proof.Machine

/-! ## ITIN (R196, R205) -/

/-- ITIN: binds an idle context and starts the itinerary. -/
def execItin (o : Ops) (s : State) : Host.Outcome State Fault Refusal :=
  let i : Instr := .itin o
  s.scalar i o (fun s1 =>
    let act := s1.w.activeLanes
    let itin := s1.w.upair o.d
    let desc := s1.w.upair o.a
    let n := o.ext.toNat % 64
    let c := s1.ctx n
    if itin.toNat % 8 ≠ 0 then go (s1.raise .misaligned act itin)
    else if desc.toNat % 256 ≠ 0 then go (s1.raise .misaligned act desc)
    else if c.st ≠ 0 ∨ c.quarantined then go (s1.raise .launchRefused act desc)
    else
      s1.withBytes desc 256 .read (fun s2 d =>
        if !(descOk c.gen d) then go (s2.raise .launchRefused act desc)
        else
          s2.withBytes (BitVec.ofNat 64 (field d 8 8)) (4 * field d 2 2) .read (fun s3 m =>
            if !(mapOk m (field d 2 2)) then go (s3.raise .launchRefused act desc)
            else
              let (s4, out) := s3.fresh
              let s5 := s4.startCtx n itin (d ++ m) (s4.w.usrc 0#32 o.b) s4.g.space s4.g.level (fun c =>
                { c with wg := s4.g.serial, wid := s4.w.wid, out := out, wait := .power, cover := s4.storeIds s4.g.serial })
              let s6 := s5.askPower s5.g.tile (2 ^ 32 + n) (s5.ctx n).id
              s6.finishMem i o { id := out, cls := 3, hasDest := false, keys := [], vals := [], waiting := 1, fail := none, flags := 0#32 })))

/-! ## Shapes of operations -/

/-- The context whose turn it is. -/
def State.cur (s : State) : Ctx := s.ctx s.courier.cur

/-- Changes the context whose turn it is. -/
def State.modCur (s : State) (f : Ctx → Ctx) : State := s.modCtx s.courier.cur f

/-- An operation completes: the next word follows. -/
def Ctx.pass (c : Ctx) : Ctx := { c with pc := c.pc + 8#64, wait := .none, mcast := [], word := none }

/-- An operation of the context whose turn it is, if it runs. -/
def State.itinOp (s : State) (k : Ctx → State) : Host.Outcome State Fault Refusal := go (if s.cur.st = 1 then k s.cur else s)

/-- Stops the context whose turn it is. -/
def State.stopCur (s : State) (code : Nat) : State := s.stopCtx s.courier.cur code

/-- Passes the word of the context whose turn it is. -/
def State.passCur (s : State) : State := s.modCur Ctx.pass

/-- The context whose turn it is waits at its word. -/
def State.waitCur (s : State) (w : CWait) : State := s.modCur (fun c => { c with wait := w })

/-- The chunk index an operation names. -/
def Ctx.index (c : Ctx) (w : Itin) : Nat := (c.reg w.cr.toNat).toNat

/-- Sets a chunk register and passes. -/
def State.setReg (s : State) (n : Nat) (v : Word) : State := s.modCur (fun c => { c.pass with regs := FMap.put c.regs 0#32 n v })

/-! ## Sends (R213, R214) -/

/-- Queues one send to a rank. -/
def Ctx.queueSend (c : Ctx) (p slot j : Nat) : Ctx :=
  let k := (c.peer p).sends
  let held := (c.peer p).grants.contains k
  let c1 := c.modPeer p (fun x => { x with sends := k + 1, grants := x.grants.filter (fun g => g != k) })
  { c1 with sends := c1.sends ++ [{ rank := p, seq := k, slot := slot, chunk := j, granted := held, paid := false, sent := false }] }

/-- Queues sends to ranks in order until the limit of 8; the ranks left wait. -/
def Ctx.queueSends (c : Ctx) (slot j : Nat) : List Nat → Ctx
  | [] => c.pass
  | p :: ps => if 8 ≤ c.sends.length then { c with wait := .limit, mcast := p :: ps } else (c.queueSend p slot j).queueSends slot j ps

/-- SEND and MCAST. -/
def sendRun (w : Itin) (s : State) (ranks : Ctx → Nat → List Nat) : Host.Outcome State Fault Refusal :=
  s.itinOp (fun c =>
    match c.peerOf w, c.chunkOf w.sa.toNat (c.index w) with
    | .error e, _ => s.stopCur e
    | _, .error e => s.stopCur e
    | .ok p, .ok _ =>
      let ps := if c.wait = .limit then c.mcast else ranks c p
      s.modCur (fun c => c.queueSends w.sa.toNat (c.index w) ps))

/-- SEND. -/
def execSend (c : Itin) (s : State) : Host.Outcome State Fault Refusal := sendRun c s (fun _ p => [p])

/-- MCAST: a send to (p + i) mod N for each set bit i. -/
def execMcast (c : Itin) (s : State) : Host.Outcome State Fault Refusal :=
  sendRun c s (fun x p => ((List.range 16).filter (fun i => c.imm.getLsbD i)).map (fun i => (p + i) % x.nrank))

/-! ## Receives (R213, R214, R221) -/

/-- Begins a receive: the reservation is granted to the peer. -/
def State.beginRecv (s : State) (p slot j red src : Nat) : State :=
  let k := (s.cur.peer p).recvs
  let s1 := s.modCur (fun c => { c.modPeer p (fun x => { x with recvs := k + 1 }) with wait := .chunk p k slot j red src })
  s1.toRank s1.courier.cur p k Instr.grant OutMsg.grant

/-- RECV. -/
def execRecv (c : Itin) (s : State) : Host.Outcome State Fault Refusal :=
  s.itinOp (fun x =>
    match x.peerOf c, x.chunkOf c.sb.toNat (x.index c) with
    | .error e, _ => s.stopCur e
    | _, .error e => s.stopCur e
    | .ok p, .ok _ => s.beginRecv p c.sb.toNat (x.index c) 0 0)

/-- RECVRED: its 2·C bytes are debited when it begins. -/
def execRecvred (c : Itin) (s : State) : Host.Outcome State Fault Refusal :=
  s.itinOp (fun x =>
    match x.peerOf c, x.chunkPair c.sa.toNat c.sb.toNat (x.index c) c.red.toNat with
    | .error e, _ => s.stopCur e
    | _, .error e => s.stopCur e
    | .ok p, .ok _ =>
      match s.ctxPay s.courier.cur (2 * x.chunk) with
      | .stop => s.stopCur 6
      | .held s1 | .wait s1 => s1.waitCur (.purse (2 * x.chunk))
      | .paid s1 => s1.beginRecv p c.sb.toNat (x.index c) c.red.toNat c.sa.toNat)

/-! ## Local chunk operations -/

/-- REDUCE and COPY wait for the data path (R220). -/
def pathRun (w : Itin) (s : State) (red : Nat) : Host.Outcome State Fault Refusal :=
  s.itinOp (fun c =>
    match c.chunkPair w.sa.toNat w.sb.toNat (c.index w) red with
    | .error e => s.stopCur e
    | .ok _ => s.waitCur (.path w.sa.toNat w.sb.toNat (c.index w) red false))

/-- REDUCE. -/
def execReduce (c : Itin) (s : State) : Host.Outcome State Fault Refusal := pathRun c s c.red.toNat
/-- COPY. -/
def execCopy (c : Itin) (s : State) : Host.Outcome State Fault Refusal := pathRun c s 0

/-! ## Waits and signals -/

/-- WAIT.sig. -/
def execWaitSig (c : Itin) (s : State) : Host.Outcome State Fault Refusal :=
  s.itinOp (fun x =>
    match x.peerOf c with
    | .error e => s.stopCur e
    | .ok p =>
      if (x.peer p).signals = 0 then s.waitCur (.signal p)
      else s.modCur (fun y => (y.modPeer p (fun q => { q with signals := q.signals - 1 })).pass))

/-- WAIT.flag. -/
def execWaitFlag (c : Itin) (s : State) : Host.Outcome State Fault Refusal :=
  s.itinOp (fun x =>
    match s.ctxRead x (x.flagAddr c.sa.toNat) 4 with
    | .fail s1 e va => s1.ctxFail s.courier.cur e va
    | .wait s1 => s1
    | .ok s1 bs => if (x.reg c.cr.toNat).toNat ≤ leNat bs then s1.passCur else s1.waitCur .flag)

/-- WAIT.sent. -/
def execWaitSent (_c : Itin) (s : State) : Host.Outcome State Fault Refusal :=
  s.itinOp (fun x => if x.sends.isEmpty then s.passCur else s.waitCur .sent)

/-- SIGNAL.peer. -/
def execSignalPeer (c : Itin) (s : State) : Host.Outcome State Fault Refusal :=
  s.itinOp (fun x =>
    match x.peerOf c with
    | .error e => s.stopCur e
    | .ok p => (s.toRank s.courier.cur p 0 Instr.signalArrival OutMsg.signal).passCur)

/-- SIGNAL.set. -/
def execSignalSet (c : Itin) (s : State) : Host.Outcome State Fault Refusal :=
  s.itinOp (fun x =>
    match s.ctxWrite x (x.flagAddr c.sa.toNat) (leBytes 4 c.imm.toNat) with
    | .fail s1 e va => s1.ctxFail s.courier.cur e va
    | .wait s1 => s1
    | .ok s1 _ => s1.passCur)

/-- SIGNAL.add: indivisibly at the home. -/
def execSignalAdd (c : Itin) (s : State) : Host.Outcome State Fault Refusal :=
  s.itinOp (fun x =>
    let va := x.flagAddr c.sa.toNat
    match s.ctxKeys x .write [(va, 4)] with
    | .error (.walkWait, a) => s.askWalk pkgParty x.id x.space a false
    | .error (e, a) => s.ctxFail s.courier.cur e a
    | .ok ks =>
      match s.homeAtomic pkgParty x.id (ks.headD (0, 4)).1 4 0 c.imm.toNat (fun old => (old + c.imm.toNat) % 2 ^ 32) with
      | .wait s1 => s1
      | .fail s1 e => s1.ctxFail s.courier.cur e va
      | .ok s1 => s1.passCur)

/-! ## Chunk registers -/

/-- SETC. -/
def execSetc (c : Itin) (s : State) : Host.Outcome State Fault Refusal := s.itinOp (fun _ => s.setReg c.cr.toNat c.imm)

/-- SETC.rank. -/
def execSetcRank (c : Itin) (s : State) : Host.Outcome State Fault Refusal :=
  s.itinOp (fun x => s.setReg c.cr.toNat (BitVec.ofInt 32 (((x.rank : Int) + c.imm.toInt) % (x.nrank : Int))))

/-- SETC.copy. -/
def execSetcCopy (c : Itin) (s : State) : Host.Outcome State Fault Refusal :=
  s.itinOp (fun x => s.setReg c.cr.toNat (x.reg c.sa.toNat + c.imm))

/-- ADDC. -/
def execAddc (c : Itin) (s : State) : Host.Outcome State Fault Refusal :=
  s.itinOp (fun x =>
    let m := c.imm.toNat / 65536
    let modulus := if m = 0 then x.nrank else m
    s.setReg c.cr.toNat (BitVec.ofInt 32 ((((x.reg c.cr.toNat).toNat : Int) + (c.imm.extractLsb' 0 16).toInt) % (modulus : Int))))

/-- ADDC.wrap. -/
def execAddcWrap (c : Itin) (s : State) : Host.Outcome State Fault Refusal :=
  s.itinOp (fun x => s.setReg c.cr.toNat (x.reg c.cr.toNat + c.imm))

/-! ## Loops and branches -/

/-- Opens a loop: a count below 1 or a fifth level is a LOOP fault. -/
def State.openLoop (s : State) (count : Int) : State :=
  if count < 1 ∨ 4 ≤ s.cur.loops.length then s.stopCur 5
  else s.modCur (fun c => { c.pass with loops := (c.pc + 8#64, count.toNat) :: c.loops })

/-- LOOP. -/
def execLoop (c : Itin) (s : State) : Host.Outcome State Fault Refusal := s.itinOp (fun _ => s.openLoop (c.imm.toNat : Int))

/-- LOOP.grp. -/
def execLoopGrp (c : Itin) (s : State) : Host.Outcome State Fault Refusal :=
  s.itinOp (fun x => s.openLoop ((x.nrank : Int) + c.imm.toInt))

/-- ENDL. -/
def execEndl (_c : Itin) (s : State) : Host.Outcome State Fault Refusal :=
  s.itinOp (fun x =>
    match x.loops with
    | [] => s.stopCur 5
    | (start, n) :: rest =>
      if n - 1 = 0 then s.modCur (fun c => { c.pass with loops := rest })
      else s.modCur (fun c => { c.pass with pc := start, loops := (start, n - 1) :: rest }))

/-- A branch condition: 0 eq, 1 ne, 2 lt, 3 ge, unsigned. -/
def brcHolds (cc : Nat) (x k : Nat) : Bool :=
  match cc with | 0 => x == k | 1 => x != k | 2 => decide (x < k) | _ => decide (k ≤ x)

/-- BRC and BRC.rank. -/
def brcRun (w : Itin) (s : State) (k : Ctx → Nat) : Host.Outcome State Fault Refusal :=
  s.itinOp (fun c =>
    if brcHolds (w.flags.toNat % 4) (c.reg w.cr.toNat).toNat (k c) then
      s.modCur (fun c => { c.pass with pc := c.pc + BitVec.ofInt 64 (8 * (w.imm.extractLsb' 16 16).toInt) })
    else s.passCur)

/-- BRC. -/
def execBrc (c : Itin) (s : State) : Host.Outcome State Fault Refusal := brcRun c s (fun _ => c.imm.toNat % 65536)
/-- BRC.rank. -/
def execBrcRank (c : Itin) (s : State) : Host.Outcome State Fault Refusal := brcRun c s (fun x => x.rank)

/-! ## Joins, marks and the end -/

/-- JOINQ (R218): at once for a packet's itinerary or a workgroup that has completed. The words after it read once the stores that it covers
have been performed (R233). -/
def execJoinq (c : Itin) (s : State) : Host.Outcome State Fault Refusal :=
  s.itinOp (fun x =>
    let ids := match x.wait with
      | .join ids => ids
      | _ => if x.wg = 0 then [] else s.queued x.wg (c.imm.toNat % 32)
    let left := ids.filter (fun n => (s.commandIds x.wg).contains n)
    if left.isEmpty then s.modCur (fun c => { c.pass with cover := if x.wg = 0 then [] else s.storeIds x.wg })
    else s.waitCur (.join left))

/-- MARK and MARK.nocompl (R217): the FINAL bit, then the completion word unless it is left out. -/
def markRun (w : Itin) (s : State) (compl : Bool) : Host.Outcome State Fault Refusal :=
  s.itinOp (fun c =>
    let j := c.index w
    if 1024 ≤ j then s.stopCur 2
    else
      let final := addNat j c.final
      let byte := (List.range 8).foldl (fun (b : Nat) i => if final.contains (j / 8 * 8 + i) then b + 2 ^ i else b) 0
      match s.ctxWrite c (c.status.toNat + 0x40 + j / 8) (leBytes 1 byte) with
      | .fail s1 e va => s1.ctxFail s.courier.cur e va
      | .wait s1 => s1
      | .ok s1 _ =>
        let s2 := s1.modCur (fun c => { c with final := final })
        if !compl then s2.passCur
        else
          match s2.ctxWriteWord s2.cur c.compl.toNat (leBytes 4 w.imm.toNat) with
          | .fail s3 e va => s3.ctxFail s.courier.cur e va
          | .wait s3 => s3
          | .ok s3 _ => s3.passCur)

/-- MARK. -/
def execMark (c : Itin) (s : State) : Host.Outcome State Fault Refusal := markRun c s true
/-- MARK.nocompl. -/
def execMarkNocompl (c : Itin) (s : State) : Host.Outcome State Fault Refusal := markRun c s false

/-- HALT: waits as WAIT.sent; then state 2 is written and the itinerary ends. -/
def execHalt (_c : Itin) (s : State) : Host.Outcome State Fault Refusal :=
  s.itinOp (fun x =>
    if !x.sends.isEmpty then s.waitCur .sent
    else s.modCur (fun c => { c with wait := .none, ending := some 0, todo := [(c.status, statusHead 2 0 c.ops 0#64)] }))

/-- ITINERARY_FAULT: a word that may not be executed stops the context with ILLEGAL (R63, R210). -/
def execItineraryFault (_w : DWord) (s : State) : Host.Outcome State Fault Refusal := s.itinOp (fun _ => s.stopCur 1)

/-! ## The data path (R220, R221) -/

/-- A ready chunk op: its context, kind (0 send, 1 copy, 2 reduce), name, charge, and whether that is debited. -/
structure ChunkOp where
  ctx : Nat
  kind : Nat
  name : Nat
  cost : Nat
  paid : Bool

/-- The name of a send on the path. -/
def CSend.name (x : CSend) : Nat := x.rank * 2 ^ 32 + x.seq

/-- A context's first ready chunk op. -/
def Ctx.chunkOp (c : Ctx) : Option ChunkOp :=
  if c.st ≠ 1 ∨ c.parked ≠ 0 ∨ c.ending.isSome ∨ !c.todo.isEmpty then none
  else
    match c.sends.find? (fun x => x.granted && !x.sent) with
    | some x => some { ctx := c.num, kind := 0, name := x.name, cost := c.chunk, paid := x.paid }
    | none =>
      match c.wait with
      | .path _ _ _ red paid =>
        some { ctx := c.num, kind := if red = 0 then 1 else 2, name := 0, cost := (if red = 0 then 2 else 3) * c.chunk, paid := paid }
      | _ => none

/-- Inserts a chunk op by priority, then round-robin after the context served last. -/
def insertOp (s : State) (o : ChunkOp) : List ChunkOp → List ChunkOp
  | [] => [o]
  | x :: xs =>
    let turn := fun (n : Nat) => (n + 63 - s.courier.last) % 64
    let before := decide ((s.ctx x.ctx).prio < (s.ctx o.ctx).prio)
      || ((s.ctx x.ctx).prio == (s.ctx o.ctx).prio && decide (turn o.ctx < turn x.ctx))
    if before then o :: x :: xs else x :: insertOp s o xs

/-- The ready chunk ops in the order in which the path takes them. -/
def State.chunkOps (s : State) : List ChunkOp :=
  (s.courier.ctxs.filterMap (fun p => p.2.chunkOp)).foldl (fun l o => insertOp s o l) []

/-- Records that a chunk op's charge is debited. -/
def State.payOp (s : State) (o : ChunkOp) : State :=
  s.modCtx o.ctx (fun c =>
    if o.kind = 0 then { c with sends := c.sends.map (fun (x : CSend) => if x.name = o.name then { x with paid := true } else x) }
    else { c with wait := match c.wait with | .path a b j r _ => .path a b j r true | w => w })

/-- The path takes the first ready chunk op whose charge is covered; an op that finds its purse short is held, or stops its
itinerary with BUDGET. -/
def State.pickOp (s : State) : List ChunkOp → State
  | [] => s
  | o :: os =>
    let start := fun (s : State) => { s with courier := { s.courier with path := some (o.ctx, o.kind, o.name), last := o.ctx } }
    if o.paid then start s
    else
      match s.ctxPay o.ctx o.cost with
      | .paid s1 => start (s1.payOp o)
      | .held s1 | .wait s1 => s1.pickOp os
      | .stop => (s.stopCtx o.ctx 6).pickOp os

/-- Frees the data path. -/
def State.freePath (s : State) : State := { s with courier := { s.courier with path := none } }

/-- Performs the bytes of the chunk op on the path (R213, R214, R216). The stores that joins cover for it have been performed before the word that
placed it was executed (R233), so that the path is never held for them (R347). -/
def State.performOp (s : State) (n kind name : Nat) : State :=
  let c := s.ctx n
  let done := fun (s : State) => (s.modCtx n (fun c => { c with ops := c.ops + 1 })).freePath
  let failed := fun (s : State) (e : Cause) (va : Nat) => (s.ctxFail n e va).freePath
  if c.st ≠ 1 ∨ c.ending.isSome then s.freePath
  else if kind = 0 then
    match c.sends.find? (fun x => x.name == name) with
    | none => s.freePath
    | some x =>
      match c.chunkOf x.slot x.chunk with
      | .error e => (s.stopCtx n e).freePath
      | .ok (a, len) =>
        match s.ctxRead c.onPath a len with
        | .wait s1 => s1
        | .fail s1 e va => failed s1 e va
        | .ok s1 bs =>
          let s2 := s1.modCtx n (fun c => { c with sends := c.sends.map (fun (y : CSend) => if y.name = name then { y with sent := true } else y) })
          done (s2.toRank n x.rank x.seq (fun m => .chunkData m bs) (fun p m => .chunk p m bs))
  else
    match c.wait with
    | .path sa sb j red _ =>
      match c.chunkPair sa sb j red with
      | .error e => (s.stopCtx n e).freePath
      | .ok (a, b, len) =>
        match s.ctxRead c.onPath a len with
        | .wait s1 => s1
        | .fail s1 e va => failed s1 e va
        | .ok s1 xa =>
          match (if red = 0 then CtxRead.ok s1 [] else s1.ctxRead c.onPath b len) with
          | .wait s2 => s2
          | .fail s1 e va => failed s1 e va
          | .ok s2 xb =>
            match s2.ctxWrite c.onPath b (if red = 0 then xa else combineBytes red xb xa) with
            | .wait s3 => s3
            | .fail s1 e va => failed s1 e va
            | .ok s3 _ => done (s3.modCtx n Ctx.pass)
    | _ => s.freePath

/-- Whether the data path has something to do: the chunk op on it goes on once what it asked for is answered; a free path takes a ready one. -/
def State.pathDue (s : State) : Bool :=
  match s.courier.path with
  | some (n, _, _) => s.fab.asks.all (fun a => a.agent != (s.ctx n).onPath.id || a.ans.isSome)
  | none => s.chunkOps.any (fun o => o.paid || s.payReady (s.ctx o.ctx) o.cost)

/-- CHUNK_OP_COMPLETE: the chunk op on the path finishes, and the path takes the next ready one. -/
def execChunkOpComplete (s : State) : Host.Outcome State Fault Refusal :=
  let s1 := match s.courier.path with
    | some (n, kind, name) => s.performOp n kind name
    | none => s
  go (if s1.courier.path.isSome then s1 else s1.pickOp s1.chunkOps)

/-! ## Messages (R209, R214, R222, R362) -/

/-- A message reaches a context: one that bears another generation is dropped and counted. -/
def State.ctxMessage (s : State) (m : CtxMsg) (k : Ctx → State) : Host.Outcome State Fault Refusal :=
  let c := s.ctx m.ctx
  go (if c.gen ≠ m.gen then s.dropMessage m.ctx else k c)

/-- GRANT: the matched send may be transmitted; a grant that comes early is kept. -/
def execGrant (m : CtxMsg) (s : State) : Host.Outcome State Fault Refusal :=
  s.ctxMessage m (fun c =>
    if c.sends.any (fun x => x.rank == m.rank && x.seq == m.seq) then
      s.modCtx m.ctx (fun c => { c with
        sends := c.sends.map (fun (x : CSend) => if x.rank = m.rank ∧ x.seq = m.seq then { x with granted := true } else x) })
    else s.modCtx m.ctx (fun c => c.modPeer m.rank (fun x => { x with grants := addNat m.seq x.grants })))

/-- The answer of a receiver to a chunk. -/
def State.ackChunk (s : State) (m : CtxMsg) (ok : Bool) : State :=
  s.toRank m.ctx m.rank m.seq (fun a => .chunkAcknowledgement a ok) (fun p a => .chunkAck p a ok)

/-- The bytes of a piece that another package's Porter was granted: they are written into the slot and acknowledged when every byte is
performed; bytes for no such grant are dropped and counted (R215, R222). -/
def State.postedArrival (s : State) (m : CtxMsg) (c : Ctx) (d : PostedReq) (offs : List Nat) (bytes : List Byte) : State :=
  if !(s.courier.posted.contains d) then s.dropMessage m.ctx
  else
    let answer := fun (s : State) (ok : Bool) =>
      ({ s with courier := { s.courier with posted := s.courier.posted.filter (fun x => x != d) } }).tellTo d.srcPkg (.postedAck d.srcPkg d ok)
    match s.postedWrite c d.buf (offs.zip bytes) with
    | .ok s1 _ => answer s1 true
    | .wait s1 => s1.push (.chunkData m bytes)
    | .fail s1 _ _ => answer s1 false

/-- CHUNK_DATA: the bytes are written, or reduced, into the reserved chunk and acknowledged; bytes for no open grant are
dropped and counted; a length that differs stops the receiver with LENGTH. -/
def execChunkData (m : CtxMsg) (bytes : List Byte) (s : State) : Host.Outcome State Fault Refusal :=
  s.ctxMessage m (fun c =>
    let drop := s.dropMessage m.ctx
    match m.posted with
    | some (d, offs) => s.postedArrival m c d offs bytes
    | none =>
    match c.wait with
    | .chunk p k slot j red src =>
      if c.st ≠ 1 ∨ p ≠ m.rank ∨ k ≠ m.seq then drop
      else
        match c.chunkOf slot j with
        | .error e => s.stopCtx m.ctx e
        | .ok (b, len) =>
          if bytes.length ≠ len then (s.ackChunk m false).stopCtx m.ctx 8
          else
            -- a parked context takes the bytes when it goes on
            let again := fun (s : State) => s.push (.chunkData m bytes)
            let a := match c.chunkOf src j with | .ok (a, _) => a | .error _ => b
            match (if red = 0 then CtxRead.ok s [] else s.ctxRead c a len) with
            | .wait s1 => again s1
            | .fail s1 e va => if e = .translation then again (s1.parkCtx m.ctx va) else s1.ctxFail m.ctx e va
            | .ok s1 xa =>
              match s1.ctxWrite c b (if red = 0 then bytes else combineBytes red xa bytes) with
              | .wait s2 => again s2
              | .fail s2 e va => if e = .translation then again (s2.parkCtx m.ctx va) else s2.ctxFail m.ctx e va
              | .ok s2 _ => (s2.ackChunk m true).modCtx m.ctx Ctx.pass
    | _ => drop)

/-- CHUNK_ACKNOWLEDGEMENT: the send is done; a failed one stops the sender with REMOTE. That of a posted piece lets its command go on, or
fails the piece (R215). -/
def execChunkAcknowledgement (m : CtxMsg) (ok : Bool) (s : State) : Host.Outcome State Fault Refusal :=
  match m.posted with
  | some (d, _) =>
    match s.courier.pieces.find? (fun p => p.id == d.piece) with
    | some p => go (if ok then s.pieceDone p else s.pieceFailed p .remoteFailed 0)
    | none => go s
  | none =>
  s.ctxMessage m (fun c =>
    if c.sends.any (fun x => x.rank == m.rank && x.seq == m.seq && x.sent) then
      if ok then s.modCtx m.ctx (fun c => { c with sends := c.sends.filter (fun x => !(x.rank == m.rank && x.seq == m.seq)) })
      else s.stopCtx m.ctx 9
    else s)

/-- SIGNAL_ARRIVAL. -/
def execSignalArrival (m : CtxMsg) (s : State) : Host.Outcome State Fault Refusal :=
  s.ctxMessage m (fun _ => s.modCtx m.ctx (fun c => c.modPeer m.rank (fun x => { x with signals := x.signals + 1 })))

/-- WATCHDOG: a context without progress for its period stops; a parked one's watchdog is suspended (R222). -/
def execWatchdog (ctx : Nat) (s : State) : Host.Outcome State Fault Refusal :=
  go (if (s.ctx ctx).parked = 0 then s.stopCtx ctx 3 else s)

end Sys2Proof.Machine
end

