-- ==== Sys2Proof/Machine/Image.lean ====
section
/-! DEFINITION. The image of a saved workgroup (R314, R315). What a save keeps stands in the workgroup's own fields in State; here are the bytes
that the image area holds of it, section by section. Where R314 and R315 list the contents of a piece without their places, they follow one
another in the order listed, each in whole words (DESIGN CHOICE, log 109). -/

namespace Sys2Proof.Machine.Image

/-- The bytes of a 32-bit value. -/
def word (v : Word) : List Byte := leBytes 4 v.toNat

/-- The bytes of a 64-bit value. -/
def dword (v : DWord) : List Byte := leBytes 8 v.toNat

/-- A piece of a given size: bytes, then zeros. -/
def sized (n : Nat) (bs : List Byte) : List Byte := bs.take n ++ List.replicate (n - bs.length) 0#8

/-- Pads a section, so that the next starts on a 256-byte boundary. -/
def aligned (bs : List Byte) : List Byte := bs ++ List.replicate ((256 - bs.length % 256) % 256) 0#8

/-! ## Warp records (R315) -/

/-- p1–p7, one lane mask each. -/
def preds (m : FMap LaneMask) : List Byte := (List.range 7).flatMap (fun i => word (FMap.get m 0#32 (i + 1)))

/-- Each lane's `lpc`. -/
def lpcs (m : FMap Word) : List Byte := (List.range 32).flatMap (fun l => word (FMap.get m 0xFFFFFFFC#32 l))

/-- The code of what a warp waits for. -/
def waitCode : Wait → Nat
  | .barrier _ _ false => 1
  | .barrier _ _ true => 2
  | .ring _ _ _ _ => 3
  | .word _ _ _ _ _ _ _ => 4
  | .kids => 5
  | _ => 0

/-- The word at 0x18D8: in handler, stopped for exhaustion, and the wait code. -/
def stateWord (w : Warp) : Nat := (bif w.frame.isSome then 32 else 0) + (bif w.stopped then 16 else 0) + waitCode w.wait

/-- The wait record at 0x18E0: address, comparand, condition, scope, destination, ring and slot (R167, R177). -/
def waitRecord : Wait → List Byte
  | .word addr _ cond cmp scope dest _ => dword addr ++ [cmp, cond.setWidth 32, BitVec.ofNat 32 scope, dest.setWidth 32].flatMap word
  | .ring r slot _ _ => List.replicate 24 0#8 ++ leBytes 4 r ++ leBytes 4 slot
  | _ => []

/-- A failure that waits to be taken (R303): its cause, lanes and address. -/
def failure (f : Fail) : List Byte := leBytes 4 f.cause.code ++ word f.lanes ++ word (f.addr.setWidth 32)

/-- The executing-lane mask of a clause, if there is one. -/
def execOf (c : Option Clause) : LaneMask := match c with | some x => x.exec | none => 0#32

/-- The 64 bytes at 0x1900: the trap block, the trapped clause's executing lanes, and the pending failures (R303). -/
def trapRecord (w : Warp) : List Byte :=
  [w.tb.tcause, w.tb.tclause, w.tb.tindex, w.tb.tlanes, w.tb.taddrLo, w.tb.taddrHi,
    (match w.frame with | some f => execOf f.cl | none => 0#32)].flatMap word
  ++ ((match w.frame with | some f => f.pend | none => []) ++ w.pendFails).flatMap failure

/-- The trap frame at 0x1940 (R306). -/
def frameRecord (w : Warp) : List Byte := match w.frame with | some f => lpcs f.lpc ++ preds f.preds | none => []

/-- The resume point at 0x19DC: valid, inside a macro, the macro's operation, and the instruction's index. -/
def resumePoint (w : Warp) : Nat :=
  match w.cl, w.mac with
  | none, _ => 0
  | some c, none => 2 ^ 31 + c.idx % 16
  | some c, some m => 2 ^ 31 + 2 ^ 30 + 2 ^ 5 * (m.j % 32) + c.idx % 16

/-- A warp's 6,656-byte record. -/
def warpRecord (w : Warp) : List Byte :=
  (List.range 1536).flatMap (fun i => word (FMap.get w.vregs 0#32 i))                   -- 0x0000
  ++ lpcs w.lpc                                                                         -- 0x1800
  ++ (List.range 12).flatMap (fun n => word (FMap.get w.kregs 0#32 n))                  -- 0x1880
  ++ preds w.preds                                                                      -- 0x18B0
  ++ [w.aflags, w.amask, w.wident].flatMap word                                         -- 0x18CC
  ++ leBytes 4 (stateWord w)                                                            -- 0x18D8
  ++ word w.resting                                                                     -- 0x18DC
  ++ sized 32 (waitRecord w.wait)                                                       -- 0x18E0
  ++ sized 64 (trapRecord w)                                                            -- 0x1900
  ++ sized 156 (frameRecord w)                                                          -- 0x1940
  ++ leBytes 4 (resumePoint w)                                                          -- 0x19DC
  ++ word (execOf w.cl)                                                                 -- 0x19E0
  ++ word (w.clockHi.getD 0#32)                                                         -- 0x19E4
  ++ leBytes 4 (bif w.clockHi.isSome then 1 else 0)                                     -- 0x19E8
  ++ List.replicate 20 0#8                                                              -- 0x19EC

/-! ## Sections (R314) -/

/-- A stash window: base, length, offset and policy. -/
def window (g : Workgroup) (n : Nat) : List Byte :=
  sized 32 (match FMap.find g.windows n with | some x => dword x.base ++ leBytes 8 x.len ++ leBytes 8 x.off ++ leBytes 8 x.pol | none => [])

/-- A ring: base, stride, count and the phase bits. -/
def ring (g : Workgroup) (n : Nat) : List Byte :=
  sized 16 (match FMap.find g.rings n with | some x => leBytes 4 x.base ++ leBytes 4 x.stride ++ leBytes 4 x.n ++ leBytes 4 x.phase.toNat | none => [])

/-- A barrier: phase, latched count, arrivals. -/
def barrier (g : Workgroup) (n : Nat) : List Byte :=
  sized 8 (match FMap.find g.bars n with | some x => leBytes 2 (bif x.phase then 1 else 0) ++ leBytes 2 x.count ++ leBytes 2 x.arrivals | none => [])

/-- A macro image (R46). -/
def macroEntry (g : Workgroup) (n : Nat) : List Byte :=
  sized 400 (match FMap.find g.macros n with
    | some ops => leBytes 4 ops.length ++ ops.flatMap (fun o => word o.word ++ word o.ext ++ word (o.subst.setWidth 32))
    | none => [])

/-- A Porter record that has not started, with its queue's number. -/
def porterEntry (c : PorterCmd) : List Byte := sized 144 (leBytes 4 c.queue ++ leBytes 4 c.kind ++ leBytes 4 c.wid ++ leBytes 4 0 ++ c.record.take 128)

/-- What an MX entry's 144 bytes hold first: its warp, tile, kind and step. How its resolved operands are packed after them is not given: they
are FREE (log 109). -/
def mxHead (e : MxEntry) : List Byte :=
  [e.wid, e.acc, (match e.op with | .mma .. => 0 | .accz => 1 | .accld .. => 2 | .accst .. => 3), e.step].flatMap (leBytes 4)

/-- An MX entry. -/
def mxEntry (e : MxEntry) : List Byte := sized 144 (mxHead e ++ (Config.mxOperands e.id).take 128)

/-- The unstarted entries of the engines, in queue order (R204). -/
def engineEntries (g : Workgroup) : List Byte :=
  (g.porter.filter (fun c => !c.started)).flatMap porterEntry ++ g.mx.flatMap mxEntry

/-- A thread's record in spawn memory (R115, R116): `tid`, target, `aflags`, predicates, and the vector registers of its live set. -/
def spawnEntry (g : Workgroup) (t : Nat) : List Byte :=
  sized 256 (match g.spawn.find? (fun r => r.tid == t) with
    | some r => leBytes 4 r.tid ++ word r.target ++ word r.aflags ++ leBytes 4 r.preds.toNat
      ++ (List.range 48).flatMap (fun n => word (FMap.get r.regs 0#32 n))
    | none => [])

/-- An accumulator tile. -/
def tile (g : Workgroup) (n : Nat) : List Byte := (List.range 4096).flatMap (fun i => word (FMap.get g.acc 0#32 (4096 * n + i)))

/-- The sections after the header, in order; the tiles are there only when they move (R297). -/
def sections (g : Workgroup) (warps : List Warp) (tilesMove : Bool) : List (List Byte) :=
  [warps.flatMap warpRecord,
   (List.range (4096 * g.padUnits)).map (FMap.get g.pad 0#8),
   (List.range 8).flatMap (window g), (List.range 8).flatMap (ring g), (List.range 16).flatMap (barrier g), (List.range 64).flatMap (macroEntry g),
   engineEntries g,
   (List.range g.size).flatMap (spawnEntry g),
   if tilesMove then (List.range g.accAllot).flatMap (tile g) else []]

/-- The offsets of sections that follow one another from an offset on. -/
def offsets : Nat → List (List Byte) → List Nat
  | _, [] => []
  | o, s :: rest => o :: offsets (o + (aligned s).length) rest

/-- The 256-byte header. -/
def header (g : Workgroup) (warps : List Warp) (tilesMove : Bool) : List Byte :=
  sized 256 (word g.grid ++ leBytes 4 g.x ++ leBytes 4 g.y ++ leBytes 4 g.z ++ leBytes 4 g.size ++ leBytes 4 warps.length
    ++ leBytes 4 g.padUnits ++ leBytes 4 g.accAllot
    ++ leBytes 4 ((bif g.resting then 1 else 0) + (bif g.latch then 2 else 0) + (bif tilesMove then 4 else 0))
    ++ leBytes 8 g.ipurse ++ leBytes 8 g.mpurse ++ word g.rest ++ dword g.grace ++ leBytes 8 g.graceUnits ++ leBytes 8 g.graceBytes
    ++ word g.tvec ++ word g.scopechk ++ (offsets 256 (sections g warps tilesMove)).flatMap (leBytes 4))

/-- The image: the header and the sections, each on a 256-byte boundary. -/
def bytes (g : Workgroup) (warps : List Warp) (tilesMove : Bool) : List Byte :=
  header g warps tilesMove ++ (sections g warps tilesMove).flatMap aligned

end Sys2Proof.Machine.Image

namespace Sys2Proof.Machine

/-- The warps of a workgroup in `wident` order. -/
def State.imageWarps (s : State) (serial : Nat) : List Warp :=
  ((s.warpsOf serial).filter (fun w => w.present)).foldl (fun l w =>
    l.takeWhile (fun x => decide (x.wid < w.wid)) ++ w :: l.dropWhile (fun x => decide (x.wid < w.wid))) []

/-- The bytes of a workgroup's image area while it is saved: none otherwise (R314). Its accumulator tiles are in it when it was vacated (R297). -/
def State.imageArea (s : State) (serial : Nat) : Option (List Byte) :=
  match s.findWg serial with
  | some g => if g.place = .saved then some (Image.bytes g (s.imageWarps serial) (g.saveCause == .displaced)) else none
  | none => none

end Sys2Proof.Machine
end

