-- ==== Sys2Proof/Machine/WarpEvents.lean ====
section
/-! DEFINITION. What happens to warps and workgroups: results and replies that return, the entry of a waiting handler, the
active set, the former, and the save of a workgroup (R14, R117, R149, R292 to R299, R302). -/

namespace Sys2Proof.Machine

/-! ## Results and replies -/

/-- VARIABLE_RESULT_RETURN: the result has come back and its flags are merged; it commits at the next marker or `WAIT`. -/
def execVariableResultReturn (w : WarpId) (id : Nat) (s : State) : Host.Outcome State Fault Refusal :=
  let fl := match s.findWarp w with
    | some x => (match x.outs.find? (fun (o : Out) => o.id == id) with | some o => o.flags | none => 0#32)
    | none => 0#32
  go ((s.outReply w id [] none).mapWarp w (fun x => x.addFlags fl))

/-- The bytes that a request's reply carries for it. -/
def Req.replyBytes (r : Req) (rep : Reply) : List Byte :=
  match rep with
  | .value x => leBytes r.len x.toNat
  | .fill cells _ _ => (List.range r.len).map (fun i =>
      match cells.find? (fun c => c.1 == r.key + i) with | some c => c.2 | none => 0#8)
  | _ => []

/-- The values that a reply puts in a request's destination parts. -/
def Req.replyVals (r : Req) (rep : Reply) (parts : List Part) : List (Nat × Word) :=
  match rep with
  | .value _ | .fill _ _ _ => partVals parts (r.replyBytes rep)
  | _ => []

/-- The failure that a reply reports (R149). -/
def Req.replyFail (r : Req) (rep : Reply) (lns : LaneMask) : Option Fail :=
  match rep with
  | .failed c => some { cause := c, lanes := lns, addr := r.vaddr }
  | _ => none

/-- At a store's acknowledgement its bytes leave the pending-store buffer, and the core drops an untracked copy (R243). -/
def State.storeAcked (s : State) (r : Req) : State :=
  if s.fab.pend.any (fun p => p.req == r.id) then
    s.modFab (fun f => { f with
      pend := f.pend.filter (fun p => p.req != r.id)
      lines := f.lines.filter (fun l => !(l.who == r.who && l.grain == r.base && l.st == LineState.s)) })
  else s

/-- A peer has answered a request: it is outstanding no more, and its run of timeouts ends (R341). -/
def State.peerDone (s : State) (r : Req) (answered : Bool) : State :=
  match peerOfKey r.key with
  | none => s
  | some p =>
    let h := s.host
    { s with host := { h with
        peerReqs := FMap.put h.peerReqs [] p ((FMap.get h.peerReqs [] p).filter (fun x => x != r.id))
        peerTimeouts := if answered then FMap.put h.peerTimeouts 0 p 0 else h.peerTimeouts } }

/-- A core whose access was performed at the home drops the untracked copy it holds of the grain, which may be older (R228 rule 1). -/
def State.dropUntracked (s : State) (r : Req) : State :=
  match r.who, r.dest with
  | _, .engine => s
  | .core _ c, _ =>
    if r.kind == .wtr || r.kind == .atomic || r.kind == .acc then (s.dropS c r.base).untrackedStale c r.base r.grain else s
  | _, _ => s

/-- The bytes of a reply, or the failure it reports. -/
def Req.replyRead (r : Req) (rep : Reply) : Except Cause (List Byte) :=
  match rep with
  | .failed c => .error c
  | _ => .ok (r.replyBytes rep)

/-- A reply reaches the request that awaits it. -/
def State.takeReply (s : State) (r : Req) (rep : Reply) : State :=
  let s1 := (((s.peerDone r (rep != .failed .remoteFailed)).dropReq r.id).storeAcked r).dropUntracked r
  match r.dest with
  | .warp w out parts lns => s1.outReply w out (r.replyVals rep parts) (r.replyFail rep lns) parts
  | .waybill t => s1.push (.replySplit t rep)
  | .outside id => s1.tellTo r.who.pkg (.reply id rep s1.ownInc)
  | .window g n sec => s1.fillReply r g n sec ((r.replyRead rep).map (cellsAt r.key))
  | .waita w num woken => s1.wordReply w num woken ((r.replyRead rep).map (fun bs => BitVec.ofNat 32 (leNat bs)))
  | .prefetch | .settle | .forced _ => s1
  | .engine => s1.askAnswered r.id (match rep with | .failed c => some c | _ => none) (r.replyBytes rep)

/-- A reply for a number that no request bears: a piece of a rank transfer, or a late reply, which is dropped and counted
(R215, R267). -/
def State.otherReply (s : State) (id : Nat) (rep : Reply) : State :=
  match s.courier.pieces.find? (fun p => p.id == id) with
  | some p => (match rep with | .failed c => s.pieceFailed p c 0 | _ => s.pieceDone p)
  | none => s.count 6

/-- MEMORY_REPLY. -/
def execMemoryReply (req : Nat) (r : Reply) (s : State) : Host.Outcome State Fault Refusal :=
  go (match s.findReq req with
    | some q => s.takeReply q r
    | none => s.otherReply req r)

/-- HANDLER_ENTRY: the results are all in, and the trap that waited goes to the handler (R302, R306). -/
def execHandlerEntry (w : WarpId) (s : State) : Host.Outcome State Fault Refusal :=
  let s0 := s.focusWarp w
  if !(s0.isWarp w) then go s0
  else
    match s0.w.wait, s0.w.trap with
    | .drain, some r =>
      if s0.w.awaits (fun o => o.hasDest) then go (s0.push (.handlerEntry w))
      else go (({ s0 with w := { s0.w with wait := .none, trap := none } }).deliver r)
    | _, _ => go s0

/-! ## The active set (R291, R292) -/

/-- The warps with a slot in a partition of a core. -/
def State.inPartition (s : State) (core part : Nat) : List Warp :=
  s.allWarps.filter (fun w => w.part == part && w.inUse
    && (match s.findWg w.wg with | some g => g.core == core && g.place == .running | none => false))

/-- Whether a warp stops at a clause boundary before it selects one: its grid is aborted, a forced yield has begun, or
exhaustion is latched (R294, R296, R317). -/
def State.stopsFor (s : State) (w : Warp) (g : Workgroup) : Bool :=
  (match s.findGrid g.grid with | some x => x.aborted | none => false)
    || g.forced
    || (g.resting && s.noFunds g)
    || (w.frame.isNone && !w.rested && (g.latch || (!g.resting && s.noFunds g)))

/-- Whether a warp can issue once it is in the active set (R291). A warp that stands at a boundary, waiting for the classes of
the next clause, stops there without waiting on (R294). -/
def State.warpReady (s : State) (w : Warp) : Bool :=
  w.present && !w.stopped
    && (match s.findWg w.wg with
        | some g => decide (g.place = .running) &&
          (match w.wait with
           | .none => w.cl.isSome || w.live &&& ~~~w.resting != 0#32
           | .classes _ => s.waitOver w || (w.cl.isNone && s.stopsFor w g)
           | _ => s.waitOver w)
        | none => false)

/-- The older of two warps. -/
def olderWarp (a : Option Warp) (b : Warp) : Option Warp :=
  match a with
  | none => some b
  | some x => if b.age < x.age then some b else some x

/-- The oldest ready pending warp of a partition, when its active set has room: 8 warps. -/
def State.swapIn (s : State) (core part : Nat) : Option Warp :=
  let ws := s.inPartition core part
  if 8 ≤ (ws.filter (fun w => w.active)).length then none
  else (ws.filter (fun w => !w.active && s.warpReady w)).foldl olderWarp none

/-- ACTIVE_SET_SWAP: the oldest ready pending warp takes the free slot of the active set. -/
def execActiveSetSwap (core partition : Nat) (s : State) : Host.Outcome State Fault Refusal :=
  match s.swapIn core partition with
  | none => go s
  | some w => go (s.mapWarp ⟨w.wg, w.wid⟩ (fun x => { x with active := true }))

/-! ## The former (R116 to R118) -/

/-- The partition of a core with the most free slots, the lowest-numbered on a tie (R289). -/
def State.emptiest (s : State) (core : Nat) : Nat :=
  ((List.range 6).foldl (fun (best : Nat × Nat) p =>
    let n := (s.inPartition core p).length
    if n < best.2 then (p, n) else best) (0, 1000)).1

/-- A formed warp at its start (R118). -/
def formedWarp (g : Workgroup) (recs : List SpawnRec) (target : Word) (wid part age : Nat) : Warp :=
  let rs := recs.zipIdx
  let origin := match recs with | r :: _ => r.origin | [] => 0
  { Warp.vacant with
    present := true, wg := g.serial, wid := wid, formed := true, part := part, age := age
    lpc := rs.foldl (fun m p => FMap.put m lpcExited p.2 target) []
    tids := rs.foldl (fun m p => FMap.put m 0 p.2 p.1.tid) []
    vregs := rs.foldl (fun m p => p.1.regs.foldl (fun m v => FMap.put m 0#32 (vkey v.1 p.2) v.2) m) []
    kregs := FMap.put (FMap.put [] 0#32 0 (loWord g.arg)) 0#32 1 (hiWord g.arg)
    preds := (List.range 8).foldl (fun m n =>
      if n = 0 then m else FMap.put m 0#32 n (maskOf (fun l => match recs[l]? with | some r => r.preds.getLsbD n | none => false))) []
    wident := BitVec.ofNat 32 (g.spawnSerial % 65536 * 65536 + origin % 256 * 256 + wid % 256)
    aflags := recs.foldl (fun f r => f ||| r.aflags) 0#32
    amask := match recs with | r :: _ => r.amask | [] => 0#32 }

/-- The first n threads of a target, and the threads left in spawn memory. -/
def takeTarget (t : Word) : Nat → List SpawnRec → List SpawnRec × List SpawnRec
  | _, [] => ([], [])
  | 0, rs => ([], rs)
  | n + 1, r :: rs =>
    if r.target = t then
      let (a, b) := takeTarget t n rs
      (r :: a, b)
    else
      let (a, b) := takeTarget t (n + 1) rs
      (a, r :: b)

/-- FORMED_WARP_EMIT: a warp of at most 32 waiting threads of a due target (R117). -/
def execFormedWarpEmit (wg : Nat) (target : Word) (s : State) : Host.Outcome State Fault Refusal :=
  let s0 := s.focusWg wg
  if s0.g.serial ≠ wg ∨ s0.targetDue s0.g target = false then go s0
  else
    let (recs, rest) := takeTarget target 32 s0.g.spawn
    let (s1, age) := s0.fresh
    let wid := (s1.formedWid s1.g).getD 95
    let w := formedWarp s1.g recs target wid (s1.emptiest s1.g.core) age
    let s2 := s1.putBack
    go ({ s2 with
      warps := w :: s2.warps.filter (fun x => !(x.wg == wg && x.wid == wid))
      g := { s2.g with spawn := rest, spawnSerial := s2.g.spawnSerial + 1, due := s2.g.due.filter (fun t => t != target) } })

/-- FORMER_TIMEOUT: 4,096 clocks have passed since the first waiting thread for a target arrived. -/
def execFormerTimeout (wg : Nat) (target : Word) (s : State) : Host.Outcome State Fault Refusal :=
  go (s.mapWg wg (fun g =>
    if g.place == .running && g.spawn.any (fun r => r.target == target) && !(g.due.contains target) then
      { g with due := g.due ++ [target] }
    else g))

/-! ## Yields (R294, R296) -/

/-- GRACE_EXHAUSTION: a grace counter reached zero in resting mode (R294). One told of a resting mode that has ended brings nothing
about. -/
def execGraceExhaustion (wg : Nat) (s : State) : Host.Outcome State Fault Refusal :=
  let s0 := s.focusWg wg
  go (if s0.g.serial = wg ∧ s0.g.place = .running ∧ s0.g.resting ∧ s0.noFunds s0.g then s0.beginForced else s0)

/-- FORCED_YIELD: a warp that stands at a clause boundary stops now, the others at their next one (R296). One told of a yield that has
ended with its save brings nothing about. -/
def execForcedYield (wg : Nat) (s : State) : Host.Outcome State Fault Refusal :=
  let s0 := s.focusWg wg
  if s0.g.serial ≠ wg ∨ s0.g.place ≠ .running ∨ s0.g.forced = false then go s0
  else
    go (s0.mapWarps wg (fun w =>
      if w.cl.isNone && w.live != 0#32 && (match w.wait with | .none | .classes _ => true | _ => false) then
        { w with wait := .none, stopped := true, active := false }
      else w))

/-! ## The save (R123, R204, R295, R299, R302) -/

/-- Whether a workgroup has begun to yield. -/
def State.yielding (s : State) (g : Workgroup) : Bool :=
  g.forced || g.resting || g.latch || (s.warpsOf g.serial).any (fun w => w.resting &&& w.live != 0#32)

/-- Whether a workgroup is to be saved: it has begun to yield, every warp is parked or has exited, its stores have been
performed, and there is something to save: a live warp, or threads and commands that cannot go on. -/
def State.saveDue (s : State) (g : Workgroup) : Bool :=
  let ws := s.warpsOf g.serial
  let early := fun (w : Warp) => match w.wait with | .word _ _ _ _ _ _ _ => g.latch && !w.rested | _ => false
  g.place == .running && s.yielding g && ws.all (fun w => w.atRest && !(early w)) && s.storesQuiet g.serial
    && (ws.any (fun w => w.live != 0#32) || !g.spawn.isEmpty || !g.mx.isEmpty || !g.porter.isEmpty)

/-- Installs the results that have returned (R302); one that failed keeps its failure for its own commit point (R149). -/
def Warp.commitForSave (w : Warp) : Warp :=
  let (w1, kept) := w.outs.foldl (fun (acc : Warp × List Out) (o : Out) =>
    let (w, kept) := acc
    if o.hasDest && o.waiting == 0 then
      let kept1 := w.superseded o kept
      (w.install o, if o.fail.isSome then kept1 ++ [{ o with keys := [], vals := [] }] else kept1)
    else (w, kept ++ [o])) (w, [])
  { w1 with outs := kept }

/-- A warp's clause after a wait that ends at its restart point: a clause in which nothing has issued is selected again. -/
def Warp.restartClause (w : Warp) : Warp :=
  match w.cl with
  | some c => if c.hdr.n = 0#4 then { w with cl := none } else w
  | none => w

/-- A warp as its image keeps it: a cancelled token leaves the instruction to issue again from its restart point, where it
is charged again (R300, R312), but for an operation of a macro, which is not charged twice (R127). -/
def Warp.saved (w : Warp) : Warp :=
  let w1 := { w.commitForSave with res := if w.cl.isSome then w.res else none, active := false, loopLo := 0, loopHi := 0, loopWords := [] }
  match w1.wait with
  | .token _ =>
    let w2 : Warp := ({ w1 with wait := .header, trap := none }).restartClause
    if w1.mac.isSome || (match w1.trap with | some r => r.deferred | none => false) then w2 else w2.uncharge
  | _ => w1

/-- Cancels the tokens on which warps of a workgroup are parked (R312). -/
def State.cancelTokens (s : State) (serial : Nat) : State :=
  let mine := fun (f : FaultEntry) => match f.what with | .warp w => w.wg == serial | _ => false
  { s with host := { s.host with
      faults := s.host.faults.map (fun (f : FaultEntry) => if mine f then { f with cancelled := true } else f)
      faultWait := s.host.faultWait.filter (fun p => !(mine p.1)) } }

/-- Cleans every stash window of the workgroup whose turn it is (R22, R164). -/
def State.cleanWindows (s : State) : State :=
  let s1 := s.g.windows.foldl (fun (s : State) p =>
    ((s.voidWindow s.g.serial p.1).writeBackWindow s.g.serial p.1 p.2 false (fun _ => .forced s.g.serial)).1) s
  s1.modG (fun g => { g with windows := g.windows.map (fun (q : Nat × Window) => (q.1, { q.2 with valid := [], dirty := [], failed := [] })) })

/-- Why a workgroup is saved (R295). -/
def Workgroup.causeOfSave (g : Workgroup) : SaveCause :=
  if g.heldPurses.isSome then .displaced
  else if g.latch || g.resting then .exhaustion
  else if g.forced then g.saveCause
  else .yield

/-- The records of the engine entries that a workgroup's end discards (R317). -/
def Workgroup.discards (g : Workgroup) (status : Nat) : List Rec :=
  (g.porter.filter (fun c => !c.started)).map (fun c => discardRecord g c.queue c.clause c.index status)
  ++ g.mx.map (fun e => discardRecord g 0 e.clause e.index status)

/-- The workgroup whose turn it is has completed with its status: its grid counts it, and one that is not OK posts a record. -/
def State.wgEnded (s : State) : State :=
  let g := s.g
  let recs := if g.status = 0 then [] else g.discards g.status
  let s1 := (s.putBack).modG (fun h => { h with
    place := .complete, spawn := [], mx := [], porter := h.porter.filter (fun c => c.started), latch := false })
  let s2 := { s1 with warps := s1.warps.filter (fun w => w.wg != g.serial) }
  let s3 := s2.mapGrid g.grid (fun gr => { gr with done := gr.done + 1, status := max gr.status g.status })
  let s4 := recs.foldl State.post s3
  if g.status = 0 then s4
  else s4.post { kind := 4, cause := g.status, grid := g.grid, x := g.x, y := g.y, z := g.z, core := g.core }

/-- Whether a forced yield is what a workgroup is saved for. -/
def Workgroup.savedByForce (g : Workgroup) : Bool := g.forced && g.saveCause == .exhaustion

/-- The image of a forced yield cannot be written: the workgroup ends with BUDGET to the host, and completes FAULTED (R296, R304). -/
def State.imageLost (s : State) : State :=
  let s1 := (s.modG (fun g => { g with status := max g.status 3 })).wgEnded
  s1.post { kind := 1, cause := Cause.budget.code, grid := s.g.grid, x := s.g.x, y := s.g.y, z := s.g.z, core := s.g.core }

/-- WORKGROUP_SAVE; whether a write to the image fails in a forced yield is not given (R296). -/
def execWorkgroupSave (wg : Nat) (s : State) : Host.Outcome State Fault Refusal :=
  let s0 := s.focusWg wg
  if s0.g.serial ≠ wg ∨ s0.saveDue s0.g = false then go s0
  else
    let cause := s0.g.causeOfSave
    let (s0, n) := if s0.g.savedByForce then s0.draw else (s0, 0)
    if s0.g.savedByForce && Config.imageFails n then go s0.imageLost else
    let s1 := (s0.cleanWindows.cancelTokens wg).mapWarps wg Warp.saved
    go (s1.modG (fun g => { (s0.warpsOf wg).foldl (fun g w => g.giveBack (if w.cl.isSome then none else w.res)) g with
      place := .saved, saveCause := cause, due := []
      mx := g.mx.map (fun (e : MxEntry) => { e with released := e.granted }) }))

/-- Whether the write-backs of a save are still on their way. -/
def State.savePending (s : State) (serial : Nat) : Bool :=
  s.fab.reqs.any (fun r => r.dest == .forced serial)
    || s.fab.wbuf.any (fun b => match b.dest with | some (w, _) => w.wg == serial && w.wid == 4095 | none => false)

end Sys2Proof.Machine
end

