-- ==== Sys2Proof/Machine/Grid.lean ====
section
/-! DEFINITION. Packets, grids and the dispatcher: reading and checking packets, the kernel's macro images, starting grids,
barrier-and and itinerary packets, placing, restoring, displacing and completing workgroups, and the completion of packets
(R7, R8, R27, R129, R282 to R290, R295, R297, R299, R219). -/

namespace Sys2Proof.Machine

/-! ## Packet fields (R284, R285) -/

def pktHeader (b : List Byte) : Nat := field b 0 2
def pktType (b : List Byte) : Nat := pktHeader b % 16
def pktAcquire (b : List Byte) : Nat := bitsNat (pktHeader b) 6 4
def pktRelease (b : List Byte) : Nat := bitsNat (pktHeader b) 9 7
def pktBarrier (b : List Byte) : Bool := bitNat (pktHeader b) 10
def pktRefill (b : List Byte) : Bool := bitNat (pktHeader b) 11
def pktSize (b : List Byte) : Nat := field b 2 2
def pktRoles (b : List Byte) : Nat := field b 0xC 2
def pktShare (b : List Byte) : Nat := if field b 0x38 2 = 0 then 48 else field b 0x38 2
def pktIpurse (b : List Byte) : Nat := field b 0x20 8 % 2 ^ 48
def pktMpurse (b : List Byte) : Nat := field b 0x28 8 % 2 ^ 48
def pktFunded (b : List Byte) : Bool := bitNat (field b 0x28 8) 48
def pktWord (b : List Byte) : Nat := field b 0x30 8
def pktValue (b : List Byte) : Nat := field b 0x3C 4

/-- The rules that every packet type shares: the header, the completion word and its value. -/
def headerOk (b : List Byte) : Bool :=
  decide (pktHeader b < 2 ^ 14) && decide (pktAcquire b ≤ 5) && decide (pktRelease b ≤ 5)
    && pktWord b % 4 == 0 && decide (pktValue b < 2 ^ 31)

/-- The rules of a type-1 packet that LAUNCH checks too (R131, R284, R285). -/
def gridFieldsOk (b : List Byte) : Bool :=
  let warps := warpsFor (pktSize b)
  let r := pktRoles b
  pktType b == 1 && headerOk b && decide (1 ≤ pktSize b) && decide (pktSize b ≤ 1024)
    && decide (1 ≤ field b 4 4) && decide (1 ≤ field b 8 2) && decide (1 ≤ field b 0xA 2)
    && decide (bitsNat r 15 10 + bitsNat r 9 5 + bitsNat r 4 0 ≤ warps)
    && decide (field b 0xE 1 ≤ 64) && decide (field b 0xF 1 ≤ 96) && field b 0x10 8 % 4 == 0
    && decide (field b 0x20 8 < 2 ^ 48) && decide (field b 0x28 8 < 2 ^ 49) && field b 0x3B 1 == 0
    && decide (pktShare b * warps ≤ 2048)

/-- The rules of a type-1 packet from a queue. -/
def hostGridOk (b : List Byte) : Bool := gridFieldsOk b && !(pktFunded b) && field b 0x3A 1 == 0

/-- The dependency addresses of a type-2 packet (R286). -/
def pktDeps (b : List Byte) : List Nat := [field b 8 8, field b 0x10 8, field b 0x18 8, field b 0x20 8, field b 0x28 8]

/-- The rules of a type-2 packet (R286). -/
def barrierAndOk (b : List Byte) : Bool :=
  headerOk b && field b 2 6 == 0 && field b 0x38 4 == 0 && (pktDeps b).all (fun a => a % 4 == 0)

/-- The rules of a type-3 packet (R219). -/
def itineraryOk (b : List Byte) : Bool :=
  headerOk b && bitsNat (pktHeader b) 13 12 == 0 && pktSize b == 0 && decide (field b 4 4 < 64) && field b 0xC 4 == 0
    && field b 0x10 8 % 8 == 0 && field b 0x18 8 % 256 == 0 && field b 0x20 8 == 0 && decide (field b 0x28 8 < 2 ^ 48)
    && field b 0x38 4 == 0

/-! ## Queues (R282, R283) -/

/-- The control word of a queue's descriptor. -/
def State.queueCtl (s : State) (q : Queue) : Nat := s.queueField q 8 4
def State.queueLevel (s : State) (q : Queue) : Nat := bitsNat (s.queueCtl q) 16 16
def State.queuePrio (s : State) (q : Queue) : Nat := bitsNat (s.queueCtl q) 9 8

/-- The entry count of a queue. -/
def State.queueEntries (s : State) (q : Queue) : Nat := 2 ^ (s.queueCtl q % 32)

/-- Changes a queue. -/
def State.modQueue (s : State) (n : Nat) (f : Queue → Queue) : State :=
  { s with host := { s.host with queues := s.host.queues.map (fun (p : Nat × Queue) => if p.1 = n then (n, f p.2) else p) } }

/-- The bytes of packet i of a queue; zeros, which no packet type allows, where they cannot be read. -/
def State.packetBytes (s : State) (q : Queue) (i : Nat) : List Byte :=
  match physKey (BitVec.ofNat 64 (s.queueField q 0 8 + i % s.queueEntries q * 64)) with
  | some k => (match s.homeRead k 64 with | .ok bs => bs | .error _ => List.replicate 64 0#8)
  | none => List.replicate 64 0#8

/-- A packet's purses with the queue's defaults under `DEFP` (R284). -/
def State.withDefaults (s : State) (q : Queue) (b : List Byte) : List Byte :=
  if bitNat (s.queueCtl q) 19 then
    let i := if pktType b = 1 ∧ field b 0x20 8 = 0 then s.queueField q 0x20 8 % 2 ^ 48 else field b 0x20 8
    let m := if (pktType b = 1 ∨ pktType b = 3) ∧ field b 0x28 8 = 0 then s.queueField q 0x28 8 % 2 ^ 48 else field b 0x28 8
    b.take 0x20 ++ leBytes 8 i ++ leBytes 8 m ++ b.drop 0x30
  else b

/-- A packet as it is copied into the packet processor. -/
def newPacket (id queue : Nat) (b : List Byte) (grid : Word) : Packet :=
  { id := id, queue := queue, bytes := b, started := false, deps := [], token := 0, grid := grid, status := 0, ctx := 0
    finished := false }

/-- Reads the packets of a queue from its read index up to an index, in order. -/
def State.readPackets (s : State) (queue : Nat) (q : Queue) : Nat → Nat → State
  | 0, _ => s
  | n + 1, i =>
    let (s1, id) := s.fresh
    let p := newPacket id queue (s1.withDefaults q (s1.packetBytes q i)) 0#32
    ({ s1 with packets := s1.packets ++ [p] }).readPackets queue q n (i + 1)

/-- NOTIFY: the packets up to the index are read, or an index out of range clears `ENABLE` and is reported (R283). -/
def execNotify (queue : Nat) (index : DWord) (s : State) : Host.Outcome State Fault Refusal :=
  match FMap.find s.host.queues queue with
  | none => go s
  | some q =>
    if !(bitNat (s.queueCtl q) 18) then go s
    else
      let i := index.toNat
      if i < q.readIdx ∨ q.readIdx + s.queueEntries q < i then
        let s1 := match physKey (q.desc + 8#64) with
          | some k => s.hostWrite k (leBytes 4 (s.queueCtl q - 2 ^ 18))
          | none => s
        go (s1.post { kind := 6, cause := 0x52, addr := q.desc, extra := BitVec.ofNat 64 queue })
      else
        let s1 := s.readPackets queue q (i - q.readIdx) q.readIdx
        go ((s1.modQueue queue (fun x => { x with readIdx := i, notified := i })).queuePut q 0x18 i)

/-! ## Accesses of the packet processor -/

/-- A stand-in for the owner of an access in an address space at a level, made for a packet. -/
def accessor (space level : Nat) (packet : Nat := 0) : Ctx := { Ctx.idle 0 with space := space, level := level, id := packet }

/-- The space and level under which a packet's accesses are made: those of its grid, else its queue's. -/
def State.packetSpace (s : State) (p : Packet) : Nat × Nat :=
  match s.findGrid p.grid with
  | some g => (g.space, g.level)
  | none =>
    match FMap.find s.host.queues p.queue with
    | some q => (q.space, s.queueLevel q)
    | none => (0, 0)

/-- Changes a packet. -/
def State.modPacket (s : State) (id : Nat) (f : Packet → Packet) : State :=
  { s with packets := s.packets.map (fun p => if p.id = id then f p else p) }

/-- A packet by identifier. -/
def State.findPacket (s : State) (id : Nat) : Option Packet := s.packets.find? (fun p => p.id == id)

/-- A kind-6 record of a packet. -/
def State.packetRecord (s : State) (p : Packet) (c : Cause) (va token : Nat) : Rec :=
  { kind := 6, cause := c.code, grid := p.grid, addr := s.recordAddr (s.packetSpace p).1 c (BitVec.ofNat 64 va)
    extra := BitVec.ofNat 64 p.queue, token := token }

/-- Parks a packet on a token for a TRANSLATION fault (R286, R287, R129). -/
def State.parkPacket (s : State) (p : Packet) (what : Parked) (va : Nat) : State :=
  let (s1, t) := s.parkFault what [] (s.packetRecord p .translation va 0)
  s1.modPacket p.id (fun x => { x with token := t })

/-- A packet ends with a status before it has started anything. -/
def State.endPacket (s : State) (p : Packet) (status : Nat) : State :=
  s.modPacket p.id (fun x => { x with started := true, finished := true, status := max x.status status })

/-- An acquire at a scope for work about to be placed: untracked copies of the package's cores go (R230, R287). -/
def State.packageAcquire (s : State) (scope : Nat) : State :=
  if scope < 2 then s
  else s.modFab (fun f => { f with lines := f.lines.filter (fun l => !(l.st == LineState.s && ownParty l.who)) })

/-! ## The kernel's macro images (R112, R128, R129) -/

/-- What the check of a kernel comes to. -/
inductive KernelRes where
  | ok (s : State) (macros : FMap (List MacroOp))
  | refuse (va : Nat)
  | fail (c : Cause) (va : Nat)
  | wait (s : State)

/-- A read through the instruction-fetch path of a space. -/
def State.codeRead (s : State) (space level va n : Nat) : CtxRead :=
  match s.ctxKeys (accessor space level) .exec (splitPages va n) with
  | .error (.walkWait, a) => .wait (s.askWalk pkgParty s.acting space a false)
  | .error (e, a) => .fail s e a
  | .ok ks =>
    match s.homeGets pkgParty s.acting ks with
    | .wait s1 => .wait s1
    | .fail e => .fail s e va
    | .ok bs => .ok s bs

/-- Checks the images that the words of a macro table name, from macro n on. -/
def State.kernelImages (s : State) (space level : Nat) (code : DWord) : List Nat → Nat → FMap (List MacroOp) → KernelRes
  | [], _, m => .ok s m
  | off :: rest, n, m =>
    if off = 0 then s.kernelImages space level code rest (n + 1) m
    else
      let at_ := (code + (BitVec.ofNat 32 off).signExtend 64).toNat
      if off % 4 ≠ 0 then .refuse at_
      else
        match s.codeRead space level at_ 4 with
        | .wait s1 => .wait s1
        | .fail _ c a => .fail c a
        | .ok s1 hb =>
          let hdr := leNat hb
          if hdr = 0 ∨ 32 < hdr then .refuse at_
          else
            match s1.codeRead space level (at_ + 4) (12 * hdr) with
            | .wait s2 => .wait s2
            | .fail _ c a => .fail c a
            | .ok s2 bs =>
              let (ops, top) := imageOps bs hdr
              match macroImage (BitVec.ofNat 32 hdr) ops top with
              | none => .refuse at_
              | some img => s2.kernelImages space level code rest (n + 1) (FMap.insert m n img)

/-- Reads the kernel's prologue and its macro images (R129). -/
def State.kernelCheck (s : State) (space level : Nat) (code : DWord) : KernelRes :=
  match s.codeRead space level (code - 8#64).toNat 8 with
  | .wait s1 => .wait s1
  | .fail _ c a => .fail c a
  | .ok s1 pb =>
    let off := field pb 4 4
    if off = 0 then .ok s1 []
    else
      match s1.codeRead space level (code + (BitVec.ofNat 32 off).signExtend 64).toNat 256 with
      | .wait s2 => .wait s2
      | .fail _ c a => .fail c a
      | .ok s2 tb => s2.kernelImages space level code ((List.range 64).map (fun n => field tb (4 * n) 4)) 0 []

/-! ## Grids -/

/-- The number of workgroups of a grid (R7). -/
def Grid.total (g : Grid) : Nat := g.gx * (g.gy * g.gz)

/-- The linear index of a workgroup of a grid (R7). -/
def Grid.linear (g : Grid) (h : Workgroup) : Nat := h.x + g.gx * (h.y + g.gy * h.z)

/-- An identifier unique among the live grids (R16), never 0. -/
def State.gridIdFrom (s : State) : Nat → Word → Word
  | 0, x => x
  | n + 1, x => if x = 0#32 || s.grids.any (fun g => g.id == x) then s.gridIdFrom n (x + 1#32) else x

/-- A new grid identifier. -/
def State.newGridId (s : State) : State × Word :=
  let (s1, n) := s.draw
  (s1, s1.gridIdFrom (s1.grids.length + 2) (Config.gridIdent n))

/-- A grid from its packet. -/
def newGrid (id parent : Word) (parentWg packet depth queue level space : Nat) (topup : Bool) (b : List Byte) : Grid :=
  { id := id, parent := parent, parentWg := parentWg, packet := packet, depth := depth, order := 0, queue := queue
    level := level, space := space, topup := topup, gx := field b 4 4, gy := field b 8 2, gz := field b 0xA 2, bytes := b
    nextWg := 0, done := 0, status := 0, started := false, barred := [], aborted := false, macros := [] }

/-- The workgroup of a grid with a linear index, at its launch values, not yet placed (R7, R17, R27). -/
def Grid.workgroup (g : Grid) (serial lin : Nat) : Workgroup :=
  let b := g.bytes
  let r := pktRoles b
  { Workgroup.vacant with
    serial := serial, x := lin % g.gx, y := lin / g.gx % g.gy, z := lin / g.gx / g.gy, size := pktSize b
    level := g.level, grid := g.id, depth := g.depth, ipurse := pktIpurse b, mpurse := pktMpurse b
    topup := g.topup, refill := pktRefill b, pktIpurse := pktIpurse b, pktMpurse := pktMpurse b, queue := g.queue
    cls := bitsNat (pktHeader b) 13 12, share := pktShare b, copyWarps := bitsNat r 4 0, matrixWarps := bitsNat r 9 5
    vectorWarps := bitsNat r 15 10, padUnits := field b 0xF 1, macros := g.macros, accAllot := field b 0xE 1
    place := .unstarted, code := BitVec.ofNat 64 (field b 0x10 8), arg := BitVec.ofNat 64 (field b 0x18 8), space := g.space }

/-- Adds the grid's next workgroup to those that await a core, if one is left (R289 rule 1). -/
def State.nextWorkgroup (s : State) (id : Word) : State :=
  match s.findGrid id with
  | none => s
  | some g =>
    if g.aborted || decide (g.total ≤ g.nextWg) then s
    else
      let (s1, serial) := s.fresh
      { s1 with wgs := s1.wgs ++ [g.workgroup serial g.nextWg] }

/-- A grid whose kernel has passed its check starts: the acquire is made, and its first workgroup awaits a core. -/
def State.startGrid (s : State) (p : Packet) (id : Word) (macros : FMap (List MacroOp)) : State :=
  let (s1, n) := (s.packageAcquire (pktAcquire p.bytes)).fresh
  let s2 := s1.mapGrid id (fun g => { g with started := true, order := n, macros := macros })
  (s2.modPacket p.id (fun x => { x with started := true })).nextWorkgroup id

/-- The grid of a packet ends before any workgroup is placed. -/
def State.failGrid (s : State) (p : Packet) (status : Nat) : State :=
  let f := fun (g : Grid) =>
    if g.id = p.grid ∧ p.grid ≠ 0#32 then { g with started := true, aborted := true, status := max g.status status } else g
  ({ s with grids := s.grids.map f }).endPacket p status

/-- Checks a packet's kernel and starts its grid, whose identifier and other values are given. -/
def State.checkAndStart (s : State) (p : Packet) (space level : Nat) (make : State → State × Word) : State :=
  match s.kernelCheck space level (BitVec.ofNat 64 (field p.bytes 0x10 8)) with
  | .wait s1 => s1
  | .fail c va =>
    if c = .translation then s.parkPacket p (.grid p.id) va else s.failGrid p 3
  | .refuse va =>
    (s.failGrid p 1).post { kind := 4, cause := 1, grid := p.grid, addr := BitVec.ofNat 64 va }
  | .ok s1 macros =>
    let (s2, id) := make s1
    (s2.modPacket p.id (fun x => { x with grid := id })).startGrid p id macros

/-- Whether a queue runs: the fault queue and the queue's address space have been set (R350, stage 6). A queue that no longer exists does not
hold its packets back. -/
def State.queueRuns (s : State) (q : Nat) : Bool :=
  match FMap.find s.host.queues q with
  | none => true
  | some x => decide (0 < s.host.fqSize) && (FMap.find s.host.spaces x.space).isSome

/-- Whether a packet may start: a child grid at once, the packets of a queue that runs in read order, one with `BARRIER` only when every
earlier packet of its queue has completed (R287, R350). -/
def State.mayStart (s : State) (p : Packet) : Bool :=
  !p.started && p.token == 0
    && (if p.grid != 0#32 then true
        else
          let before := (s.packets.takeWhile (fun x => x.id != p.id)).filter (fun x =>
            x.queue == p.queue && (match s.findGrid x.grid with | some g => g.parentWg == 0 | none => true))
          s.queueRuns p.queue && before.all (fun x => x.started) && (!(pktBarrier p.bytes) || before.isEmpty))

/-- GRID_PACKET: a type-1 packet, or a child grid's, starts; a packet of no known type completes LAUNCH_REFUSED. -/
def execGridPacket (packet : Nat) (s : State) : Host.Outcome State Fault Refusal :=
  match s.findPacket packet with
  | none => go s
  | some p =>
    if !(s.mayStart p) then go s
    else
      match s.findGrid p.grid with
      | some g =>
        if g.aborted then go (s.modPacket p.id (fun x => { x with started := true }))
        else go (s.checkAndStart p g.space g.level (fun s => (s, g.id)))
      | none =>
        match FMap.find s.host.queues p.queue with
        | none => go (s.endPacket p 1)
        | some q =>
          if !(hostGridOk p.bytes) then go (s.endPacket p 1)
          else
            let level := s.queueLevel q
            go (s.checkAndStart p q.space level (fun s =>
              let (s1, id) := s.newGridId
              let g := newGrid id 0#32 0 p.id 0 p.queue level q.space (bitNat (s.queueCtl q) 17) p.bytes
              ({ s1 with grids := s1.grids ++ [g] }, id)))

/-! ## Barrier-and and itinerary packets (R219, R286) -/

/-- BARRIER_AND_PACKET: the packet is checked and begins to read its dependency words. -/
def execBarrierAndPacket (packet : Nat) (s : State) : Host.Outcome State Fault Refusal :=
  match s.findPacket packet with
  | none => go s
  | some p =>
    if !(s.mayStart p) then go s
    else if !(barrierAndOk p.bytes) then go (s.endPacket p 1)
    else go (s.modPacket packet (fun x => { x with
      started := true, deps := ((pktDeps p.bytes).filter (fun a => a != 0)).map (BitVec.ofNat 64) }))

/-- DEPENDENCY_READ: one word is read at its home; a word not yet set is read again after the others. -/
def execDependencyRead (packet : Nat) (s : State) : Host.Outcome State Fault Refusal :=
  match s.findPacket packet with
  | none => go s
  | some p =>
    if !p.started || p.finished || p.token != 0 || pktType p.bytes != 2 then go s
    else
      match p.deps with
      | [] => go ((s.packageAcquire (pktAcquire p.bytes)).modPacket packet (fun x => { x with finished := true }))
      | d :: rest =>
        let (space, level) := s.packetSpace p
        match s.ctxRead (accessor space level packet) d.toNat 4 with
        | .wait s1 => go s1
        | .fail s1 c va =>
          if c = .translation then go (s1.parkPacket p (.packetDep packet) va)
          else go ((s1.endPacket p 5).post (s1.packetRecord p c va 0))
        | .ok s1 bs =>
          let x := leNat bs
          if 2 ^ 31 ≤ x then go (s1.endPacket p 5)
          else go (s1.modPacket packet (fun y => { y with deps := if x = 0 then rest ++ [d] else rest }))

/-- ITINERARY_PACKET: binds an idle context in the queue's space and at its level (R219). A descriptor that cannot be read is
retried after a TRANSLATION fault, and else ends the packet FAULTED. -/
def execItineraryPacket (packet : Nat) (s : State) : Host.Outcome State Fault Refusal :=
  match s.findPacket packet with
  | none => go s
  | some p =>
    if !(s.mayStart p) then go s
    else
      let n := field p.bytes 4 4
      let c := s.ctx n
      if !(itineraryOk p.bytes) || c.st != 0 || c.quarantined then go (s.endPacket p 1)
      else
        let (space, level) := s.packetSpace p
        let a := accessor space level packet
        let bad := fun (s : State) (e : Cause) (va : Nat) =>
          if e = .translation then s.parkPacket p (.grid packet) va else (s.endPacket p 3).post (s.packetRecord p e va 0)
        match s.ctxRead a (field p.bytes 0x18 8) 256 with
        | .wait s1 => go s1
        | .fail s1 e va => go (bad s1 e va)
        | .ok s1 d =>
          if !(descOk c.gen d) then go (s1.endPacket p 1)
          else
            match s1.ctxRead a (field d 8 8) (4 * field d 2 2) with
            | .wait s2 => go s2
            | .fail s2 e va => go (bad s2 e va)
            | .ok s2 m =>
              if !(mapOk m (field d 2 2)) then go (s2.endPacket p 1)
              else
                let s3 := (s2.packageAcquire (pktAcquire p.bytes)).modPacket packet (fun x => { x with started := true, ctx := n })
                go (s3.startCtx n (BitVec.ofNat 64 (field p.bytes 0x10 8)) (d ++ m) (BitVec.ofNat 32 (field p.bytes 8 4)) space level
                  (fun c => { c with packet := packet, purse := pktMpurse p.bytes }))

/-! ## The dispatcher: room (R285, R289) -/

/-- Whether the grid of a workgroup is aborted. -/
def State.gridAborted (s : State) (g : Workgroup) : Bool :=
  match s.findGrid g.grid with | some gr => gr.aborted | none => false

/-- The warp slots a workgroup needs. -/
def State.slotsNeeded (s : State) (g : Workgroup) : Nat :=
  max (warpsFor g.size) ((s.warpsOf g.serial).filter Warp.inUse).length

/-- The workgroups running on a core. -/
def State.runningOn (s : State) (core : Nat) : List Workgroup :=
  s.allWgs.filter (fun g => g.core == core && g.place == .running)

/-- Adds up a count over workgroups. -/
def sumOver (gs : List Workgroup) (f : Workgroup → Nat) : Nat := gs.foldl (fun n g => n + f g) 0

/-- The saved workgroups, but for one, for which a displacement frees one of some cores. -/
def State.claimants (s : State) (cores : Nat → Bool) (but : Nat) : List Workgroup :=
  s.allWgs.filter (fun h => h.place == .saved && h.serial != but && !(s.gridAborted h)
    && (match h.heldCore with | some c => cores c | none => false))

/-- The launch warps of a workgroup that go to a partition (R289). -/
def Workgroup.launchIn (g : Workgroup) (p : Nat) : Nat := (warpsFor g.size + 5 - p) / 6

/-- Whether a core has everything a workgroup needs, apart from one workgroup that would leave it; what a displacement frees is kept for
the workgroup it is for (R285, R289). -/
def State.roomOn (s : State) (core : Nat) (g : Workgroup) (without : Nat) : Bool :=
  let here := (s.runningOn core).filter (fun h => h.serial != without)
  let kept := s.claimants (fun c => c == core) g.serial
  let pair := s.allWgs.filter (fun h => pairOfCore h.core == pairOfCore core && h.place == .running && h.serial != without)
    ++ s.claimants (fun c => pairOfCore c == pairOfCore core) g.serial
  let inUse := s.allWarps.filter (fun w => w.inUse && here.any (fun h => h.serial == w.wg))
  let need := s.slotsNeeded g
  decide (core < 4096)
    && decide (inUse.length + sumOver kept s.slotsNeeded + need ≤ 96)
    && (List.range 6).all (fun p =>
        decide ((inUse.filter (fun w => w.part == p)).length + sumOver kept (fun h => h.launchIn p) + g.launchIn p ≤ 16))
    && decide (sumOver (here ++ kept) (fun h => h.padUnits) + g.padUnits ≤ 96)
    && decide (sumOver here (fun h => h.share * ((s.warpsOf h.serial).filter Warp.inUse).length)
        + sumOver kept (fun h => h.share * s.slotsNeeded h) + g.share * need ≤ 2048)
    && decide (sumOver pair (fun h => h.accAllot) + g.accAllot ≤ 64)
    && (match s.findGrid g.grid with | some gr => !(gr.barred.contains core) | none => true)

/-- The core that a displacement frees for a workgroup, while that still holds: the core has room, or a workgroup of the grid is leaving
it, and it is not barred to the grid (R289 rule 3, R297). -/
def State.claimOf (s : State) (g : Workgroup) : Option Nat :=
  match g.heldCore with
  | none => none
  | some c =>
    let leaving := (s.runningOn c).any (fun h => h.grid == g.grid && (h.latch || h.resting || h.forced))
    let barred := match s.findGrid g.grid with | some gr => gr.barred.contains c | none => false
    if !barred && (leaving || s.roomOn c g 0) then some c else none

/-- A core with room for a workgroup: the one that a displacement frees for it, else any; where the search begins is not given (R289). -/
def State.coreFor (s : State) (g : Workgroup) : Option Nat :=
  match s.claimOf g with
  | some c => if s.roomOn c g 0 then some c else none
  | none =>
    let start := Config.coreStart s.freeCount
    ((List.range 4096).map (fun i => (start + i) % 4096)).find? (fun c => s.roomOn c g 0)

/-! ## The dispatcher: precedence (R288, R289) -/

/-- Whether a saved workgroup is held by WAITKIDS: a child has not started (R133, R289 rule 4). -/
def State.heldByKids (s : State) (g : Workgroup) : Bool :=
  (s.warpsOf g.serial).any (fun w => w.wait == .kids) && ({ s with g := g }).kidUnstarted

/-- The group and place in it of a workgroup that may be placed: saved ones, unstarted ones of child grids, other unstarted
ones (R288). -/
def State.placeKey (s : State) (g : Workgroup) : Option (Nat × Nat × Nat) :=
  match s.findGrid g.grid with
  | none => none
  | some gr =>
    match g.place with
    | .saved => if s.heldByKids g || gr.aborted || s.savePending g.serial then none else some (0, gr.order, gr.linear g)
    | .unstarted =>
      if gr.aborted then none
      else if gr.parentWg = 0 then some (2, gr.order, gr.linear g)
      else some (1, s.grids.findIdx (fun x => x.id == gr.id), gr.linear g)
    | _ => none

/-- Whether one place in the order comes before another. -/
def keyBefore (a b : Nat × Nat × Nat) : Bool :=
  decide (a.1 < b.1) || (a.1 == b.1 && (decide (a.2.1 < b.2.1) || (a.2.1 == b.2.1 && decide (a.2.2 < b.2.2))))

/-- The workgroup that a queue's grids place next. -/
def State.headOf (s : State) (queue : Nat) : Option Workgroup :=
  ((s.allWgs.filter (fun g => g.queue == queue)).foldl (fun (best : Option (Workgroup × (Nat × Nat × Nat))) g =>
    match s.placeKey g with
    | none => best
    | some k =>
      match best with
      | none => some (g, k)
      | some b => if keyBefore k b.2 then some (g, k) else some b) none).map (fun b => b.1)

/-- The draw on its queue's reserves that an exhausted workgroup's resumption makes: what its purses lack of the packet's amounts (R295). -/
def State.refillDraw (s : State) (g : Workgroup) : Draw :=
  let units := g.pktIpurse - (s.purses g).1
  let bytes := g.pktMpurse - (s.purses g).2
  if units + bytes = 0 then .ok s else s.drawReserve g.queue units bytes

/-- Whether a saved workgroup is exhausted, so that its resumption needs a refill (R295). -/
def Workgroup.isSpent (g : Workgroup) : Bool := g.place == .saved && g.saveCause == .exhaustion

/-- Whether a saved workgroup ends instead of being placed: it is exhausted and has no refill (R295). -/
def State.endsBudget (s : State) (g : Workgroup) : Bool :=
  g.isSpent && (!g.refill || (match s.refillDraw g with | .short => true | _ => false))

/-- The state in which the reserves that a workgroup's resumption draws on are being read, if they must be. -/
def State.askRefill (s : State) (g : Workgroup) : Option State :=
  if g.isSpent && g.refill then (match s.refillDraw g with | .wait s1 => some s1 | _ => none) else none

/-- The running workgroup that a saved one displaces: of the same grid, above it, with the highest linear index of those
whose departure makes room (R289 rule 3). None while a core is being freed for it. -/
def State.victim (s : State) (g : Workgroup) : Option Workgroup :=
  match s.findGrid g.grid with
  | none => none
  | some gr =>
    let above := s.allWgs.filter (fun h => h.grid == g.grid && h.place == .running && decide (gr.linear g < gr.linear h))
    let fits := above.filter (fun h => s.roomOn h.core g h.serial)
    if g.place ≠ .saved ∨ (s.claimOf g).isSome then none
    else fits.foldl (fun (best : Option Workgroup) h =>
      match best with | none => some h | some b => if gr.linear b < gr.linear h then some h else some b) none

/-- The queues in the order in which they compete: by priority, then round-robin after the one served last (R288). -/
def insertQueue (s : State) (q : Nat × Queue) : List (Nat × Queue) → List (Nat × Queue)
  | [] => [q]
  | x :: xs =>
    let turn := fun (n : Nat) => (n + 65535 - FMap.get s.host.served 0 (s.queuePrio q.2)) % 65536
    let before := decide (s.queuePrio x.2 < s.queuePrio q.2)
      || (s.queuePrio x.2 == s.queuePrio q.2 && decide (turn q.1 < turn x.1))
    if before then q :: x :: xs else x :: insertQueue s q xs

/-- The placement that comes next: a workgroup and a core, or a workgroup that ends or displaces another (core 4,096). -/
def State.nextPlace (s : State) : Option (Nat × Nat) :=
  let qs := s.host.queues.foldl (fun l q => insertQueue s q l) []
  qs.findSome? (fun q =>
    match s.headOf q.1 with
    | none => none
    | some g =>
      if s.endsBudget g then some (g.serial, 4096)
      else if (s.askRefill g).isSome then (if s.reserveKnown g.queue then some (g.serial, 4096) else none)
      else
        match s.coreFor g with
        | some c => some (g.serial, c)
        | none => (s.victim g).map (fun _ => (g.serial, 4096)))

/-! ## The end of a workgroup (R8, R287, R317) -/

/-- The workgroup whose turn it is completes BUDGET_EXHAUSTED, its image discarded (R295). -/
def State.budgetEnd (s : State) : State := (s.modG (fun g => { g with status := max g.status 2 })).wgEnded

/-- Whether a workgroup completes: its warps have exited with nothing outstanding, no thread waits in the former, its children
have retired and its engine queues are empty (R8, R122, R287). -/
def State.completeDue (s : State) (g : Workgroup) : Bool :=
  let saved := g.place == .saved && s.gridAborted g
  (g.place == .running || saved) && (s.warpsOf g.serial).all (fun w => !w.inUse) && g.spawn.isEmpty && g.kids.isEmpty
    && (saved || g.mx.isEmpty) && (if saved then g.porter.all (fun c => !c.started) else g.porter.isEmpty)
    && s.storesQuiet g.serial && !(s.savePending g.serial)

/-- WORKGROUP_COMPLETE: its stash windows are cleaned as it leaves its core. -/
def execWorkgroupComplete (wg : Nat) (s : State) : Host.Outcome State Fault Refusal :=
  let s0 := s.focusWg wg
  if s0.g.serial ≠ wg ∨ s0.completeDue s0.g = false then go s0
  else
    let s1 := s0.cleanWindows
    if s1.savePending wg then go s1 else go s1.wgEnded

/-! ## Placing (R27, R289, R295, R297, R299) -/

/-- The role of a warp (R39). -/
def Workgroup.roleOf (g : Workgroup) (wid : Nat) : Nat :=
  if wid < g.copyWarps then 1
  else if wid < g.copyWarps + g.matrixWarps then 2
  else if wid < g.copyWarps + g.matrixWarps + g.vectorWarps then 3
  else 0

/-- A warp at launch (R27). -/
def Workgroup.launchWarp (g : Workgroup) (wid age : Nat) : Warp :=
  let ls := lanes.filter (fun i => decide (32 * wid + i < g.size))
  { Warp.vacant with
    present := true, wg := g.serial, wid := wid, role := g.roleOf wid, part := wid % 6, age := age
    kregs := FMap.put (FMap.put [] 0#32 0 (loWord g.arg)) 0#32 1 (hiWord g.arg)
    lpc := ls.foldl (fun m i => FMap.put m lpcExited i 0#32) []
    tids := ls.foldl (fun m i => FMap.put m 0 i (32 * wid + i)) []
    wident := BitVec.ofNat 32 (256 * wid + wid) }

/-- Starts the unstarted workgroup whose turn it is on a core. -/
def State.launchOn (s : State) (core : Nat) : State :=
  let g := s.g
  let s1 := s.putBack
  let s2 := (List.range (warpsFor g.size)).foldl (fun (s : State) wid =>
    let (s', age) := s.fresh
    { s' with warps := s'.warps ++ [g.launchWarp wid age] }) s1
  let s3 := s2.modG (fun h => { h with core := core, place := .running })
  (s3.mapGrid g.grid (fun gr => { gr with nextWg := gr.nextWg + 1 })).nextWorkgroup g.grid

/-- The purses on resumption (R295), with the reserves debited. -/
def State.refilled (s : State) : State :=
  match s.g.saveCause with
  | .displaced =>
    match s.g.heldPurses with
    | some (i, m) => s.modG (fun g => { g with ipurse := i, mpurse := m })
    | none => s
  | .exhaustion =>
    let (i, m) := s.purses s.g
    (match s.refillDraw s.g with | .ok s1 => s1 | .short | .wait _ => s).setPurses
      (some (max i s.g.pktIpurse)) (some (max m s.g.pktMpurse))
  | _ => s

/-- A warp of a saved workgroup takes its slot again (R27, R295); one inside a macro takes the caller's fields again from the
MACRO's words (R127). -/
def State.replaceWarp (s : State) (w : Warp) (core : Nat) : State :=
  let (s1, age) := s.fresh
  let part := if w.formed then s1.emptiest core else w.wid % 6
  let again := fun (m : MacroRun) => { m with retake := true }
  s1.mapWarp ⟨w.wg, w.wid⟩ (fun x => { x with
    part := part, age := age, active := false, stopped := false, rested := false, resting := 0#32, mac := x.mac.map again
    frame := x.frame.map (fun fr => { fr with mac := fr.mac.map again }) })

/-- Restores the saved workgroup whose turn it is on a core: its purses, its warps' slots, then each WAITA word re-read and
each RINGA slot re-tested (R295, R299). -/
def State.restoreOn (s : State) (core : Nat) : State :=
  let serial := s.g.serial
  let s1 := s.refilled.modG (fun g => { g with
    core := core, place := .running, resting := false, latch := false, latchTaken := false, forced := false
    heldPurses := none, heldCore := none, graceUnits := 0, graceBytes := 0, saveCause := .yield })
  let ws := s1.warpsOf serial
  -- no warp has a slot before it is given one: a formed warp takes the partition with the most free slots then
  let s2 := ws.foldl (fun (s : State) w => s.replaceWarp w core) (s1.mapWarps serial (fun w => { w with part := if w.formed then 6 else w.wid % 6 }))
  ws.foldl (fun (s : State) w =>
    match w.wait with
    | .word _ _ _ _ _ _ _ => wakeRead s ⟨serial, w.wid⟩
    | .ring r slot full _ =>
      match s.findWg serial with
      | some g => if g.slotFull r slot == some full then s.mapWarp ⟨serial, w.wid⟩ Warp.release1 else s
      | none => s
    | _ => s) s2

/-- Forces the purses of a running workgroup to zero, keeping the values they held when that was first done (R289 rule 3, R297). -/
def State.forcePurses (s : State) (serial : Nat) : State :=
  let s0 := s.focusWg serial
  if s0.g.serial ≠ serial ∨ s0.g.place ≠ .running then s0
  else
    let s1 := s0.modG (fun g => { g with heldPurses := some (g.heldPurses.getD (g.ipurse, g.mpurse)), ipurse := 0, mpurse := 0 })
    if s1.g.resting || s1.g.forced then s1 else s1.exhaust

/-- WORKGROUP_PLACE: the workgroup that comes next is started or restored on a core with room; a saved one that finds none
displaces another, and one that is exhausted without a refill completes. -/
def execWorkgroupPlace (wg core : Nat) (s : State) : Host.Outcome State Fault Refusal :=
  let s0 := s.focusWg wg
  let g := s0.g
  if g.serial ≠ wg then go s0
  else if (s0.headOf g.queue).map (fun h => h.serial) ≠ some wg then go s0
  else if s0.endsBudget g then go s0.budgetEnd
  else
    match s0.askRefill g with
    | some s1 => go s1
    | none =>
    let prio := match FMap.find s0.host.queues g.queue with | some q => s0.queuePrio q | none => 0
    let (s1, _) := ({ s0 with host := { s0.host with served := FMap.put s0.host.served 0 prio g.queue } }).draw
    if s1.roomOn core g 0 then go (if g.place = .saved then s1.restoreOn core else s1.launchOn core)
    else if (s1.coreFor g).isSome then go s1
    else
      match s1.victim g with
      | some h => go ((s1.forcePurses h.serial).mapWg wg (fun g => { g with heldCore := some h.core }))
      | none => go s1

/-! ## The completion of packets (R287) -/

/-- Whether a grid has retired: its workgroups have completed, and its children have retired. -/
def State.gridDone (s : State) (g : Grid) : Bool :=
  let open_ := s.allWgs.any (fun h => h.grid == g.id && (h.place == .running || h.place == .saved))
  !(s.grids.any (fun h => h.parentWg != 0 && h.parent == g.id))
    && (if g.aborted then !open_ else g.started && decide (g.total ≤ g.done))

/-- Whether a packet is ready to complete. -/
def State.packetDone (s : State) (p : Packet) : Bool :=
  p.started && p.token == 0
    && (p.finished || (match s.findGrid p.grid with | some g => s.gridDone g | none => false))

/-- A packet is gone: its grid retires, and its parent counts it (R8, R132). -/
def State.retirePacket (s : State) (p : Packet) : State :=
  let parent := match s.findGrid p.grid with | some g => g.parentWg | none => 0
  let s1 := s.mapWg parent (fun g => { g with kids := g.kids.filter (fun k => k != p.grid) })
  { s1 with
    packets := s1.packets.filter (fun x => x.id != p.id)
    grids := s1.grids.filter (fun g => !(g.id == p.grid && p.grid != 0#32))
    wgs := s1.wgs.filter (fun g => !(g.grid == p.grid && g.place == .unstarted)) }

/-- PACKET_COMPLETE: the completion word is written as a release, in the queue's space. -/
def execPacketComplete (packet : Nat) (s : State) : Host.Outcome State Fault Refusal :=
  match s.findPacket packet with
  | none => go s
  | some p =>
    if !(s.packetDone p) then go s
    else
      let status := max p.status (match s.findGrid p.grid with | some g => g.status | none => 0)
      let word := if status = 0 then pktValue p.bytes else 2 ^ 31 + status
      let at_ := pktWord p.bytes
      if at_ = 0 ∨ at_ % 4 ≠ 0 then go (s.retirePacket p)
      else
        let (space, level) := s.packetSpace p
        match s.ctxWrite (accessor space level packet) at_ (leBytes 4 word) with
        | .wait s1 => go s1
        | .ok s1 _ => go (s1.retirePacket p)
        | .fail s1 c va =>
          if c = .translation then go (s1.parkPacket p (.packetWord packet) va)
          else go ((s1.retirePacket p).post (s1.packetRecord p c va 0))

/-! ## LAUNCH (R130 to R132) -/

/-- The address of a lane's packet. -/
def Warp.packetAddr (w : Warp) (o : Ops) (i : Nat) : DWord := w.srcPair 0#32 o.a i

/-- What reading the lanes' packets comes to: a fault names every lane whose read fails with the cause of the lowest. -/
inductive PacketsRead where
  | ok (s : State) (ps : List (Nat × DWord × List Byte))
  | fault (s : State) (c : Cause) (lns : LaneMask) (addr : DWord)
  | wait (s : State) (w : Wait)

/-- The failed reads of some lanes as one fault, or the packets read. -/
def packetsRead (s : State) (ps : List (Nat × DWord × List Byte)) : List (Nat × Cause × DWord) → PacketsRead
  | [] => .ok s ps
  | (i, c, a) :: rest => .fault s c (rest.foldl (fun m x => if x.2.1 = c then m ||| (1#32 <<< x.1) else m) (1#32 <<< i)) a

/-- Reads the packets of lanes, in order (R131). -/
def State.readLanePackets (s : State) (at_ : Nat → DWord) (ls : List Nat) (ps : List (Nat × DWord × List Byte))
    (bad : List (Nat × Cause × DWord) := []) : PacketsRead :=
  match ls with
  | [] => packetsRead s ps bad
  | i :: rest =>
    match s.readVa (at_ i) 64 .write with
    | .fault s1 c a => s1.readLanePackets at_ rest ps (bad ++ [(i, c, a)])
    | .wait s1 w => .wait s1 w
    | .ok s1 bs => s1.readLanePackets at_ rest (ps ++ [(i, at_ i, bs)]) bad

/-- How LAUNCH accesses a packet: it reads it and writes its depth byte and FUNDED bit (R132). -/
def packetAccess : AccessKind := { acc := .write, width := 64, line := false, atomic := false, f32Atomic := false, align := true }

/-- Whether a lane is debited: its packet is not funded, or a lower lane names it too (R131, R132). -/
def laneDebited (ps : List (Nat × DWord × List Byte)) (p : Nat × DWord × List Byte) : Bool :=
  !(pktFunded p.2.2) || ps.any (fun q => decide (q.1 < p.1) && q.2.1 == p.2.1)

/-- Launches one lane's child: debits, the packet's depth byte and FUNDED bit, the grid and its packet (R132). -/
def State.launchChild (s : State) (at_ : DWord) (b : List Byte) (debit : Bool) : State × Word :=
  let s1 := if debit then s.takePurses (pktIpurse b) (pktMpurse b) else s
  let s2 := (s1.writeVa (at_ + 0x2E#64) (leBytes 2 (field b 0x2E 2 - field b 0x2E 2 % 2))).writeVa (at_ + 0x3A#64)
    (leBytes 1 (s.g.depth + 1))
  let (s3, id) := s2.newGridId
  let (s4, pid) := s3.fresh
  let bytes := b.take 0x20 ++ leBytes 8 (pktIpurse b) ++ leBytes 8 (pktMpurse b) ++ b.drop 0x30
  let topup := s4.g.topup
  let gr := newGrid id s4.g.grid s4.g.serial pid (s4.g.depth + 1) s4.g.queue s4.g.level s4.g.space topup bytes
  (({ s4 with grids := s4.grids ++ [gr], packets := s4.packets ++ [newPacket pid s4.g.queue bytes id] }).modG
    (fun g => { g with kids := g.kids ++ [id] }), id)

/-- The workgroup yields when one of its warps waits in WAITKIDS and a child has not started (R133). -/
def State.yieldForKids (s : State) : State :=
  if (s.warpsOf s.g.serial).any (fun w => w.wait == .kids) && !s.g.forced then
    s.modG (fun g => { g with forced := true, saveCause := .kids })
  else s

/-- LAUNCH: a release at package scope, the checks of every active lane's packet, then the children in lane order. -/
def execLaunch (o : Ops) (s : State) : Host.Outcome State Fault Refusal :=
  let i : Instr := .launch o
  let s1 := s.charge 1 0
  let act := s1.w.activeLanes
  let at_ := fun (l : Nat) => s1.w.keptAddr l (s1.w.packetAddr o l)
  if act = 0#32 then go (s1.retire i o)
  else if 10 ≤ s1.g.depth then go (s1.raise .nestingDepth act 0#64)
  else if !(s1.heldDone s1.w 3) then go (s1.stall (.held 3))
  else
    match s1.released 3 with
    | .waits w => go (s1.stall w)
    | .fails _ => go (s.releaseFails 3)
    | .free s2 =>
      let lowest := fun (m : LaneMask) => match m.lowest with | some l => at_ l | none => 0#64
      s2.withChecks packetAccess act at_ (fun _ =>
        match s2.readLanePackets at_ act.toList [] with
        | .fault s3 c lns a => go (s3.raise c lns a)
        | .wait s3 w => go (s3.stall w)
        | .ok s3 ps =>
          let bad := maskOf (fun l => ps.any (fun p => p.1 == l && !(gridFieldsOk p.2.2)))
          let due := ps.filter (laneDebited ps)
          let ti := due.foldl (fun n p => n + pktIpurse p.2.2) 0
          let tm := due.foldl (fun n p => n + pktMpurse p.2.2) 0
          if bad ≠ 0#32 then go (s3.raise .launchRefused bad (lowest bad))
          else if s3.g.ipurse < ti ∨ s3.g.mpurse < tm then go (s3.raise .launchRefused act (lowest act))
          else
            let (s4, ids) := ps.foldl (fun (acc : State × List (Nat × Word)) p =>
              let (s5, id) := acc.1.launchChild p.2.1 p.2.2 (laneDebited ps p)
              (s5, acc.2 ++ [(p.1, id)])) (s3, [])
            let s5 := s4.modW (fun w => w.lastUse i o)
            let writes := if o.d = 61#6 then [] else destWrites o.d act (fun l => (FMap.find ids l).getD 0#32)
            go (((s5.issueResult 5 writes 0#32).retire i o).yieldForKids))

/-! ## PURSE.ADD (R142) -/

/-- The MX clauses that stand held at a clause boundary: their charges (R181). -/
def State.heldClauses (s : State) : Nat × Nat :=
  (s.warpsOf s.g.serial).foldl (fun (acc : Nat × Nat) w =>
    if w.cl.isSome || w.wait != .none then acc
    else
      let sw := { s with w := w }
      match w.issueOffset with
      | none => acc
      | some p =>
        match sw.fetchWord p with
        | .error _ => acc
        | .ok hw =>
          match decodeHeader hw with
          | none => acc
          | some h =>
            if !h.ok || h.eng != 2#3 then acc
            else
              let (u, b) := sw.clauseCharge h.n.toNat (p + 4#32)
              if s.g.covers u b then acc else (acc.1 + u, acc.2 + b)) (0, 0)

/-- The bytes of the Porter commands held at the heads of their queues (R201). -/
def Workgroup.heldCommands (g : Workgroup) : Nat :=
  (List.range 4).foldl (fun n q =>
    match g.porterHead q with
    | some c => n + c.held.getD 0
    | none => n) 0

/-- The bytes of the chunk ops that the workgroup's itineraries hold (R221). -/
def State.heldChunks (s : State) (serial : Nat) : Nat :=
  s.courier.ctxs.foldl (fun n p =>
    if p.2.wg ≠ serial ∨ p.2.st ≠ 1 ∨ !p.2.held then n
    else
      match p.2.wait with
      | .purse b => n + b
      | _ => (match p.2.chunkOp with | some o => if o.paid then n else n + o.cost | none => n)) 0

/-- PURSE.ADD: under the TOPUP grant the purses rise, saturating; a latch for which no warp has stopped is cleared when both
purses are above zero and cover what is held. -/
def execPurseAdd (o : Ops) (s : State) : Host.Outcome State Fault Refusal :=
  let i : Instr := .purseAdd o
  s.scalar i o (fun s1 =>
    let ai := (s1.w.upair o.d).toNat
    let am := (s1.w.upair (o.d + 2#6)).toNat
    let act := s1.w.activeLanes
    if !s1.g.topup then go (s1.raise .privilege act (pairOf (loWord (operandAddr i)) 0#32))
    else if maxPurse < ai ∨ maxPurse < am then go (s1.raise .illegalOperand act (operandAddr i))
    else
      let (hu, hb) := s1.heldClauses
      let need := hb + s1.g.heldCommands + s1.heldChunks s1.g.serial
      let (i0, m0) := s1.purses s1.g
      let s2 := s1.setPurses (some (min maxPurse (i0 + ai))) (some (min maxPurse (m0 + am)))
      let clears := s2.g.latch && !s2.g.latchTaken && !s2.g.forced && !s2.g.resting && !(s2.noFunds s2.g) && decide (hu ≤ s2.g.ipurse) && decide (need ≤ s2.g.mpurse)
      go ((if clears then s2.modG (fun g => { g with latch := false, heldPurses := none }) else s2).retire i o))

end Sys2Proof.Machine
end

