-- ==== Sys2Proof/Machine/HomeEvents.lean ====
section
/-! DEFINITION. What happens at a home and at the agents that hold grains: requests served, answers, write-backs and partials,
invalidations, recalls, evictions and recall timeouts (R244 to R256). -/

namespace Sys2Proof.Machine

/-! ## Requests (R249) -/

/-- A request of a kind leaves its last stage and reaches its home, which drops and counts one that bears a stale incarnation
(R255). -/
def homeRun (kind : ReqKind) (req : Nat) (s : State) : Host.Outcome State Fault Refusal :=
  match s.findReq req with
  | some r =>
    go (if r.kind ≠ kind then s
      else if s.stale r.who r.inc then (s.dropReq req).count 8
      else (s.mapReq req (fun r => { r with stage := 4 })).serve req)
  | none => go s

/-- OWN. -/
def execOwn (req : Nat) (s : State) : Host.Outcome State Fault Refusal := homeRun .own req s
/-- WI. -/
def execWi (req : Nat) (s : State) : Host.Outcome State Fault Refusal := homeRun .wi req s
/-- SI. -/
def execSi (req : Nat) (s : State) : Host.Outcome State Fault Refusal := homeRun .si req s
/-- WTR. -/
def execWtr (req : Nat) (s : State) : Host.Outcome State Fault Refusal := homeRun .wtr req s
/-- WTW. -/
def execWtw (req : Nat) (s : State) : Host.Outcome State Fault Refusal := homeRun .wtw req s
/-- AT. -/
def execAtHome (req : Nat) (s : State) : Host.Outcome State Fault Refusal := homeRun .atomic req s
/-- ACC. -/
def execAcc (req : Nat) (s : State) : Host.Outcome State Fault Refusal := homeRun .acc req s

/-! ## Answers (R247, R250, R252, R255) -/

/-- A coherence message that bears a stale incarnation is dropped and counted (R255). -/
def State.coherence (s : State) (p : Party) (inc : Byte) (k : State → State) : Host.Outcome State Fault Refusal :=
  go (if s.stale p inc then s.count 8 else k s)

/-- INVALIDATION_ACKNOWLEDGEMENT: counted; at the last one the head request completes. -/
def execInvalidationAcknowledgement (grain : Nat) (by_ : Party) (inc : Byte) (s : State) :
    Host.Outcome State Fault Refusal :=
  s.coherence by_ inc (fun s =>
    let s := s.forwarded by_
    if s.awaited grain by_ && (s.entry grain).st == 4 then (s.untrack grain by_).answered grain by_ (fun t => t) else s)

/-- RECALL_ANSWER: bytes are merged under their mask, or kept aside when the owner only sent them to be read; an answer
without bytes leaves the home waiting for the write-back. -/
def execRecallAnswer (grain : Nat) (by_ : Party) (has : Bool) (bytes : List Host.Cell) (inc : Byte) (s : State) :
    Host.Outcome State Fault Refusal :=
  s.coherence by_ inc (fun s =>
    let s := s.forwarded by_
    if !(s.awaited grain by_) || (s.entry grain).st != 5 || !has then s
    else if s.fab.trans.any (fun t => t.grain == grain && t.mode == 3) then
      s.answered grain by_ (fun t => { t with cells := bytes })
    else (s.mergeCells bytes).answered grain by_ (fun t => t))

/-- Frees a write-back buffer entry, and acknowledges it to the maintenance instruction that awaits it (R148, R164). -/
def State.freeWb (s : State) (who : Party) (grain : Nat) : State :=
  let mine := s.fab.wbuf.filter (fun b => b.who == who && b.grain == grain)
  let s1 := s.modFab (fun f => { f with wbuf := f.wbuf.filter (fun b => !(b.who == who && b.grain == grain)) })
  mine.foldl (fun (s : State) b => match b.dest with | some (w, out) => s.outReply w out [] none | none => s) s1

/-- Tells an agent that its write-back was accepted. -/
def State.ackWb (s : State) (grain : Nat) (p : Party) : State :=
  if ownParty p then s.freeWb p grain else s.tellTo p.pkg (.writeBackAck grain p s.ownInc)

/-- Tells an agent that its write-back or partial was not (R247). -/
def State.cancelWb (s : State) (grain : Nat) (p : Party) : State :=
  if ownParty p then s.push (.cancelled grain p) else s.tellTo p.pkg (.cancelled grain p s.ownInc)

/-- WRITE_BACK: accepted in X or XR from the owner at its version, and then merged; in XR it stands for the recall answer
(R247, R250). -/
def execWriteBack (grain : Nat) (by_ : Party) (ver : Byte) (bytes : List Host.Cell) (inc : Byte) (s : State) :
    Host.Outcome State Fault Refusal :=
  s.coherence by_ inc (fun s =>
    let e := s.entry grain
    if (e.st = 2 ∨ e.st = 5) ∧ e.owner = some by_ ∧ e.ver = ver then
      let s1 := (s.mergeCells bytes).ackWb grain by_
      if e.st = 2 then s1.untrackAll grain
      else (s1.overtaken grain by_).answered grain by_ (fun t => { t with mode := 0 })
    else s.cancelWb grain by_)

/-- The partial of a holder joins those that a merge has collected. -/
def Transient.hold (t : Transient) (p : Party) (words : List (Nat × Nat)) : Transient :=
  { t with partials := insertHolder (holderId p, words.foldl (fun m (w : Nat × Nat) => FMap.insert m w.1 w.2) []) t.partials }

/-- A partial that a holder returns, accepted (R250): held for a merge in AM, else combined with the base at once. Another package's holders
return theirs under their own names, and the package's answer to the recall, which comes last, bears the package's (DESIGN CHOICE,
log 26). -/
def State.takePartial (s : State) (grain : Nat) (p : Party) (words : List (Nat × Nat)) : State :=
  let e := s.entry grain
  if e.st = 6 then
    let s1 := (s.overtaken grain p).untrack grain p
    if s1.awaited grain p then s1.answered grain p (fun t => t.hold p words)
    else s1.modFab (fun f => { f with trans := f.trans.map (fun t => if t.grain = grain then t.hold p words else t) })
  else
    let s1 := s.mergePartials grain e.size e.aop [(holderId p, words.foldl (fun m (w : Nat × Nat) => FMap.insert m w.1 w.2) [])]
    (s1.setEntry grain { s1.entry grain with ver := e.ver + 1 }).leave grain p

/-- PARTIAL_RETURN: accepted from a current holder only (R247): while a package is asked for its partials, its tiles and cores are, whichever
of them has answered before. -/
def execPartialReturn (grain : Nat) (by_ : Party) (words : List (Nat × Nat)) (inc : Byte) (s : State) :
    Host.Outcome State Fault Refusal :=
  s.coherence by_ inc (fun s =>
    -- the one that answers a recall frees what the recall took
    let s := if (s.entry grain).st == 6 && s.awaited grain by_ then s.forwarded by_ else s
    if s.holder grain by_ || ((s.entry grain).st == 6 && (s.awaited grain by_ || s.awaited grain (.package by_.pkg))) then s.takePartial grain by_ words
    else s.cancelWb grain by_)

/-- Whether an agent of this package holds a tracked copy of a grain. -/
def State.holdsCopy (s : State) (grain : Nat) (p : Party) : Bool :=
  match s.lineOf p grain with | some l => l.st == LineState.t || l.st == LineState.x | none => false

/-- CLEAN_EVICTION_NOTICE: a sharer goes; from an agent being invalidated it counts as its acknowledgement (R250). A copy that the agent
has taken anew since stays tracked (R246). -/
def execCleanEvictionNotice (grain : Nat) (by_ : Party) (inc : Byte) (s : State) : Host.Outcome State Fault Refusal :=
  s.coherence by_ inc (fun s =>
    let e := s.entry grain
    if s.holdsCopy grain by_ then s
    else if e.st = 1 then s.leave grain by_
    else if e.st = 4 ∧ s.awaited grain by_ then
      ((s.overtaken grain by_).untrack grain by_).answered grain by_ (fun t => t)
    else s)

/-! ## At the agents (R244, R250, R253) -/

/-- The size of a grain's entry, at least a sector. -/
def State.grainSize (s : State) (grain : Nat) : Nat := max 32 (s.entry grain).size

/-- The incarnation that the home's messages about a grain bear (R255). -/
def State.askInc (s : State) (grain : Nat) : Byte :=
  match s.fab.trans.find? (fun t => t.grain == grain) with | some t => t.inc | none => s.ownInc

/-- INVALIDATION: the agent's tracked copy goes, and it acknowledges; a copy it no longer holds is acknowledged too. -/
def execInvalidation (grain : Nat) (target : Party) (s : State) : Host.Outcome State Fault Refusal :=
  if s.askInc grain ≠ s.ownInc then go (s.count 8)
  else
    let s1 := match target with
      | .stash _ c => (s.clearWindows c grain (s.grainSize grain) 0).dropLine target grain
      | _ =>
        match s.lineOf target grain with
        | some l => if l.st == LineState.t then s.dropLine target grain else s
        | none => s
    go (s1.pushHome grain (.invalidationAcknowledgement grain target s1.ownInc))

/-- RECALL: the owner answers with its dirty bytes and gives the line up, or keeps a clean copy; a holder returns its partial; a
line in the write-back buffer is answered from there; else there is no copy. -/
def execRecall (grain : Nat) (target : Party) (toT : Bool) (s : State) : Host.Outcome State Fault Refusal :=
  let inc := s.ownInc
  if s.askInc grain ≠ inc then go (s.count 8) else
  let none_ :=
    match s.fab.wbuf.find? (fun b => b.who == target && b.grain == grain) with
    | some b => s.pushHome grain (.recallAnswer grain target true b.cells inc)
    | none =>
      if (s.entry grain).st = 6 then s.pushHome grain (.partialReturn grain target [] inc)
      else s.pushHome grain (.recallAnswer grain target false [] inc)
  match s.lineOf target grain with
  | none => go none_
  | some l =>
    match l.st with
    | LineState.p => go ((s.dropLine target grain).pushHome grain (.partialReturn grain target l.partialWords inc))
    | LineState.x =>
      let s1 := match target with
        | .stash _ c =>
          let u := s.clearWindows c grain l.size 0
          if toT then u.mapLine target grain (fun l => { l with st := .t, dirty := [] }) else u.dropLine target grain
        | _ => if toT then s.mapLine target grain (fun l => { l with st := .t, dirty := [] }) else s.dropLine target grain
      go (s1.pushHome grain (.recallAnswer grain target true l.dirtyCells inc))
    | _ => go none_

/-- CANCELLED: the write-back buffer is freed (R247). -/
def execCancelled (grain : Nat) (target : Party) (s : State) : Host.Outcome State Fault Refusal := go (s.freeWb target grain)

/-- A core's stash windows give up a grain: their sectors are cleared, dirty ones of a policy that is not own go as write-through stores,
an owned line with a write-back, a tracked one with a notice (R163, R244). -/
def State.evictStash (s : State) (core grain : Nat) : State :=
  let s1 := (s.chargeEvicted core grain (s.grainSize grain)).clearWindows core grain (s.grainSize grain) 0
  match s1.lineOf (stashOf core) grain with
  | some l =>
    if l.st == LineState.x then s1.evictOwned l none
    else (s1.dropLine l.who grain).pushHome grain (.cleanEvictionNotice grain l.who s.ownInc)
  | none => s1

/-- CORE_EVICTION: a core's L1 gives up a grain (R244); when its L1 does not hold it, its stash windows do: their sectors in the grain are
cleared, written back where they are dirty (R163). -/
def execCoreEviction (core grain : Nat) (s : State) : Host.Outcome State Fault Refusal :=
  match s.lineOf (l1Of core) grain with
  | some l => go (s.evictLine core l)
  | none => go (s.evictStash core grain)

/-- The home no longer tracks the tile once nothing of it holds the grain. -/
def State.untrackTile (s : State) (grain tile : Nat) : State :=
  let e := s.entry grain
  if s.fab.tdirs.any (fun d => d.grain == grain && d.core / 256 == tile) then s
  else
    let e1 := e.keepTiles grain Config.pkgid (~~~(1#16 <<< tile))
    let empty := e1.st == 3 && e1.ptrs.isEmpty && e1.tvec == 0#16
    s.setEntry grain (if empty then { e1 with st := 0, aop := 0 } else e1)

/-- TILE_DIRECTORY_EVICTION: the copies of the tile's cores go, or their partials are taken back and returned, and the home is
told (R246); an owner of the tile gives its line up with a write-back. -/
def execTileDirectoryEviction (tile grain : Nat) (s : State) : Host.Outcome State Fault Refusal :=
  let here := s.fab.tdirs.filter (fun t => t.grain == grain && t.core / 256 == tile)
  let e := s.entry grain
  if e.st = 1 ∨ e.st = 4 then
    go (here.foldl (fun (s : State) t =>
      let s1 := if t.l1 then
          (s.dropLine (l1Of t.core) grain).pushHome grain (.cleanEvictionNotice grain (l1Of t.core) s.ownInc) else s
      if t.stash then
        ((s1.clearWindows t.core grain (s.grainSize grain) 0).dropLine (stashOf t.core) grain).pushHome grain
          (.cleanEvictionNotice grain (stashOf t.core) s.ownInc)
      else s1) s)
  else if e.st = 3 ∨ e.st = 6 then
    let s1 := here.foldl (fun (s : State) t =>
      match s.lineOf (l1Of t.core) grain with
      | some l => if l.st == LineState.p && !(s.awaited grain (l1Of t.core)) then s.handToTile t.core grain l else s
      | none => s) s
    let who : Party := .tile Config.pkgid tile
    match s1.lineOf who grain with
    | none => go s1
    | some l =>
      let s2 := s1.takePartial grain who l.partialWords
      go ((s2.dropLine who grain).untrackTile grain tile)
  else if e.st = 2 ∨ e.st = 5 then
    go (here.foldl (fun (s : State) t =>
      let s1 := match (if t.l1 then s.lineOf (l1Of t.core) grain else none) with
        | some l => if l.st == LineState.x then s.evictOwned l none else s
        | none => s
      if t.stash then s1.evictStash t.core grain else s1) s)
  else go s
/-- RECALL_TIMEOUT: every agent that has not answered is reported (R255). -/
def execRecallTimeout (grain : Nat) (s : State) : Host.Outcome State Fault Refusal :=
  match s.fab.trans.find? (fun t => t.grain == grain) with
  | none => go s
  | some t =>
    go (t.await.foldl (fun (s : State) p =>
      s.post { kind := 5, cause := 0x50, pkg := Party.pkg p, addr := BitVec.ofNat 64 (keyPa grain)
               extra := (s.incarnation (Party.pkg p)).setWidth 64 }) s)

end Sys2Proof.Machine
end

