-- ==== Sys2Proof/Machine/Waystation.lean ====
section
/-! DEFINITION. The Caravan combining network: waystations, merging, waybills, the splitting of replies, SPLIT answers and timeouts
(R257 to R269), and the reduce apertures (R270 to R274). -/

namespace Sys2Proof.Machine

/-! ## Stages and their queues (R257, R259, R263) -/

/-- The station of a stage that a request passes: the fields of its tickets (R263). -/
def Req.station (r : Req) (stage : Nat) : Ticket :=
  match stage with
  | 1 =>
    let tile := match r.who with | .core _ c | .stash _ c => c / 256 | .tile _ t => t | .package _ => 0
    { kind := 1, pkg := BitVec.ofNat 10 Config.pkgid, unit := BitVec.ofNat 14 tile, index := 0 }
  | 2 => { kind := 2, pkg := BitVec.ofNat 10 Config.pkgid, unit := 0, index := 0 }
  | _ => { kind := 3, pkg := BitVec.ofNat 10 (homePkg r.key), unit := BitVec.ofNat 14 (Config.homeStack (keyPlace r.key / 512) % 12), index := 0 }

/-- Whether two requests stand in one station of a stage and touch a common 4-byte word (R259). -/
def sameQueue (stage : Nat) (q r : Req) : Bool :=
  let words := fun (r : Req) => (r.key % 4 + max 1 r.len + 3) / 4
  q.station stage == r.station stage && overlap (q.key / 4) (words q) (r.key / 4) (words r)

/-- The event by which a request leaves a stage. -/
def Req.onward (r : Req) (stage : Nat) : Instr :=
  if stage = 1 then .waystationArrival 2 r.id
  else if stage = 2 ∧ regionOf (keyPa r.key) ≠ 5 then .waystationArrival 3 r.id
  else homeEvent r.kind r.id

/-! ## Merging (R258, R260 to R262, R264) -/

/-- The kind under which a request may merge: 13 LD, 14 ST, or the `F` of an atomic; none when it never merges. -/
def Req.mergeKind (r : Req) : Option Nat :=
  if (r.len ≠ 4 ∧ r.len ≠ 8) ∨ r.key % r.len ≠ 0 ∨ !r.comb ∨ r.reissued then none
  else
    match r.kind with
    | .wtr => if r.op = 13 then some 13 else none
    | .wtw => if r.op = 14 ∧ r.cells.length = r.len then some 14 else none
    | .atomic => if r.op ≤ 11 then some r.op else none
    | _ => none

/-- Whether checked requests' `SCOPE` contains both originating units at a stage (R262). -/
def checkedOk (stage : Nat) (q r : Req) : Bool :=
  match stage with
  | 1 => decide (2 ≤ r.scope)
  | 2 => decide (3 ≤ r.scope)
  | _ => decide (max 2 (spanOf q.unit r.unit) ≤ r.scope)

/-- The conditions of R262 for a page with `SCHK`: both are checked, or both are not, and checked ones have a `SCOPE` wide enough. -/
def schkOk (stage : Nat) (q r : Req) : Bool :=
  !(q.schk || r.schk) || (q.schk == r.schk && q.off == r.off && q.checked == r.checked && (r.off || checkedOk stage q r))

/-- The conditions of R260 but for a free waybill. -/
def mayMerge (stage : Nat) (q r : Req) : Bool :=
  q.key == r.key && q.len == r.len && q.keyid == r.keyid && q.scope == r.scope
    && q.mergeKind.isSome && q.mergeKind == r.mergeKind && schkOk stage q r

/-- The waybills of a station. -/
def State.waybillsOf (s : State) (t : Ticket) : List Waybill :=
  s.fab.waybills.filter (fun b => b.ticket.kind == t.kind && b.ticket.pkg == t.pkg && b.ticket.unit == t.unit)

/-- The number of waybills a station of a stage has (R264). -/
def waybillCap (stage : Nat) : Nat := match stage with | 1 => 4096 | 2 => 16384 | _ => 8192

/-- A free waybill of the station that a request passes at a stage. -/
def State.freeWaybill (s : State) (r : Req) (stage : Nat) : Option Ticket :=
  let t := r.station stage
  let used := (s.waybillsOf t).map (fun b => b.ticket.index.toNat)
  ((List.range (min (waybillCap stage) (used.length + 1))).find? (fun i => !(used.contains i))).map (fun i =>
    { t with index := BitVec.ofNat 14 i })

/-- The ticket that a request carries (R263): its waybill's, else its core's with its request slot. -/
def Req.ticket (r : Req) : Ticket :=
  match r.dest, r.who with
  | .waybill t, _ => t
  | _, .core p c | _, .stash p c => { kind := 0, pkg := BitVec.ofNat 10 p, unit := BitVec.ofNat 14 c, index := BitVec.ofNat 14 r.slot }
  | _, p => { kind := 0, pkg := BitVec.ofNat 10 p.pkg, unit := 0, index := BitVec.ofNat 14 r.slot }

/-- A ticket as its 40 bits (R263). -/
def ticketBits (t : Ticket) : BitVec 40 := t.kind ++ t.pkg ++ t.unit ++ t.index

/-- The tickets of a waybill's constituents (R264). -/
def Waybill.ticket1 (b : Waybill) : Ticket := b.first.ticket
def Waybill.ticket2 (b : Waybill) : Ticket := b.second.ticket

/-- A waybill as it stands in its store (R264), `VALID` in bit 151. -/
def Waybill.layout (b : Waybill) : BitVec 152 :=
  1#1 ++ BitVec.ofBool b.w ++ BitVec.ofNat 4 b.opf ++ BitVec.ofBool b.ret1 ++ BitVec.ofBool b.ret2 ++ ticketBits b.ticket1 ++ ticketBits b.ticket2
    ++ BitVec.ofNat 64 b.opnd1

/-- The waybill of a merge of a queued request with an arriving one. -/
def newWaybill (t : Ticket) (q r : Req) : Waybill :=
  { ticket := t, w := q.len == 8, opf := q.op, ret1 := q.ret, ret2 := r.ret, first := q, second := r
    opnd1 := if q.op ≤ 11 then q.operand else 0, quarantined := false }

/-- The request forwarded in place of two (R261, R262). -/
def mergedReq (id : Nat) (t : Ticket) (q r : Req) : Req :=
  { q with
    id := id
    operand := if q.op ≤ 11 then atomicOp q.op (q.len == 8) q.operand r.operand else r.operand
    cells := r.cells, ret := q.ret || r.ret, unit := r.unit
    span := max (max q.span r.span) (spanOf q.unit r.unit), dest := .waybill t }

/-- A request joins the queue of a stage at its end. -/
def State.enqueue (s : State) (r : Req) (stage : Nat) : State :=
  ((s.dropReq r.id).addReq { r with stage := stage }).push (r.onward stage)

/-- Counts what happens at a station of this package: each package counts its own (R275). -/
def State.countAt (s : State) (r : Req) (stage n : Nat) : State :=
  if (r.station stage).pkg = BitVec.ofNat 10 Config.pkgid then s.count n else s

/-- A request reaches a waystation (R259, R260). -/
def State.arriveAt (s : State) (r : Req) (stage : Nat) : State :=
  match (s.fab.reqs.filter (fun q => q.stage == stage && q.id != r.id && sameQueue stage q r)).getLast? with
  | none => s.enqueue r stage
  | some q =>
    if !(mayMerge stage q r) then s.enqueue r stage
    else
      match s.freeWaybill r stage with
      | none => (s.enqueue r stage).countAt r stage 3
      | some t =>
        let (s1, id) := (s.dropReq r.id).fresh
        let m := mergedReq id t q r
        let s2 := s1.modFab (fun f => { f with
          reqs := f.reqs.map (fun x => if x.id = q.id then m else x)
          waybills := f.waybills ++ [newWaybill t q r] })
        -- it takes the queued request's place
        ({ s2 with events := s2.events.map (fun e => if e = q.onward stage then m.onward stage else e) }).countAt r stage (stage - 1)

/-! ## Requests to UALink peers (R340, R341) -/

/-- The size of a peer's outbound pool. -/
def outPool (e : Nat) : Nat := if bitsNat e 38 30 = 0 then 512 else 8 * bitsNat e 38 30

/-- The UALink station sends a request to its peer, where it is performed unchecked and in write-through form. -/
def State.toPeer (s : State) (r : Req) (p : Nat) : State :=
  if peerDead (s.peerEntry p) then s.sendReply { r with stage := 4 } (.failed .remoteFailed)
  else
    let s1 := s.mapReq r.id (fun x => { x with stage := 4, checked := false })
    { s1 with
      host := { s1.host with peerReqs := FMap.put s1.host.peerReqs [] p (FMap.get s1.host.peerReqs [] p ++ [r.id]) }
      events := s1.events ++ [homeEvent r.kind r.id] }

/-- WAYSTATION_ARRIVAL: a request reaches a stage and is queued or merges; one for a peer's memory that has passed stage 2 goes to
the peer instead, and one for another package's home goes there as flits of class REQ (R326). -/
def execWaystationArrival (stage req : Nat) (s : State) : Host.Outcome State Fault Refusal :=
  match s.findReq req with
  | none => go s
  | some r =>
    match stage, peerOfKey r.key with
    | 3, some p => go (s.toPeer r p)
    | 3, none => go ((if ownParty r.who || r.who == pkgParty then s.injectMsg (homePkg r.key) 0 0 else s).arriveAt r 3)
    | _, _ => go (s.arriveAt r stage)

/-! ## Splitting replies (R261, R266, R268) -/

/-- The value of the second constituent (R261). -/
def Waybill.secondValue (b : Waybill) (x : DWord) : DWord :=
  if b.opf ≤ 11 then BitVec.ofNat 64 (atomicOp b.opf b.w x.toNat b.opnd1) else x

/-- The reply that a constituent receives. -/
def partReply (rep : Reply) (ret : Bool) (x : DWord → DWord) : Reply :=
  match rep with
  | .value v => if ret then .value (x v) else .ack
  | .fill _ _ _ | .ack | .failed _ => rep

/-- Sends a part of a reply towards its ticket. -/
def State.sendPart (s : State) (r : Req) (rep : Reply) : State :=
  match r.dest with
  | .waybill t => s.push (.replySplit t rep)
  | _ => (s.addReq { r with stage := 4 }).push (.memoryReply r.id rep)

/-- Frees a waybill. -/
def State.freeBill (s : State) (t : Ticket) : State :=
  s.modFab (fun f => { f with waybills := f.waybills.filter (fun b => b.ticket != t) })

/-- REPLY_SPLIT: a reply for a quarantined waybill is dropped and counted. -/
def execReplySplit (wb : Ticket) (r : Reply) (s : State) : Host.Outcome State Fault Refusal :=
  match s.findWaybill wb with
  | none => go (s.count 6)
  | some b =>
    if b.quarantined then go (s.count 6)
    else
      let s1 := (s.freeBill wb).sendPart b.first (partReply r b.ret1 (fun v => v))
      go (s1.sendPart b.second (partReply r b.ret2 b.secondValue))

/-! ## SPLIT answers and timeouts (R267, R269) -/

/-- The constituents of a waybill in serial order, those that are waybills of its own stage taken apart, with the tickets taken. -/
def State.constituents (s : State) (stage : BitVec 2) : Nat → Waybill → List Req × List Ticket
  | 0, b => ([b.first, b.second], [b.ticket])
  | n + 1, b =>
    let side := fun (r : Req) =>
      match r.dest with
      | .waybill t => if t.kind = stage then
            (match s.findWaybill t with | some c => s.constituents stage n c | none => ([r], []))
          else ([r], [])
      | _ => ([r], [])
    let x := side b.first
    let y := side b.second
    (x.1 ++ y.1, b.ticket :: (x.2 ++ y.2))

/-- SPLIT: the constituents go to the head of the queue, each marked reissued. -/
def execSplit (wb : Ticket) (s : State) : Host.Outcome State Fault Refusal :=
  match s.findWaybill wb with
  | none => go (s.count 6)
  | some b =>
    if b.quarantined then go (s.count 6)
    else
      let stage := wb.kind.toNat
      let (rs, ts) := s.constituents wb.kind s.fab.waybills.length b
      let back := rs.map (fun r => { r with stage := stage, reissued := true })
      let s1 := s.modFab (fun f => { f with
        reqs := back ++ f.reqs, waybills := f.waybills.filter (fun x => !(ts.contains x.ticket)) })
      go { s1 with events := back.map (fun r => r.onward stage) ++ s1.events }

/-- WAYBILL_TIMEOUT: every leaf receives REMOTE_FAILED, and the waybill is quarantined. -/
def execWaybillTimeout (wb : Ticket) (s : State) : Host.Outcome State Fault Refusal :=
  match s.findWaybill wb with
  | none => go s
  | some b =>
    if b.quarantined then go s
    else
      let s1 := (s.modFab (fun f => { f with
        waybills := f.waybills.map (fun x => if x.ticket = wb then { x with quarantined := true } else x) })).count 5
      go ((s1.sendPart b.first (.failed .remoteFailed)).sendPart b.second (.failed .remoteFailed))

/-! ## Reduce apertures (R270 to R274) -/

/-- Fields of a group entry. -/
def entryWord (e : List Byte) : Nat := field e 0 4
def entryGen (e : List Byte) : Nat := bitsNat (entryWord e) 29 26
def entryOp (e : List Byte) : Nat := bitsNat (entryWord e) 18 15
def entryTolerates (e : List Byte) : Bool := bitNat (entryWord e) 30

/-- A slot by number. -/
def State.findSlot (s : State) (id : Nat) : Option Slot := s.fab.slots.find? (fun x => x.id == id)

/-- Changes a slot. -/
def State.mapSlot (s : State) (id : Nat) (f : Slot → Slot) : State :=
  s.modFab (fun g => { g with slots := g.slots.map (fun x => if x.id = id then f x else x) })

/-- The contributor mask of a slot (R272). -/
def Slot.mask (x : Slot) : Nat := (List.range 64).foldl (fun m i => if x.accepted.contains i then m + 2 ^ i else m) 0

/-- The reply line of a slot (R272). -/
def Slot.line (x : Slot) : List Byte := x.vals.flatMap (leBytes 4) ++ leBytes 8 x.mask

/-- Frees a slot with the load it served. -/
def State.freeSlot (s : State) (x : Slot) : State :=
  s.modFab (fun f => { f with
    slots := f.slots.filter (fun y => y.id != x.id), apLoads := f.apLoads.filter (fun a => a.id != x.req) })

/-- The load a slot serves. -/
def State.slotLoad (s : State) (x : Slot) : Option ApLoad := s.fab.apLoads.find? (fun a => a.id == x.req)

/-- The reply of a slot goes to its warp, as an acquire at pod scope, and the slot is free. -/
def State.slotReply (s : State) (x : Slot) (fail : Option Cause) : State :=
  match s.slotLoad x with
  | none => s.freeSlot x
  | some a =>
    let s1 := (s.focusWg a.warp.wg)
    let s2 := if s1.g.serial = a.warp.wg then s1.acquire 4 else s1
    (s2.outReply a.warp a.out (if fail.isSome then [] else partVals a.parts x.line)
      (fail.map (fun c => { cause := c, lanes := a.lanes, addr := a.vaddr })) a.parts).freeSlot x

/-- APERTURE_LOAD: the load takes a slot and its member reads start; a group that no longer accepts it refuses it. -/
def execApertureLoad (req : Nat) (s : State) : Host.Outcome State Fault Refusal :=
  match s.fab.apLoads.find? (fun a => a.id == req) with
  | none => go s
  | some a =>
    if 64 ≤ s.fab.slots.length then go (s.push (.apertureLoad req))
    else
      match FMap.find s.fab.groups a.group, s.groupOk a.group (if a.user then 0 else 1) with
      | some g, true =>
        let ms := (List.range g.members).filterMap (fun m => s.member g m)
        let id := s.nextId
        let x : Slot := { id := id, req := req, group := a.group, entry := g.bytes, members := ms, round := a.round, off := a.off
                          accepted := [], failed := [], tagged := [], vals := List.replicate 30 (redIdentity (entryOp g.bytes)) }
        -- the numbers that follow the slot's are those of its member reads
        let s1 := { s with nextId := s.nextId + 1 + ms.length }
        let s2 := s1.modFab (fun f => { f with slots := f.slots ++ [x] })
        go { s2 with events := s2.events ++ (List.range ms.length).map (fun m => Instr.memberReadReply id m) }
      | _, _ =>
        let f : Fail := { cause := .protection, lanes := a.lanes, addr := a.vaddr }
        go ((s.outReply a.warp a.out [] (some f) a.parts).modFab (fun g => { g with apLoads := g.apLoads.filter (fun b => b.id != req) }))

/-- What a member's read comes to. -/
inductive MemberRead where
  | bytes (bs : List Byte)
  | failed
  | wait (s : State)

/-- The key of a byte of a member's line, under the key id of its entry (R270, R361). -/
def State.memberKey (s : State) (x : Slot) (m off : Nat) : Option Nat :=
  match x.members[m]? with
  | none => none
  | some (base, keyid, pkg) => (keyOfPa pkg false (base + x.off + off)).map (s.sealKey keyid)

/-- The number under which the reads of a slot's member stand. -/
def Slot.reader (x : Slot) (m : Nat) : Nat := x.id + 1 + m

/-- A read of a member's line at its home, as a write-through load that never merges (R271). -/
def State.readMember (s : State) (x : Slot) (m off n : Nat) : MemberRead :=
  match s.memberKey x m off with
  | none => .failed
  | some k =>
    match s.homeGet pkgParty (x.reader m) k n with
    | .wait s1 => .wait s1
    | .fail _ => .failed
    | .ok bs => .bytes bs

/-- A member is never accepted. -/
def State.memberFails (s : State) (slot m : Nat) : State := s.mapSlot slot (fun x => { x with failed := addNat m x.failed })

/-- The bytes that a member's data read finds: the bytes at the member's home, but for elements that were stored to after its tag was read, each
of which is old or new (R281): a free value picks (DESIGN CHOICE, log 29). -/
def tornBytes (n : Nat) (old new : List Byte) : List Byte :=
  if old.length ≠ 120 then new
  else (List.range 30).flatMap (fun e => if Config.tornElement n e then (old.drop (4 * e)).take 4 else (new.drop (4 * e)).take 4)

/-- The elements of a slot with a member's data folded in (R272). -/
def Slot.accept (x : Slot) (m : Nat) (bs : List Byte) : Slot :=
  { x with
    accepted := addNat m x.accepted
    vals := x.vals.zipIdx.map (fun (v, i) => redOp (entryOp x.entry) v (field bs (4 * i) 4)) }

/-- The data read of a member whose tag has matched (R271): the member is accepted, and the load is answered once every member is. -/
def State.readData (s : State) (x : Slot) (m : Nat) (old : List Byte) : State :=
  match s.readMember x m 0 120 with
  | .failed => s.memberFails x.id m
  | .wait s1 => s1.push (.memberReadReply x.id m)
  | .bytes new =>
    let (s1, n) := s.draw
    let y := x.accept m (tornBytes n old new)
    let s2 := s1.mapSlot x.id (fun _ => y)
    if y.accepted.length = y.members.length then s2.slotReply y none else s2

/-- The tag read of a member (R271): one that matches is followed by the data read, ordered after it; another is read again. -/
def State.readTag (s : State) (x : Slot) (m : Nat) : State :=
  match s.readMember x m 120 8 with
  | .failed => s.memberFails x.id m
  | .wait s1 => s1.push (.memberReadReply x.id m)
  | .bytes tag =>
    if leNat tag ≠ x.round then s.push (.memberReread x.id m)
    else
      let old := match s.memberKey x m 0 with | some k => s.coherent k 120 | none => []
      (s.mapSlot x.id (fun x => { x with tagged := FMap.insert x.tagged m old })).push (.memberReadReply x.id m)

/-- MEMBER_READ_REPLY: a member's tag, then its data, read at its home. A reply for a group of another generation is dropped and counted
(R274). -/
def execMemberReadReply (slot member : Nat) (s : State) : Host.Outcome State Fault Refusal :=
  match s.findSlot slot with
  | none => go s
  | some x =>
    if x.accepted.contains member || x.failed.contains member then go s
    else if (FMap.find s.fab.groups x.group).map (fun g => entryGen g.bytes) ≠ some (entryGen x.entry) then go (s.count 7)
    else
      let s1 := { s with acting := x.reader member }
      match FMap.find x.tagged member with
      | none => go (s1.readTag x member)
      | some old => go (s1.readData x member old)

/-- MEMBER_REREAD: the tag is read again. -/
def execMemberReread (slot member : Nat) (s : State) : Host.Outcome State Fault Refusal :=
  match s.findSlot slot with
  | none => go s
  | some _ => go (s.push (.memberReadReply slot member))

/-- The status record of an incomplete load (R273). -/
def Slot.status (x : Slot) (a : ApLoad) (count : Nat) : List Byte :=
  leBytes 8 x.mask ++ leBytes 4 (if x.failed.isEmpty then 1 else 2) ++ leBytes 4 (x.round % 2 ^ 14) ++ leBytes 4 x.off
    ++ leBytes 4 (Config.pkgid * 2 ^ 12 + a.core) ++ leBytes 4 count ++ leBytes 4 0

/-- The kind-7 record of an incomplete load: the group index in the element field, ρ and o in the address field, the mask. -/
def Slot.record (x : Slot) (cause : Cause) (addr : DWord) : Rec :=
  { kind := 7, cause := cause.code, addr := addr, elem := x.group, clause := BitVec.ofNat 32 x.round, lanes := BitVec.ofNat 32 x.off
    extra := BitVec.ofNat 64 x.mask }

/-- SLOT_TIMEOUT: reading stops; the status record is written, and the load ends with its partial line or with
APERTURE_INCOMPLETE. -/
def execSlotTimeout (slot : Nat) (s : State) : Host.Outcome State Fault Refusal :=
  match s.findSlot slot with
  | none => go s
  | some x =>
    match s.slotLoad x with
    | none => go (s.freeSlot x)
    | some a =>
      let at_ := BitVec.ofNat 64 (field x.entry 8 8)
      let count := match FMap.find s.fab.groups x.group with | some g => (g.incomplete + 1) % 2 ^ 32 | none => 1
      let counted := fun (s : State) => s.modFab (fun f => { f with
        groups := f.groups.map (fun (p : Nat × Group) => if p.1 = x.group then (p.1, { p.2 with incomplete := count }) else p) })
      let ends := fun (s : State) =>
        if entryTolerates x.entry then s.slotReply x none
        else (s.slotReply x (some .apertureIncomplete)).post (x.record .apertureIncomplete a.vaddr)
      match physKey at_ with
      | none => go (ends ((counted s).post (x.record .protection at_)))
      | some k =>
        match s.homePut pkgParty x.id (cellsAt k (x.status a count)) with
        | .ok s1 => go { (ends (counted s1)) with acting := x.id }
        | .fail s1 c => go { (ends ((counted s1).post (x.record c at_))) with acting := x.id }
        | .wait s1 => go (s1.push (.slotTimeout slot))

/-! ## Replies that do not come (R267, R273, R324) -/

/-- Whether a request's reply is on its way: it has been performed at its home. -/
def State.replied (s : State) (id : Nat) : Bool := s.events.any (fun e => match e with | .memoryReply i _ => i == id | _ => false)

/-- REMOTE_REPLY_TIMEOUT: a request that is no waybill, or a piece of a rank transfer, fails with REMOTE_FAILED. A plain write of an engine
that has been performed is not failed: one that fails is not performed (R203); whether an atomic was is unknown. -/
def execRemoteReplyTimeout (req : Nat) (s : State) : Host.Outcome State Fault Refusal :=
  go (match s.findReq req with
    | some q => if q.dest == .engine && q.kind == .wtw && s.replied req then s else s.takeReply q (.failed .remoteFailed)
    | none =>
      match s.courier.pieces.find? (fun p => p.id == req) with
      | some p => s.pieceFailed p .remoteFailed 0
      | none => s)

end Sys2Proof.Machine
end

