-- ==== Sys2Proof/Machine/HostPath.lean ====
section
/-! DEFINITION. Accesses of the host path: stores that go through the home, the host fault queue's ring (R311), and the completion
words of host commands (R345). -/

namespace Sys2Proof.Machine

/-! ## Stores of the host path -/

/-- Writes bytes at a physical address (R361); an address that is not memory, or is read-only (R224), takes nothing. -/
def State.physWrite (s : State) (pa : DWord) (bs : List Byte) : State :=
  match physKey pa with
  | some k => if s.readOnlyKey k then s else s.hostWrite k bs
  | none => s

/-- Reads bytes at a physical address: none where it is not memory or a sector is poisoned. -/
def State.physRead (s : State) (pa : DWord) (n : Nat) : Option (List Byte) :=
  match physKey pa with
  | some k => (match s.homeGet pkgParty ctlAgent k n with | .ok bs => some bs | _ => none)
  | none => none

/-! ## The host fault queue (R311) -/

/-- Whether the ring has room for a record. -/
def HostPaths.ringRoom (h : HostPaths) : Bool := decide (h.fqWrite - h.fqRead < h.fqSize)

/-- HOST_FAULT_RECORD_POST: the first record in the on-die buffer goes to the ring and the host is told; a record that waited
takes its place in the buffer. With no ring or no room the records stay where they are. -/
def execHostFaultRecordPost (s : State) : Host.Outcome State Fault Refusal :=
  match s.host.fqBuffer with
  | [] => go s
  | r :: rest =>
    if !s.host.ringRoom then go s
    else
      let h := s.host
      let s1 := (s.physWrite (h.fqBase + BitVec.ofNat 64 (h.fqWrite % h.fqSize * 64)) r).tell .interrupt
      let buffer := rest ++ h.fqWaiting.take 1
      let s2 : State := { s1 with host := { s1.host with
        fqWrite := h.fqWrite + 1, fqBuffer := buffer, fqWaiting := h.fqWaiting.drop 1 } }
      go (if buffer.isEmpty then s2 else s2.pushOnce .hostFaultRecordPost)

/-- HOST_FAULT_QUEUE_READ_INDEX: ring room is freed, so that records that waited go on. -/
def execHostFaultQueueReadIndex (index : DWord) (s : State) : Host.Outcome State Fault Refusal :=
  let s1 := { s with host := { s.host with fqRead := max s.host.fqRead (min index.toNat s.host.fqWrite) } }
  go (if s1.host.fqBuffer.isEmpty then s1 else s1.pushOnce .hostFaultRecordPost)

/-! ## Host commands (R345) -/

/-- The statuses of a command. -/
def stOk : Nat := 0
def stNotOwner : Nat := 1
def stBusy : Nat := 2
def stInvalid : Nat := 3

/-- The word that a command's completion writes. -/
def completionWord (c : Cmd) (status : Nat) : Nat := status * 2 ^ 24 + c.tag.toNat % 2 ^ 24

/-- A command completes: its completion word is written. -/
def State.complete (s : State) (c : Cmd) (status : Nat) : State := s.physWrite c.compl (leBytes 4 (completionWord c status))

/-- One command that a former owner had queued has run (R353). -/
def State.consumeOld (s : State) (c : Cmd) : State :=
  { s with pkg := { s.pkg with oldQueue := FMap.put s.pkg.oldQueue 0 c.master (FMap.get s.pkg.oldQueue 0 c.master - 1) } }

/-- A command of the owner, or one that a former owner had queued (R353): from any other master it completes with NOT_OWNER. -/
def State.ownerCmd (s : State) (c : Cmd) (k : State → State) : Host.Outcome State Fault Refusal :=
  let old := FMap.get s.pkg.oldQueue 0 c.master
  let s1 := s.consumeOld c
  go (if s.pkg.owner = some c.master then k s1 else if 0 < old then k s1 else s1.complete c stNotOwner)

/-- Whether an address that a command names is memory (R361). -/
def memoryAddr (a : DWord) : Bool := (physKey a).isSome

/-- A command whose operands are valid, its completion word's address among them (R361); else it completes with INVALID. -/
def State.valid (s : State) (c : Cmd) (ok : Bool) (k : State → State) : State :=
  if ok && memoryAddr c.compl then k s else s.complete c stInvalid

/-- The base of a master's command ring (R351): 4 KiB in the area of DRAM that the firmware has reserved, no two masters' the same. -/
def ringBase (m : Nat) : DWord := BitVec.ofNat 64 (Firmware.area + 65536 + 4096 * m)

/-- The commands that a ring holds (R351). -/
def ringSize : Nat := 64

/-- A command that acts at once and completes with OK. -/
def State.quick (s : State) (c : Cmd) (ok : Bool) (k : State → State) : Host.Outcome State Fault Refusal :=
  s.ownerCmd c (fun s => s.valid c ok (fun s => (k s).complete c stOk))

/-- Changes the host paths. -/
def State.modHost (s : State) (f : HostPaths → HostPaths) : State := { s with host := f s.host }

/-- Adds a command that completes later. -/
def State.pendCmd (s : State) (c : Cmd) (kind : Nat) (f : PendCmd → PendCmd) : State :=
  let (s1, id) := s.fresh
  let p : PendCmd := { id := id, cmd := c, kind := kind, grid := 0#32, cores := [], space := 0, base := 0, len := 0, old := [] }
  { s1 with host := { s1.host with cmds := s1.host.cmds ++ [f p] } }

/-- A pending command by number. -/
def State.findCmd (s : State) (id : Nat) : Option PendCmd := s.host.cmds.find? (fun p => p.id == id)

/-- A pending command completes. -/
def State.endPend (s : State) (p : PendCmd) : State :=
  ({ s with host := { s.host with cmds := s.host.cmds.filter (fun q => q.id != p.id) } }).complete p.cmd stOk

end Sys2Proof.Machine
end

