-- ==== Sys2Proof/Machine/Links.lean ====
section
/-! DEFINITION. The receiving side of the pod fabric: ejection, containment and skid, acknowledgement, NAK and replay, key rotation, and drain
sweeps (R323 to R335). -/

namespace Sys2Proof.Machine

/-- A null control flit (R331). -/
def nullFlit : Flit := { header := BitVec.ofNat 64 (3 * 2 ^ 38 + Config.pkgid * 2 ^ 11), payload := List.replicate 120 0#8 }

/-- GROUP_FILL_TIMEOUT: a group left open is completed with null control flits, ahead of what waits on the port. -/
def execGroupFillTimeout (port : Nat) (s : State) : Host.Outcome State Fault Refusal :=
  let l := s.link port
  if l.openGroup.isEmpty then go s
  else go (s.sendItems port (List.replicate (5 - l.openGroup.length) (.flit nullFlit 0)) [])

/-! ## Ejection (R326, R330) -/

/-- A verified flit for this package: the messages that end in it are taken out of the payloads since they began, as messages under way of the
flit's class. -/
def State.eject (s : State) (f : Flit) : State :=
  let way := f.src * 2 ^ 8 + f.cls * 2 ^ 6 + f.bits 10 5
  let texts := FMap.get s.host.ejected [] way ++ [f.payload]
  if bitNat f.header.toNat 3 then
    { s with
      host := { s.host with ejected := FMap.put s.host.ejected [] way [] }
      events := s.events ++ (Config.carried texts).filter (fun e => msgClass e == some f.cls) }
  else { s with host := { s.host with ejected := FMap.put s.host.ejected [] way texts } }

/-! ## Containment and skid (R325, R333) -/

/-- Queues a flit minimally by this package's own table; one without a route goes nowhere. -/
def State.forwardFlit (s : State) (f : Flit) (num : Nat) : State :=
  if bitNat (s.route f.dst) 63 then s.sendItems (s.route f.dst % 32) [] [.flit f num] else s

/-- Queues verdicts behind a flit forwarded. -/
def State.sayVerdicts (s : State) (out : Option (Nat × Nat)) (passes : Nat) (pass : Bool) : State :=
  match out with
  | some (port, num) => s.sendItems port [] (List.replicate passes (.verdict num pass))
  | none => s

/-- What becomes of a flit received: one that failed is discarded, with a fail verdict behind it if it was forwarded; one whose group verified is
forwarded unless it has been, with the verdicts that follow it, and ejected here once every hop that forwarded it early has sent a pass
verdict. Answers the record while verdicts are still awaited. -/
def State.settleSkid (s : State) (k : Skid) : State × List Skid :=
  match k.own with
  | none => (s, [k])
  | some false => (s.sayVerdicts k.out (if k.early then 1 else 0) false, [])
  | some true =>
    if k.flit.ends then
      if k.need ≠ 0 then (s, [k]) else (if k.flit.cls = 3 then s else s.eject k.flit, [])
    else
      let k1 := match k.out with
        | some _ => k
        | none => { k with out := some (s.route k.flit.dst % 32, s.nextId) }
      let s1 := match k.out with
        | some _ => s
        | none => { s with nextId := s.nextId + 1 }.forwardFlit k.flit s.nextId
      let own := if k.early then 1 else 0
      let s2 := s1.sayVerdicts k1.out (own + k.relay) true
      (s2, if k.need = 0 then [] else [{ k1 with early := false, relay := 0 }])

/-- Settles the flits received on a port. -/
def State.settleSkids (s : State) (port : Nat) : State :=
  let r := (s.link port).held.foldl (fun (acc : State × List Skid) k =>
    let (s1, ks) := acc.1.settleSkid k
    (s1, acc.2 ++ ks)) (s, [])
  r.1.modLink port (fun l => { l with held := r.2 })

/-- How many hops before forwarded a flit early: none when its source is the neighbour on the port, else a free value of at most two. -/
def State.hopsBefore (s : State) (port : Nat) (f : Flit) : State × Nat :=
  let e := s.route f.src
  if bitNat e 63 && bitNat e 62 && e % 32 == port then (s, 0)
  else
    let (s1, n) := s.draw
    (s1, Config.earlyHops n % 3)

/-- Records a flit received; in skid mode one for another package is forwarded at once. -/
def State.holdFlit (s : State) (port : Nat) (skid : Bool) (f : Flit) : State :=
  let (s1, need) := s.hopsBefore port f
  let early := skid && !f.ends
  let (s2, out) : State × Option (Nat × Nat) :=
    if early then ({ s1 with nextId := s1.nextId + 1 }.forwardFlit f s1.nextId, some (s1.route f.dst % 32, s1.nextId)) else (s1, none)
  s2.modLink port (fun l => { l with held := l.held ++ [{ seq := f.seq, flit := f, out := out, own := none, early := early, need := need }] })

/-- The first record of a flit of which a verdict is awaited takes it. -/
def takeVerdict (msg : Nat) (pass : Bool) : List Skid → List Skid
  | [] => []
  | k :: ks =>
    if k.seq = msg ∧ k.need ≠ 0 then
      (if pass then { k with need := k.need - 1, relay := if k.flit.ends then 0 else k.relay + 1 }
       else { k with own := some false, early := k.out.isSome }) :: ks
    else k :: takeVerdict msg pass ks

/-- VERDICT: a hop before says whether a flit's inbound group verified there; a hop between passes it on behind the flit. -/
def execVerdict (port msg : Nat) (pass : Bool) (s : State) : Host.Outcome State Fault Refusal :=
  go ((s.modLink port (fun l => { l with held := takeVerdict msg pass l.held })).settleSkids port)

/-! ## Receiving (R332) -/

/-- Marks the flits whose own group is being settled. -/
def markOwn (ok : Bool) (l : Link) : Link :=
  { l with held := l.held.map (fun k => if k.own = none then { k with own := some ok } else k) }

/-- The receiver discards the group it is gathering and asks for a replay from its first flit. -/
def State.rejectGroup (s : State) (port : Nat) : State :=
  let l := s.link port
  let first := l.expSeq - BitVec.ofNat 8 l.group.length
  ((s.modLink port (fun l => markOwn false { l with expSeq := first, group := [] })).settleSkids port).tell (.nak port first)

/-- A group verifies: it is acknowledged, and its messages go on. -/
def State.acceptGroup (s : State) (port : Nat) (slot : Bool) : State :=
  let s1 := s.modLink port (fun l => markOwn true { l with group := [], rx := l.rx.next slot })
  (s1.tell (.ack port ((s1.link port).expSeq - 1))).settleSkids port

/-- FLIT_RECEIVE: the CRC, then the sequence, then the group's tag. A flit that fails its CRC is discarded with every later one and NAKed,
whatever its `SEQ` reads. -/
def execFlitReceive (port : Nat) (f : Flit) (s : State) : Host.Outcome State Fault Refusal :=
  let l := s.link port
  if !l.up then go s
  else if f.payload.length ≠ 120 ∨ f.crc ≠ flitCrc f then go (s.rejectGroup port)
  else if f.seq ≠ l.expSeq.toNat then go s
  else if f.gpos ≠ l.group.length then go (s.rejectGroup port)
  else
    let slot := match l.group with | g :: _ => g.kslot | [] => f.kslot
    match l.rx.use slot with
    | none => go (s.rejectGroup port)
    | some (key, salt, counter) =>
      let skid := if l.group.isEmpty then l.skid else l.groupSkid
      let group := l.group ++ [f]
      let s1 := (s.modLink port (fun l => { l with group := group, expSeq := l.expSeq + 1, groupSkid := skid })).holdFlit port skid
        (cipherFlit key salt counter l.group.length f)
      if group.length < 5 then go s1
      else if leNat ((f.payload.drop 108).take 12) = (groupTag key salt counter group).toNat then go (s1.acceptGroup port slot)
      else go (s1.rejectGroup port)

/-- Completes the KEYROTATE command of a port and direction, if one is pending (R334). -/
def State.endRotate (s : State) (port dir : Nat) : State :=
  match s.host.cmds.find? (fun p => p.kind == 3 && p.base == 2 * port + dir) with
  | some p => s.endPend p
  | none => s

/-! ## Acknowledgement, replay and link failure (R332) -/

/-- The flits of a list from the one that bears a sequence number. -/
def fromSeq (seq : Nat) (l : List (Flit × Flit)) : List (Flit × Flit) := l.dropWhile (fun p => p.1.seq != seq)

/-- Whether every flit sent before the first new-slot flit has been acknowledged (R334). -/
def Link.rotationDone (l : Link) : Bool :=
  l.tx.rotating && l.unacked.all (fun p => p.1.kslot == l.tx.active) && l.openGroup.all (fun f => f.kslot == l.tx.active)

/-- FLIT_ACKNOWLEDGEMENT: cumulative by `SEQ`. -/
def execFlitAcknowledgement (port : Nat) (seq : Byte) (s : State) : Host.Outcome State Fault Refusal :=
  match fromSeq seq.toNat (s.link port).unacked with
  | [] => go s
  | _ :: rest =>
    let s1 := s.modLink port (fun l => { l with unacked := rest, replays := 0 })
    let s2 := s1.pump port
    go (if (s2.link port).rotationDone then s2.pushOnce (.rotationComplete port) else s2)

/-- ROTATION_COMPLETE: the old slot is cleared and the command completes. For the direction in which this end sends, that is when the last flit
of the old slot is acknowledged. For the other the neighbour's sender says that it has the acknowledgement: both ends clear then. -/
def execRotationComplete (port : Nat) (s : State) : Host.Outcome State Fault Refusal :=
  let ended := fun (k : KeySlots) (old : Bool) => { k.clear old with active := !old, rotating := false }
  let l := s.link port
  go (if l.rotationDone then (s.modLink port (fun l => { l with tx := ended l.tx (!l.tx.active) })).endRotate port 0
    else if (l.rx.use (!l.rx.active)).isSome then (s.modLink port (fun l => { l with rx := ended l.rx l.rx.active })).endRotate port 1
    else s)

/-- What a link sends again on other ports when it goes down: its unacknowledged and waiting flits. -/
def Link.stranded (l : Link) : List Flit :=
  (l.unacked.map (fun p => p.2) ++ l.outq.filterMap (fun x => match x with | .flit f _ => some f | _ => none)).filter (fun f => f.cls != 3)

/-- The link goes down: it is reported, and its unacknowledged and waiting messages are sent again on other ports; those with none
wait. -/
def State.linkDown (s : State) (port : Nat) : State :=
  let l := s.link port
  let s1 := (s.modLink port (fun _ => { Link.down with skid := l.skid, rx := l.rx, tx := l.tx })).post
    { kind := 5, cause := 0x54, elem := port }
  l.stranded.foldl (fun (s : State) f => s.sendItems (s.injectPort f.dst) [] [.flit (f.onChannel 0) 0]) s1

/-- NAK: the sender replays from the failing group's first flit, each flit as first sent; after 8 replays of it the link goes
down. -/
def execNak (port : Nat) (seq : Byte) (s : State) : Host.Outcome State Fault Refusal :=
  let l := s.link port
  match fromSeq seq.toNat l.unacked with
  | [] => go s
  | fs =>
    if 8 ≤ l.replays then go (s.linkDown port)
    else
      let s1 := s.modLink port (fun l => { l with replays := l.replays + 1 })
      go { s1 with outbox := s1.outbox ++ fs.map (fun p => OutMsg.flit port p.1) }

/-! ## Drain sweeps (R335) -/

/-- The number of a ticket (R263). -/
def ticketNat (t : Ticket) : Nat := t.kind.toNat * 2 ^ 38 + t.pkg.toNat * 2 ^ 28 + t.unit.toNat * 2 ^ 14 + t.index.toNat

/-- What is quarantined now. -/
def State.quarantined (s : State) : List (Nat × Nat) :=
  (s.courier.ctxs.filter (fun p => p.2.quarantined)).map (fun p => (0, p.1))
  ++ (s.fab.groups.filter (fun p => p.2.quarantined)).map (fun p => (1, p.1))
  ++ (s.fab.waybills.filter (fun b => b.quarantined)).map (fun b => (2, ticketNat b.ticket))

/-- The number under which the ejection point's markers stand, beside those of the 32 ports. -/
def ejectPort : Nat := 32

/-- Places the markers of a round: behind everything queued on every outbound channel of every class, and at the ejection point behind every
message delivered here and not yet taken. -/
def State.placeMarkers (s : State) (round : Nat) : State :=
  (s.usedPorts.foldl (fun (s : State) p => s.sendItems p [] [.marker round 0, .marker round 1, .marker round 2]) s).push
    (.drainMarker ejectPort round)

/-- Goes through the rounds whose markers are all in, the ejection point's among them; after round 4 the sweep is complete here. -/
def State.advanceSweep (s : State) : Nat → State
  | 0 => s
  | n + 1 =>
    match s.host.drainRound with
    | none => s
    | some k =>
      let ports := ejectPort :: s.usedPorts
      if !(ports.all (fun p => (s.link p).markers.contains k)) then s
      else if 4 ≤ k then
        let s1 := ports.foldl (fun (s : State) p => s.modLink p (fun l => { l with markers := [] })) s
        (({ s1 with host := { s1.host with drainRound := none } }).tell (.drainDone Config.pkgid)).push (.drainComplete Config.pkgid)
      else (({ s with host := { s.host with drainRound := some (k + 1) } }).placeMarkers (k + 1)).advanceSweep n

/-- Begins a sweep here. -/
def State.beginSweep (s : State) : State :=
  if s.host.drainRound.isSome then s
  else ({ s with host := { s.host with drainRound := some 0, swept := s.quarantined } }).placeMarkers 0

/-- Whether a reply for a waybill can still come: its request is under way, or part of another waybill (R274). -/
def State.billUsed (s : State) (n : Nat) : Bool :=
  let mine := fun (r : Req) => match r.dest with | .waybill t => ticketNat t == n | _ => false
  s.fab.reqs.any mine || s.fab.waybills.any (fun b => mine b.first || mine b.second)
    || s.events.any (fun e => match e with | .replySplit t _ => ticketNat t == n | _ => false)

/-- Whether a marker has reached the ejection point: every message delivered before it has been taken, and in the last round nothing is left of
the requests of the waybills that the sweep covers. -/
def State.markerEjected (s : State) (round : Nat) : Bool :=
  (s.events.takeWhile (fun e => e != .drainMarker ejectPort round)).all (fun e => (msgClass e).isNone)
    && (round != 4 || s.host.swept.all (fun p => p.1 != 2 || !(s.billUsed p.2)))

/-- DRAIN_MARKER: the markers of a round have arrived on the channels of a port, or at the ejection point; the first of a sweep begins it
here. -/
def execDrainMarker (port round : Nat) (s : State) : Host.Outcome State Fault Refusal :=
  let s1 := s.modLink port (fun l => { l with markers := addNat round l.markers })
  go (if s1.host.drainRound.isSome then s1.advanceSweep 5 else if port = ejectPort then s else s1.beginSweep)

/-- The packages of the pod that this one knows: itself and those with a route. -/
def State.podPackages (s : State) : List Nat :=
  addNat Config.pkgid ((s.host.routes.filter (fun p => p.2.getLsbD 63)).map (fun p => p.1))

/-- DRAIN_COMPLETE: the sweep has completed at a package; once at all, the quarantines that it covered end and the DRAIN command
completes. -/
def execDrainComplete (pkg : Nat) (s : State) : Host.Outcome State Fault Refusal :=
  let s1 : State := { s with host := { s.host with drained := addNat pkg s.host.drained } }
  if !(s1.podPackages.all (fun p => s1.host.drained.contains p)) then go s1
  else
    let swept := s1.host.swept
    let ends := fun (k n : Nat) => swept.contains (k, n)
    let s2 : State := { s1 with
      host := { s1.host with drained := [], swept := [] }
      courier := { s1.courier with ctxs := s1.courier.ctxs.map (fun (p : Nat × Ctx) =>
        if ends 0 p.1 then (p.1, { p.2 with quarantined := false }) else p) }
      fab := { s1.fab with
        groups := s1.fab.groups.map (fun (p : Nat × Group) => if ends 1 p.1 then (p.1, { p.2 with quarantined := false }) else p)
        waybills := s1.fab.waybills.filter (fun b => !(b.quarantined && ends 2 (ticketNat b.ticket))) } }
    go (match s2.host.cmds.find? (fun p => p.kind == 2) with
      | some p => s2.endPend p
      | none => s2)

end Sys2Proof.Machine
end

