-- ==== Sys2Proof/Machine/Peers.lean ====
section
/-! DEFINITION. The UALink stations and the companion link: inbound requests, outbound timeouts, and the failure of an agent
(R337 to R344, R255). -/

namespace Sys2Proof.Machine

/-! ## Inbound requests (R337 to R339) -/

/-- The bytes that a peer's request touches. -/
def peerLen (r : PeerReq) : Nat :=
  match r.op with
  | .read | .write => r.len
  | _ => if r.wide then 8 else 4

/-- The subset of R337. -/
def peerOpOk (r : PeerReq) : Bool :=
  let a := r.addr.toNat
  match r.op with
  | .read => decide (1 ≤ r.len) && decide (a % 256 + r.len ≤ 256)
  | .write => decide (1 ≤ r.len) && decide (a % 256 + r.len ≤ 256) && r.bytes.all (fun c => decide (c.1 < r.len))
  | .atomic f => a % peerLen r == 0 && decide (f.toNat ≤ 8)
  | .compareSwap => a % peerLen r == 0
  | .unsupported => false

/-- Whether a request writes. -/
def peerWrites (r : PeerReq) : Bool := match r.op with | .read => false | _ => true

/-- The size of a peer's inbound pool. -/
def inPool (e : Nat) : Nat := if bitsNat e 29 22 = 0 then 256 else 8 * bitsNat e 29 22

/-- The address space of a peer's untranslated requests. -/
def peerSpace (e : Nat) : Nat := bitsNat e 60 49

/-- Puts an event back at the head of those under way. -/
def State.requeue (s : State) (e : Instr) : State := { s with events := e :: s.events }

/-- Whether the scope record of a sector refuses a peer's access. -/
def State.peerRefused (s : State) (p sec : Nat) : Bool :=
  let g := s.grainAt (32 * sec)
  let r := { hostReq 0 g.2 [] with checked := true, unit := peerUnit p }
  scopeCheck { s.entry g.1 with size := g.2 } r false == .refuse

/-- Records a peer's access to a sector at system scope. -/
def State.peerRecord (s : State) (p sec : Nat) : State :=
  let g := s.grainAt (32 * sec)
  s.setEntry g.1 { s.entry g.1 with size := g.2, svalid := true, sunit := peerUnit p, sscope := 5 }

/-- The value that a peer's atomic leaves (R156, R157). -/
def peerResult (r : PeerReq) (old : Nat) : Option Nat :=
  match r.op with
  | .atomic f => some (atomicOp f.toNat r.wide old (r.operand.toNat % 2 ^ (8 * peerLen r)))
  | _ => if old = r.operand.toNat % 2 ^ (8 * peerLen r) then some (r.newval.toNat % 2 ^ (8 * peerLen r)) else none

/-- The sectors of a range of keys. -/
def sectorKeys (key n : Nat) : List Nat := (List.range n).foldl (fun l i => addNat ((key + i) / 32) l) []

/-- Performs a peer's request at the home of a key and answers it. -/
def State.peerPerform (s : State) (r : PeerReq) (key : Nat) (checked : Bool) : State :=
  let n := peerLen r
  let secs := sectorKeys key n
  let fail := s.tell (.peerError r.id r.peer)
  if checked && secs.any (s.peerRefused r.peer) then fail
  else
    let s1 := if checked then secs.foldl (fun (s : State) k => s.peerRecord r.peer k) s else s
    match r.op with
    | .write =>
      match s1.homeWrite (r.bytes.map (fun c => (key + c.1, c.2))) with
      | .error _ => fail
      | .ok s2 => s2.tell (.peerAnswer r.id r.peer .ack)
    | _ =>
      match s1.homeRead key n with
      | .error _ => fail
      | .ok bs =>
        if r.op = .read then s1.tell (.peerAnswer r.id r.peer (.fill (cellsAt 0 bs) .none 0#8))
        else
          let s2 := match peerResult r (leNat bs) with
            | some x => s1.homeWriteOr (cellsAt key (leBytes n x))
            | none => s1
          s2.tell (.peerAnswer r.id r.peer (.value (BitVec.ofNat 64 (leNat bs))))

/-- Whether a request for a word of a peer's request stands in the home waystation's queue: the peer's, which enters that stage only (R257),
stands behind it (R259). -/
def State.behindQueue (s : State) (r : PeerReq) (key : Nat) : Bool :=
  s.fab.reqs.any (fun q => q.stage == 3 && overlap (q.key / 4) ((q.key % 4 + max 1 q.len + 3) / 4) (key / 4) ((key % 4 + max 1 (peerLen r) + 3) / 4))

/-- A request at a key, once the home has settled what agents outside hold there. It passes its waystation without merging (DESIGN CHOICE, log
30: a station's request carries no COMB attribute or ticket under which R258 to R263 could merge it). -/
def State.peerAt (s : State) (r : PeerReq) (key : Nat) (checked : Bool) : State :=
  if peerWrites r && s.readOnlyKey key then s.tell (.peerError r.id r.peer)
  else if s.behindQueue r key then s.requeue (.ualinkRequest r)
  else if s.heldOutside key (peerLen r) then (s.settleRange key (peerLen r)).requeue (.ualinkRequest r)
  else s.peerPerform r key checked

/-- A write to the control window that has no right, or hits no register, is dropped and counted (R344). -/
def State.dropControl (s : State) : State := { s with host := { s.host with controlDrops := s.host.controlDrops + 1 } }

/-- The bytes of a write by offset, the first n of them all enabled. -/
def writtenBytes (r : PeerReq) (n : Nat) : Option (List Byte) :=
  (List.range n).mapM (fun i => (r.bytes.find? (fun c => c.1 == i)).map (fun c => c.2))

/-- A master's doorbell (R344): the new write index of its command ring. One that is behind the commands read, or more than a ring ahead of
them, changes nothing (DESIGN CHOICE, log 108). -/
def State.doorbell (s : State) (m : Nat) (index : Nat) : State :=
  let read := FMap.get s.host.cmdRead 0 m
  if index < max read (FMap.get s.host.cmdWrite 0 m) ∨ read + ringSize < index then s
  else { s with host := { s.host with cmdWrite := FMap.put s.host.cmdWrite 0 m index } }

/-- An access to the control window (R344): a notify by an agent with the right acts, and so does a doorbell by its own master (`master`, for
an access over the companion link); any other write is dropped and counted, and a read is an error. -/
def State.controlAccess (s : State) (r : PeerReq) (mayNotify : Bool) (master : Option Nat) : State :=
  let off := r.addr.toNat % 2 ^ 54
  match r.op with
  | .write =>
    let s1 :=
      if off = 0 then
        (match writtenBytes r 16 with
         | some bs => if r.len = 16 ∧ mayNotify ∧ field bs 10 6 = 0 then s.push (.notify (field bs 8 2) (BitVec.ofNat 64 (field bs 0 8))) else s.dropControl
         | none => s.dropControl)
      else
        match master, writtenBytes r 8 with
        | some m, some bs => if off = 0x100 + 16 * m ∧ m < 3 ∧ r.len = 8 then s.doorbell m (field bs 0 8) else s.dropControl
        | _, _ => s.dropControl
    s1.tell (.peerAnswer r.id r.peer .ack)
  | _ => s.tell (.peerError r.id r.peer)

/-- An access over the companion link (R342): the companion processor's, master 0, to memory homed in the package enters at stage 3 as a
peer's does, with a physical address; the masters write the control window. Such an access bears 1,024 + m for master m in place of a peer's
number. -/
def State.linkAccess (s : State) (r : PeerReq) (m : Nat) : State :=
  let error := s.tell (.peerError r.id r.peer)
  if 3 ≤ m ∨ 2 ^ 57 ≤ r.addr.toNat ∨ !(peerOpOk r) then error
  else if regionOf r.addr.toNat = 7 then s.controlAccess r (m == 0) (some m)
  else if m ≠ 0 ∨ 4 ≤ regionOf r.addr.toNat then error
  else
    match keyOfPa Config.pkgid false r.addr.toNat with
    | none => error
    | some key => s.peerAt r key true

/-- UALINK_REQUEST, and an access over the companion link. -/
def execUalinkRequest (r : PeerReq) (s : State) : Host.Outcome State Fault Refusal :=
  let e := s.peerEntry r.peer
  let error := s.tell (.peerError r.id r.peer)
  if 1024 ≤ r.peer then go (s.linkAccess r (r.peer - 1024))
  else if !(bitNat e 63) || bitNat e 61 || !(peerOpOk r) then go error
  else if r.translated then
    if !(bitNat e 62) ∨ 2 ^ 57 ≤ r.addr.toNat then go error
    else if regionOf r.addr.toNat = 7 then go (s.controlAccess r (bitNat e 12) none)
    else
      match keyOfPa Config.pkgid false r.addr.toNat with
      | none => go error
      | some key => go (s.peerAt r (s.sealKey (bitsNat e 48 39) key) true)
  else if 2 ^ 57 ≤ r.addr.toNat ∨ inFixedRange r.addr.toNat then go error
  else
    match translate s (peerSpace e) 1 (if peerWrites r then .write else .read) r.addr.toNat with
    | .ok (key, a) => go { (s.peerAt r key a.schk) with acting := ctlAgent }
    | .error .walkWait =>
      go { (s.askWalk pkgParty ctlAgent (peerSpace e) r.addr.toNat false).requeue (.ualinkRequest r) with acting := ctlAgent }
    | .error .translation =>
      go (s.parkFault (.peer r) [] { kind := 5, cause := Cause.translation.code, addr := r.addr, elem := r.peer }).1
    | .error _ => go error

/-! ## Outbound timeouts (R341) -/

/-- Changes a peer's table entry. -/
def State.setPeer (s : State) (p : Nat) (e : Nat) : State :=
  { s with host := { s.host with peers := FMap.put s.host.peers 0#64 p (BitVec.ofNat 64 e) } }

/-- Fails a request with REMOTE_FAILED, if it is still under way. -/
def State.failReq (s : State) (id : Nat) : State :=
  match s.findReq id with
  | some r => s.takeReply r (.failed .remoteFailed)
  | none => s

/-- A peer is hung: every request outstanding to it fails, and it is reported. -/
def State.hang (s : State) (p : Nat) : State :=
  let s1 := s.setPeer p (s.peerEntry p ||| 2 ^ 61)
  let s2 := (FMap.get s1.host.peerReqs [] p).foldl State.failReq s1
  s2.post { kind := 5, cause := 0x53, elem := p, extra := (s2.incarnation (1024 + p)).setWidth 64 }

/-- PEER_TIMEOUT: the request fails with REMOTE_FAILED; after 4 timeouts in a row the peer is hung. -/
def execPeerTimeout (req : Nat) (s : State) : Host.Outcome State Fault Refusal :=
  match s.host.peerReqs.find? (fun p => p.2.contains req) with
  | none => go s
  | some (p, _) =>
    let n := FMap.get s.host.peerTimeouts 0 p + 1
    let s1 := s.failReq req
    let s2 := { s1 with host := { s1.host with peerTimeouts := FMap.put s1.host.peerTimeouts 0 p n } }
    go (if n = 4 then s2.hang p else s2)

/-! ## Dead agents (R255, R343) -/

/-- The number of an agent in the incarnation table. -/
def agentKey : Incarnate → Nat
  | .package n => n
  | .companion => domCommon
  | .peer n => 1024 + n

/-- Declares an agent dead: its incarnation advances, and the home scrubs its directory. -/
def State.declareDead (s : State) (a : Nat) : State :=
  let s1 : State := { s with host := { s.host with
    incarnations := FMap.put s.host.incarnations 0#8 a (s.incarnation a + 1)
    -- nothing of what is on its way to a dead package is answered
    forwards := FMap.put s.host.forwards 0 a 0, forwardWait := s.host.forwardWait.filter (fun x => x.1 != a) } }
  -- messages of this package's homes that bear the old incarnation are dropped, and counted
  let old := fun (e : Instr) => match e with | .cancelled _ _ => a == Config.pkgid | _ => false
  let s2 := (s1.events.filter old).foldl (fun (s : State) _ => s.count 8) { s1 with events := s1.events.filter (fun e => !(old e)) }
  s2.scrub a

/-- COMPANION_LINK_FAILURE. -/
def execCompanionLinkFailure (s : State) : Host.Outcome State Fault Refusal := go (s.declareDead domCommon)

end Sys2Proof.Machine
end

