-- ==== Sys2Proof/Machine/HostCmd.lean ====
section
/-! DEFINITION. The host command path (R345): queues and cores, answers to parked work, translation, groups and contexts, routes and
link keys, peers, counters and the fault queue. -/

namespace Sys2Proof.Machine

/-! ## Queues and cores (R282, R297) -/

/-- Whether a queue descriptor meets the rules of R282. -/
def queueDescOk (b : List Byte) : Bool :=
  let ctl := field b 8 4
  field b 0 8 % 4096 == 0 && bitsNat ctl 31 20 == 0 && bitsNat ctl 15 10 == 0 && bitsNat ctl 7 5 == 0
    && decide (4 ≤ ctl % 32) && decide (ctl % 32 ≤ 16) && field b 0xC 4 == 0
    && [0x20, 0x28, 0x30, 0x38].all (fun o => decide (field b o 8 < 2 ^ 48))

/-- Whether an address lies in this package's DRAM or companion memory. -/
def ownOrCompanion (a : DWord) : Bool := memoryAddr a && regionOf a.toNat != 6

/-- REGQ: a queue is registered with its read index 0. -/
def execRegq (c : Cmd) (queue : Nat) (desc : DWord) (space : Nat) (s : State) : Host.Outcome State Fault Refusal :=
  let bytes := (s.physRead desc 64).getD []
  let ok := decide (queue < 65536) && decide (space < 4096) && desc.toNat % 64 == 0 && ownOrCompanion desc
    && bytes.length == 64 && queueDescOk bytes && ownOrCompanion (BitVec.ofNat 64 (field bytes 0 8))
  s.quick c ok (fun s =>
    let q : Queue := { desc := desc, space := space, readIdx := 0, notified := 0 }
    (s.modHost (fun h => { h with queues := FMap.insert h.queues queue q })).physWrite (desc + 0x18#64) (leBytes 8 0))

/-- The cores of a core list: a 32-bit count, then as many 32-bit core numbers. -/
def State.coreList (s : State) (list : DWord) : List Nat :=
  let n := min 4096 (field ((s.physRead list 4).getD []) 0 4)
  (List.range n).map (fun i => field ((s.physRead (list + BitVec.ofNat 64 (4 + 4 * i)) 4).getD []) 0 4 % 4096)

/-- The running workgroups of a grid on given cores. -/
def State.wgsOn (s : State) (grid : Word) (cores : List Nat) : List Workgroup :=
  s.allWgs.filter (fun g => g.grid == grid && g.place == .running && g.serial != 0 && cores.contains g.core)

/-- VACATE: the grid's workgroups on the cores have their purses forced to zero, and the cores are barred to the grid; the command
completes once they hold none. -/
def execVacate (c : Cmd) (gridid : Word) (list : DWord) (s : State) : Host.Outcome State Fault Refusal :=
  s.ownerCmd c (fun s => s.valid c ((s.findGrid gridid).isSome && memoryAddr list) (fun s =>
    let cores := s.coreList list
    let s1 := s.mapGrid gridid (fun g => { g with barred := cores.foldl (fun l x => addNat x l) g.barred })
    let s2 := (s1.wgsOn gridid cores).foldl (fun (s : State) g => s.forcePurses g.serial) s1
    s2.pendCmd c 0 (fun p => { p with grid := gridid, cores := cores })))

/-- Whether a VACATE has completed. -/
def State.vacated (s : State) (p : PendCmd) : Bool := p.kind == 0 && (s.wgsOn p.grid p.cores).isEmpty

/-- VACATE_COMPLETE. -/
def execVacateComplete (cmd : Nat) (s : State) : Host.Outcome State Fault Refusal :=
  match s.findCmd cmd with
  | some p => go (if s.vacated p then s.endPend p else s)
  | none => go s

/-- RETURN: the cores are the grid's again. -/
def execReturnCores (c : Cmd) (gridid : Word) (list : DWord) (s : State) : Host.Outcome State Fault Refusal :=
  s.quick c ((s.findGrid gridid).isSome && memoryAddr list) (fun s =>
    let cores := s.coreList list
    s.mapGrid gridid (fun g => { g with barred := g.barred.filter (fun x => !(cores.contains x)) }))

/-! ## Answers (R312) -/

/-- The warp, parked on a token, whose answer has come: it takes its turn. -/
def State.answerWarp (s : State) (w : WarpId) (token : Nat) (k : State → TrapRec → State) : State :=
  let s1 := s.focusWarp w
  if !(s1.isWarp w) then s1
  else
    match s1.w.wait, s1.w.trap with
    | .token t, some r => if t = token then k (s1.modW (fun x => { x with wait := .none, trap := none })) r else s1
    | _, _ => s1

/-- Changes the Porter command of a workgroup. -/
def State.answerCmd (s : State) (wg cmd : Nat) (k : State → PorterCmd → State) : State :=
  let s1 := s.focusWg wg
  if s1.g.serial ≠ wg then s1
  else
    match s1.g.porter.find? (fun c => c.id == cmd) with
    | some c => k s1 c
    | none => s1

/-- REPLAY: the access is made again in full, with the lane addresses that the fault buffer kept (R310). -/
def State.replay (s : State) (f : FaultEntry) : State :=
  match f.what with
  | .warp w => s.answerWarp w f.token (fun s _ => s.modW (fun x =>
      ({ x with wait := .header, cl := x.cl.map (fun c => { c with addrs := f.addrs }) } : Warp).restartClause))
  | .porter wg cmd => s.answerCmd wg cmd (fun s c => s.mapCmd c.id (fun x => { x with token := 0 }))
  | .ctx n => s.modCtx n (fun c => { c with parked := 0 })
  | .packetDep p | .packetWord p | .grid p => s.modPacket p (fun x => { x with token := 0 })
  | .peer r => s.requeue (.ualinkRequest r)

/-- What DELIVER and ABORT do to a packet whose access failed. -/
def State.failParked (s : State) (f : FaultEntry) : State :=
  match f.what with
  | .packetDep p => s.modPacket p (fun x => { x with token := 0, finished := true, status := max x.status 5 })
  | .packetWord p => (match s.findPacket p with | some x => s.retirePacket x | none => s)
  | .grid p => (match s.findPacket p with | some x => (s.failGrid x 3).modPacket p (fun y => { y with token := 0 }) | none => s)
  | .peer r => s.tell (.peerError r.id r.peer)
  | _ => s

/-- A parked context stops; one that is already ending loses the write that failed (R222). -/
def State.stopParked (s : State) (n code : Nat) : State :=
  let c := s.ctx n
  if c.ending.isSome then
    (s.modCtx n (fun c => { c with todo := c.todo.drop 1 })).post
      (ctxRecord n 4 (match c.todo with | w :: _ => w.1 | [] => 0#64) 0)
  else s.stopCtx n code

/-- The failure of a parked Porter command: the element at which it faulted, and the address (R203, R312). -/
def FaultEntry.cmdFail (f : FaultEntry) (c : PorterCmd) : Cause × Nat × Nat :=
  match f.addrs with
  | (elem, va) :: _ => (.translation, va.toNat, elem)
  | [] => (.translation, 0, c.elem)

/-- DELIVER: the warp's trap goes to its handler, after which the instruction is charged when it issues again (R300); an
engine's command fails; an itinerary stops with MEMORY. -/
def State.deliverAnswer (s : State) (f : FaultEntry) : State :=
  match f.what with
  | .warp w => s.answerWarp w f.token (fun s r => (if r.deferred then s else s.modW Warp.uncharge).deliver r)
  | .porter wg cmd => s.answerCmd wg cmd (fun s c => s.endCmd c (some (f.cmdFail c)))
  | .ctx n => (s.modCtx n (fun c => { c with parked := 0 })).stopParked n 4
  | _ => s.failParked f

/-- ABORT: the trap is fatal. -/
def State.abortAnswer (s : State) (f : FaultEntry) : State :=
  match f.what with
  | .warp w => s.answerWarp w f.token (fun s _ => s.fatal 4)
  | .porter wg cmd => s.answerCmd wg cmd (fun s c => (s.endCmd c (some (f.cmdFail c))).abortGrid s.g.grid 4)
  | .ctx n => (s.modCtx n (fun c => { c with parked := 0 })).stopParked n 7
  | _ => s.failParked f

/-- An answer frees its entry of the fault buffer, which a fault that waits takes; one to a cancelled or unknown token is ignored and
counted (an unknown one: DESIGN CHOICE, log 90). -/
def State.takeAnswer (s : State) (token : DWord) (k : State → FaultEntry → State) : State :=
  match s.host.faults.find? (fun f => f.token == token.toNat) with
  | none => s.modHost (fun h => { h with ignoredAnswers := h.ignoredAnswers + 1 })
  | some f =>
    let s1 := s.modHost (fun h => { h with
      faults := h.faults.filter (fun g => g.token != f.token), ignoredAnswers := h.ignoredAnswers + (if f.cancelled then 1 else 0) })
    (if f.cancelled then s1 else k s1 f).promoteFault

/-- ANSWER with REPLAY. -/
def execAnswerReplay (c : Cmd) (token : DWord) (s : State) : Host.Outcome State Fault Refusal :=
  s.quick c true (fun s => s.takeAnswer token State.replay)
/-- ANSWER with DELIVER. -/
def execAnswerDeliver (c : Cmd) (token : DWord) (s : State) : Host.Outcome State Fault Refusal :=
  s.quick c true (fun s => s.takeAnswer token State.deliverAnswer)
/-- ANSWER with ABORT. -/
def execAnswerAbort (c : Cmd) (token : DWord) (s : State) : Host.Outcome State Fault Refusal :=
  s.quick c true (fun s => s.takeAnswer token State.abortAnswer)

/-! ## Instruction and translation caches, address spaces (R136, R309, R313) -/

/-- ICINV: the instruction cache holds nothing beyond the loop buffers, which it does not reach. -/
def execIcinv (c : Cmd) (s : State) : Host.Outcome State Fault Refusal := s.quick c true (fun s => s)

/-- Whether a request was translated in an address space, as far as its receiver tells. -/
def State.reqInSpace (s : State) (space : Nat) (r : Req) : Bool :=
  match r.dest with
  | .warp w _ _ _ => (match s.findWg w.wg with | some g => g.space == space | none => true)
  | _ => true

/-- The requests and matrix entries that may hold a translation of an address space. -/
def State.inFlight (s : State) (space : Nat) : List Nat :=
  ((s.fab.reqs.filter (fun r => match r.dest with | .settle => false | _ => s.reqInSpace space r)).map (fun r => r.id))
  ++ ((s.fab.waybills.filter (fun b => !b.quarantined)).flatMap (fun b => [b.first.id, b.second.id]))
  ++ (s.allWgs.filter (fun g => g.space == space)).flatMap (fun g => g.mx.map (fun e => e.id))

/-- TLBINV: it completes once everything translated before it is done. -/
def execTlbinv (c : Cmd) (space : Nat) (base len : DWord) (s : State) : Host.Outcome State Fault Refusal :=
  s.ownerCmd c (fun s => s.valid c (decide (space < 4096)) (fun s =>
    s.pendCmd c 1 (fun p => { p with space := space, base := base.toNat, len := len.toNat, old := s.inFlight space })))

/-- Whether an invalidation has completed. -/
def State.invalidated (s : State) (p : PendCmd) : Bool :=
  p.kind == 1 && p.old.all (fun i => !((s.inFlight p.space).contains i))

/-- INVALIDATION_COMPLETE. -/
def execInvalidationComplete (inv : Nat) (s : State) : Host.Outcome State Fault Refusal :=
  match s.findCmd inv with
  | some p => go (if s.invalidated p then s.endPend p else s)
  | none => go s

/-- SPACE: the root table, aligned to its size, and the granted key ids of an address space. -/
def execSpace (c : Cmd) (num : Nat) (root keys : DWord) (s : State) : Host.Outcome State Fault Refusal :=
  s.quick c (decide (num < 4096) && memoryAddr root && root.toNat % 16384 == 0 && memoryAddr keys) (fun s =>
    s.modHost (fun h => { h with spaces := FMap.insert h.spaces num { root := root, keys := keys } }))

/-! ## Groups, contexts, grids (R209, R270, R274) -/

/-- GROUPWR: the entry's 32 bytes are copied; a quarantined entry stays so. -/
def execGroupwr (c : Cmd) (index : Nat) (entry : DWord) (s : State) : Host.Outcome State Fault Refusal :=
  let bytes := (s.physRead entry 32).getD []
  s.quick c (decide (index < 1024) && bytes.length == 32) (fun s =>
    let q := match FMap.find s.fab.groups index with | some g => g.quarantined | none => false
    s.modFab (fun f => { f with groups := FMap.insert f.groups index { bytes := bytes, quarantined := q, incomplete := 0 } }))

/-- A freed group entry: not valid, its generation advanced. -/
def Group.freed (g : Group) : Group :=
  let w := entryWord g.bytes
  let gen := (bitsNat w 29 26 + 1) % 16
  let w1 := bitsNat w 30 30 * 2 ^ 30 + gen * 2 ^ 26 + bitsNat w 25 0
  { g with bytes := leBytes 4 w1 ++ g.bytes.drop 4, quarantined := true }

/-- An entry that has not been written. -/
def Group.zero : Group := { bytes := List.replicate 32 0#8, quarantined := false, incomplete := 0 }

/-- GROUPFREE: an entry never written is freed too. -/
def execGroupfree (c : Cmd) (index : Nat) (s : State) : Host.Outcome State Fault Refusal :=
  s.quick c (decide (index < 1024)) (fun s =>
    s.modFab (fun f => { f with groups := FMap.insert f.groups index ((FMap.find f.groups index).getD Group.zero).freed }))

/-- CTXFREE: BUSY unless the context is idle; its generation advances, its per-peer state goes, and it is quarantined. -/
def execCtxfree (c : Cmd) (ctx : Nat) (s : State) : Host.Outcome State Fault Refusal :=
  s.ownerCmd c (fun s => s.valid c (decide (ctx < 64)) (fun s =>
    if (s.ctx ctx).st ≠ 0 then s.complete c stBusy
    else (s.modCtx ctx (fun x => { x with gen := x.gen + 1#4, peers := [], quarantined := true })).complete c stOk))

/-- ABORT: a grid with its descendants, or a context's itinerary, stops with ABORTED. -/
def execAbort (c : Cmd) (isCtx : Bool) (target : Word) (s : State) : Host.Outcome State Fault Refusal :=
  s.quick c (if isCtx then decide (target.toNat < 64) else (s.findGrid target).isSome) (fun s =>
    if isCtx then s.stopCtx target.toNat 7 else s.abortGrid target 4)

/-! ## Routes, link keys, drain sweeps (R324, R331, R334, R335) -/

/-- ROUTEWR: a route entry, or the non-minimal threshold at the package's own index. -/
def execRoutewr (c : Cmd) (dest : Nat) (entry : DWord) (s : State) : Host.Outcome State Fault Refusal :=
  s.quick c (decide (dest < 1024)) (fun s =>
    if dest = Config.pkgid then s.modHost (fun h => { h with threshold := entry.toNat })
    else
      let e := entry &&& 0xFFFF0FFFFF00001F#64
      s.modHost (fun h => { h with routes := FMap.put h.routes 0#64 dest e }))

/-- The keys of a direction: 0 outbound, else inbound. -/
def Link.keys (l : Link) (dir : Nat) : KeySlots := if dir = 0 then l.tx else l.rx

/-- Changes the keys of a direction. -/
def State.modKeys (s : State) (port dir : Nat) (f : KeySlots → KeySlots) : State :=
  s.modLink port (fun l => if dir = 0 then { l with tx := f l.tx } else { l with rx := f l.rx })

/-- A slot loaded with a key and its salt; its group counter starts at 0. -/
def KeySlots.load (k : KeySlots) (slot key salt : Nat) : KeySlots :=
  if slot = 0 then { k with slot0 := some key, salt0 := salt, counter0 := 0 } else { k with slot1 := some key, salt1 := salt, counter1 := 0 }

/-- KEYLOAD: 32 bytes of key, then 4 of salt; BUSY while the direction's rotation is incomplete. -/
def execKeyload (c : Cmd) (port dir slot : Nat) (buffer : DWord) (s : State) : Host.Outcome State Fault Refusal :=
  let bytes := (s.physRead buffer 36).getD []
  s.ownerCmd c (fun s => s.valid c (decide (port < 32) && decide (dir < 2) && decide (slot < 2) && bytes.length == 36) (fun s =>
    if ((s.link port).keys dir).rotating then s.complete c stBusy
    else
      let s1 := s.modKeys port dir (fun k => k.load slot (field bytes 0 32) (field bytes 32 4))
      (s1.pump port).complete c stOk))

/-- KEYROTATE: the sender uses the other slot for every group that begins afterwards; it completes with the rotation. -/
def execKeyrotate (c : Cmd) (port dir : Nat) (s : State) : Host.Outcome State Fault Refusal :=
  s.ownerCmd c (fun s => s.valid c (decide (port < 32) && decide (dir < 2)) (fun s =>
    let k := (s.link port).keys dir
    if k.rotating then s.complete c stBusy
    else if (k.use (!k.active)).isNone then s.complete c stInvalid
    else
      let s1 := (s.modKeys port dir (fun k => { k with rotating := true, active := if dir = 0 then !k.active else k.active })).pendCmd c 3
        (fun p => { p with base := 2 * port + dir })
      if (s1.link port).rotationDone then s1.pushOnce (.rotationComplete port) else s1))

/-- DRAIN: a sweep begins; the command completes when it has completed at every package. -/
def execDrain (c : Cmd) (s : State) : Host.Outcome State Fault Refusal :=
  s.ownerCmd c (fun s => s.valid c true (fun s => (s.pendCmd c 2 (fun p => p)).beginSweep))

/-- LINKMODE: the mode of groups that begin afterwards. -/
def execLinkmode (c : Cmd) (mode : Nat) (s : State) : Host.Outcome State Fault Refusal :=
  s.quick c (decide (mode < 2)) (fun s =>
    s.modHost (fun h => { h with links := h.links.map (fun (p : Nat × Link) => (p.1, { p.2 with skid := mode == 1 })) }))

/-! ## Peers and agents (R255, R338, R341) -/

/-- PEERWR: `HUNG` is read-only. -/
def execPeerwr (c : Cmd) (peer : Nat) (entry : DWord) (s : State) : Host.Outcome State Fault Refusal :=
  s.quick c (decide (peer < 1024)) (fun s =>
    let hung := bitsNat (s.peerEntry peer) 61 61
    s.setPeer peer ((entry &&& 0xDFFFFFFFFFFFFC00#64).toNat + hung * 2 ^ 61))

/-- PEERRESET: the peer's incarnation advances and `HUNG` is cleared. -/
def execPeerreset (c : Cmd) (peer : Nat) (s : State) : Host.Outcome State Fault Refusal :=
  s.quick c (decide (peer < 1024)) (fun s =>
    let s1 := s.setPeer peer ((BitVec.ofNat 64 (s.peerEntry peer) &&& 0xDFFFFFFFFFFFFFFF#64).toNat)
    s1.modHost (fun h => { h with
      incarnations := FMap.put h.incarnations 0#8 (1024 + peer) (FMap.get h.incarnations 0#8 (1024 + peer) + 1)
      peerTimeouts := FMap.put h.peerTimeouts 0 peer 0 }))

/-- DECLARE. -/
def execDeclare (c : Cmd) (agent : Incarnate) (s : State) : Host.Outcome State Fault Refusal :=
  let ok := match agent with | .package n => decide (n < 993) | .companion => true | .peer n => decide (n < 1024)
  s.quick c ok (fun s => s.declareDead (agentKey agent))

/-! ## Counters, timeouts, the fault queue (R275, R311, R345, R359) -/

/-- The waybill store of a waystation as the host path reads it: 0–15 the tiles', 16 the package's, 17–28 the home waystations'. Each waybill
stands at 24 times its index, in the layout of R264; one that is not in use reads zero. That READCTR reads the stores, under these
numbers after those of the counter sets, is a DESIGN CHOICE (log 97): R264 grants the owner the read through the host command path and names
no command. -/
def State.waybillStore (s : State) (n : Nat) : List Byte :=
  let kind := if n < 16 then 1 else if n = 16 then 2 else 3
  let unit := if n < 16 then n else if n = 16 then 0 else n - 17
  let mine := s.waybillsOf { kind := BitVec.ofNat 2 kind, pkg := BitVec.ofNat 10 Config.pkgid, unit := BitVec.ofNat 14 unit, index := 0 }
  (List.range (waybillCap kind)).flatMap (fun i =>
    match mine.find? (fun b => b.ticket.index.toNat == i) with
    | some b => leBytes 24 b.layout.toNat
    | none => List.replicate 24 0#8)

/-- The bytes of a counter set: 0 the Caravan counters and 1 the soft-error counters of the 12 stacks and 16 tiles, in 32-bit words; 2 the
states and generations of the 64 contexts, one byte each (R209). -/
def State.counterSet (s : State) (set : Nat) : List Byte :=
  match set with
  | 0 => (List.range 9).flatMap (fun i => leBytes 4 (FMap.get s.fab.counters 0#32 i).toNat)
  | 1 => (List.range 12).flatMap (fun i => leBytes 4 (FMap.get s.pkg.stackErrors 0#32 i).toNat)
      ++ (List.range 16).flatMap (fun i => leBytes 4 (FMap.get s.pkg.tileErrors 0#32 i).toNat)
  | 2 => (List.range 64).map (fun i => BitVec.ofNat 8 ((s.ctx i).state * 16 + (s.ctx i).gen.toNat))
  | n => s.waybillStore (n - 3)

/-- Clears a counter set. -/
def State.clearSet (s : State) (set : Nat) : State :=
  match set with
  | 0 => s.modFab (fun f => { f with counters := [] })
  | 1 => { s with pkg := { s.pkg with stackErrors := [], tileErrors := [] } }
  | _ => s

/-- READCTR: without clear, any master may read the counters; the waybill stores are the owner's. -/
def execReadctr (c : Cmd) (set : Nat) (dest : DWord) (clear : Bool) (s : State) : Host.Outcome State Fault Refusal :=
  let run := fun (s : State) => s.valid c (decide (set < 32) && memoryAddr dest) (fun s =>
    let s1 := s.physWrite dest (s.counterSet set)
    (if clear then s1.clearSet set else s1).complete c stOk)
  if clear || decide (3 ≤ set) then s.ownerCmd c run else go (run (s.consumeOld c))

/-- FQREG: the ring of the host fault queue, in records; records that waited go on. -/
def execFqreg (c : Cmd) (base : DWord) (size : Nat) (s : State) : Host.Outcome State Fault Refusal :=
  s.quick c (memoryAddr base && base.toNat % 64 == 0 && decide (1 ≤ size)) (fun s =>
    let s1 := s.modHost (fun h => { h with fqBase := base, fqSize := size, fqWrite := 0, fqRead := 0 })
    if s1.host.fqBuffer.isEmpty then s1 else s1.pushOnce .hostFaultRecordPost)

/-- TMOSET: 0 leaves a timeout as it is. -/
def execTmoset (c : Cmd) (recallUs replyUs : Nat) (s : State) : Host.Outcome State Fault Refusal :=
  s.quick c (decide (recallUs ≤ 1000000) && decide (replyUs ≤ 1000000)) (fun s =>
    s.modHost (fun h => { h with
      recallTmo := if recallUs = 0 then h.recallTmo else recallUs, replyTmo := if replyUs = 0 then h.replyTmo else replyUs }))

/-! ## Command rings (R344, R345, R351) -/

/-- The agent that an operand of DECLARE names: a package below 993, 1,023 the companion processor, 1,024 + n peer n. -/
def declaredAgent (n : Nat) : Incarnate :=
  if n = domCommon then .companion else if 1024 ≤ n then .peer (n - 1024) else .package n

/-- A command as its opcode and its operands name it; none for an opcode that R345 does not list, or an ANSWER that is none of its three. The
operands stand as 64-bit words from 0x08 on, in the order of R345's table; the second of ABORT is 1 for a context (DESIGN CHOICE, log 108:
R345 gives no layout of the operands). -/
def commandOf (c : Cmd) (op : Nat) (x : Nat → Nat) : Option Instr :=
  let d := fun (i : Nat) => BitVec.ofNat 64 (x i)
  let w := fun (i : Nat) => BitVec.ofNat 32 (x i)
  match op with
  | 0x01 => some (.regq c (x 0) (d 1) (x 2))
  | 0x02 => some (.vacate c (w 0) (d 1))
  | 0x03 => some (.returnCores c (w 0) (d 1))
  | 0x04 => (match x 1 with
    | 0 => some (.answerReplay c (d 0)) | 1 => some (.answerDeliver c (d 0)) | 2 => some (.answerAbort c (d 0)) | _ => none)
  | 0x05 => some (.icinv c)
  | 0x06 => some (.tlbinv c (x 0) (d 1) (d 2))
  | 0x07 => some (.space c (x 0) (d 1) (d 2))
  | 0x08 => some (.groupwr c (x 0) (d 1))
  | 0x09 => some (.groupfree c (x 0))
  | 0x0A => some (.ctxfree c (x 0))
  | 0x0B => some (.routewr c (x 0) (d 1))
  | 0x0C => some (.keyload c (x 0) (x 1) (x 2) (d 3))
  | 0x0D => some (.keyrotate c (x 0) (x 1))
  | 0x0E => some (.drain c)
  | 0x0F => some (.abort c (x 1 == 1) (w 0))
  | 0x10 => some (.peerwr c (x 0) (d 1))
  | 0x11 => some (.peerreset c (x 0))
  | 0x12 => some (.readctr c (x 0) (d 1) (x 2 != 0))
  | 0x13 => some (.fqreg c (d 0) (x 1))
  | 0x14 => some (.declare c (declaredAgent (x 0)))
  | 0x15 => some (.tmoset c (x 0) (x 1))
  | 0x16 => some (.linkmode c (x 0))
  | _ => none

/-- The common part of the 64 bytes of a command. -/
def commandCmd (m : Nat) (b : List Byte) : Cmd :=
  { master := m, tag := BitVec.ofNat 32 (field b 4 4), compl := BitVec.ofNat 64 (field b 0x38 8) }

/-- The 64 bytes of a command of a master's ring. The bytes that R345 gives as zero must be zero, as in an opcode of 32 bits. -/
def decodeCommand (m : Nat) (b : List Byte) : Option Instr := commandOf (commandCmd m b) (field b 0 4) (fun i => field b (8 + 8 * i) 8)

/-- The number under which the reads of a ring stand. -/
def ringAgent (m : Nat) : Nat := 2 ^ 60 + m

/-- Whether the next command of a ring can be read: it holds one, commands are accepted, and the one before has completed. -/
def State.ringDue (s : State) (m : Nat) : Bool :=
  s.pkg.stage == 6 && decide (FMap.get s.host.cmdRead 0 m < FMap.get s.host.cmdWrite 0 m)
    && !(s.events.any (fun e => e.ring == some m)) && !(s.host.cmds.any (fun p => p.cmd.master == m))
    && s.fab.asks.all (fun a => a.agent != ringAgent m || a.ans.isSome)

/-- The next command of a ring is read in package DRAM and comes under way; an unlisted one completes with INVALID. One whose bytes cannot be
read is passed over. -/
def State.readRing (s : State) (m : Nat) : State :=
  let i := FMap.get s.host.cmdRead 0 m
  match physKey (ringBase m + BitVec.ofNat 64 (64 * (i % ringSize))) with
  | none => s
  | some k =>
    match s.homeGet pkgParty (ringAgent m) k 64 with
    | .wait s1 => s1
    | got =>
      let s1 := (s.modHost (fun h => { h with cmdRead := FMap.put h.cmdRead 0 m (i + 1) })).asksEnd (ringAgent m)
      match got with
      | .ok bs =>
        (match decodeCommand m bs with
         | some e => s1.push e
         | none =>
           let c := commandCmd m bs
           if s1.pkg.owner = some m ∨ 0 < FMap.get s1.pkg.oldQueue 0 m then (s1.consumeOld c).complete c stInvalid
           else s1.complete c stNotOwner)
      | _ => s1

end Sys2Proof.Machine
end

