-- ==== Sys2Proof/Machine/Lane.lean ====
section
/-! DEFINITION. Lane exchange, votes and reductions over the lanes of a warp (R76 to R78, R105 to R109). -/

namespace Sys2Proof.Machine

/-- The lane LXCH reads for a lane (R105). -/
def lxchLane (f n i : Nat) : Nat :=
  match f with
  | 0 => n % 32
  | 1 => if n ≤ i then i - n else i
  | 2 => if i + n ≤ 31 then i + n else i
  | _ => i ^^^ (n % 32)

/-- LXCH: the source lane is read whether or not it is active (R84). -/
def execLxch (o : Ops) (s : State) : Host.Outcome State Fault Refusal :=
  aluRun (.lxch o) o s (fun w0 w1 act =>
    w1.writeDest o.d act (fun l => w0.src o.ext o.a (lxchLane o.f.toNat (w0.src o.ext o.b l).toNat l)))

/-- A vote over the active lanes, written to every active lane (R106). -/
def voteRun (i : Instr) (o : Ops) (s : State) (f : List Bool → Bool) : Host.Outcome State Fault Refusal :=
  aluRun i o s (fun w0 w1 act =>
    let v := f (act.toList.map (fun l => w0.pred (o.a.toNat % 8) l))
    w1.writePred o.d act (fun _ => v))

/-- LANES.ALL. -/
def execLanesAll (o : Ops) (s : State) : Host.Outcome State Fault Refusal := voteRun (.lanesAll o) o s (fun ps => ps.all id)
/-- LANES.ANY. -/
def execLanesAny (o : Ops) (s : State) : Host.Outcome State Fault Refusal := voteRun (.lanesAny o) o s (fun ps => ps.any id)
/-- LANES.SAME. -/
def execLanesSame (o : Ops) (s : State) : Host.Outcome State Fault Refusal :=
  voteRun (.lanesSame o) o s (fun ps => ps.all id || !(ps.any id))

/-- LANES.MASK. -/
def execLanesMask (o : Ops) (s : State) : Host.Outcome State Fault Refusal :=
  aluRun (.lanesMask o) o s (fun w0 w1 act =>
    let m := maskOf (fun l => act.getLsbD l && w0.pred (o.a.toNat % 8) l)
    w1.writeDest o.d act (fun _ => m))

/-- LANES.FIRST. -/
def execLanesFirst (o : Ops) (s : State) : Host.Outcome State Fault Refusal :=
  aluRun (.lanesFirst o) o s (fun _ w1 act => w1.writePred o.d act (fun l => act.lowest == some l))

/-- A lane operation with the conditions it raises. -/
abbrev LaneOp := Nat → Nat → Flagged Nat

/-- A lane operation that raises nothing. -/
def quiet (f : Nat → Nat → Nat) : LaneOp := fun a b => { val := f a b, flags := 0#32 }

/-- The operation and identity of a WRED function code (R76). -/
def wredOp (f : Nat) : LaneOp × Nat :=
  match f with
  | 0 => (quiet (atomicOp 0 false), 0)
  | 1 => (fadd fmtF32 .rn, 0x80000000)
  | 2 => (quiet (atomicOp 6 false), 0x7FFFFFFF)
  | 3 => (quiet (atomicOp 7 false), 0xFFFFFFFF)
  | 4 => (quiet (atomicOp 4 false), 0x80000000)
  | 5 => (quiet (atomicOp 5 false), 0)
  | 6 => (quiet (atomicOp 1 false), 0xFFFFFFFF)
  | 7 => (quiet (atomicOp 2 false), 0)
  | 8 => (quiet (atomicOp 3 false), 0)
  | _ => (fmax fmtF32, 0xFF800000)

/-- The active lanes' values of A, with the identity elsewhere. -/
def laneValues (w : Warp) (o : Ops) (act : LaneMask) (ident : Nat) : List Nat :=
  lanes.map (fun l => if act.getLsbD l then (w.src o.ext o.a l).toNat else ident)

/-- One level of the pairwise tree. -/
def pairUp (f : LaneOp) : List Nat → List Nat × Word
  | a :: b :: rest =>
    let r := f a b
    let (xs, fl) := pairUp f rest
    (r.val :: xs, r.flags ||| fl)
  | xs => (xs, 0#32)

/-- The pairwise tree of R76 over a number of levels. -/
def treeReduce (f : LaneOp) : Nat → List Nat → Word → Nat × Word
  | 0, xs, fl => (xs.headD 0, fl)
  | n + 1, xs, fl =>
    let (ys, g) := pairUp f xs
    treeReduce f n ys (fl ||| g)

/-- WRED. -/
def execWred (o : Ops) (s : State) : Host.Outcome State Fault Refusal :=
  aluRun (.wred o) o s (fun w0 w1 act =>
    if act = 0#32 then w1
    else
      let (f, ident) := wredOp o.f.toNat
      let (x, fl) := treeReduce f 5 (laneValues w0 o act ident) 0#32
      (w1.writeDest o.d act (fun _ => BitVec.ofNat 32 x)).addFlags fl)

/-- One step of the shifted tree of R77 at distance d, each value with the conditions of the steps that it has come from. A lane below d keeps
its value, a NaN operand bit for bit, as the pseudocode of R77 copies it (DESIGN CHOICE, log 31: R65 makes arithmetic NaN results
canonical). -/
def scanStep (f : LaneOp) (d : Nat) (u : List (Flagged Nat)) : List (Flagged Nat) :=
  let at_ := fun (i : Nat) => u.getD i { val := 0, flags := 0#32 }
  lanes.map (fun i =>
    if i < d then at_ i
    else
      let r := f (at_ (i - d)).val (at_ i).val
      { r with flags := r.flags ||| (at_ (i - d)).flags ||| (at_ i).flags })

/-- The five steps of R77. -/
def scanTree (f : LaneOp) (t : List (Flagged Nat)) : List (Flagged Nat) := [1, 2, 4, 8, 16].foldl (fun u d => scanStep f d u) t

/-- What SCAN gives each lane (R77, R108), and the conditions it raises (R82): an active lane raises those of its own operand and of every
step of the tree that its result comes from, and no others (DESIGN CHOICE, log 103). -/
def scanRun (f : LaneOp) (ident : Nat) (excl : Bool) (act : LaneMask) (t : List Nat) : (Nat → Nat) × Word :=
  let own := fun (i : Nat) => if act.getLsbD i then (f (t.getD i 0) ident).flags else 0#32
  let r := scanTree f (lanes.map (fun i => { val := t.getD i 0, flags := own i }))
  let at_ := fun (i : Nat) => r.getD i { val := 0, flags := 0#32 }
  let got := fun (l : Nat) => if !excl then at_ l else if l = 0 then { val := 0, flags := 0#32 } else at_ (l - 1)
  (fun l => (got l).val, orFlags (act.toList.map (fun l => own l ||| (got l).flags)))

/-- SCAN: function codes 0, 1 integer, 2, 3 float; odd ones exclusive. -/
def execScan (o : Ops) (s : State) : Host.Outcome State Fault Refusal :=
  aluRun (.scan o) o s (fun w0 w1 act =>
    if act = 0#32 then w1
    else
      let (f, ident) := wredOp (if o.f.toNat < 2 then 0 else 1)
      let (v, fl) := scanRun f ident (o.f.getLsbD 0) act (laneValues w0 o act ident)
      (w1.writeDest o.d act (fun l => BitVec.ofNat 32 (v l))).addFlags fl)

/-- The operation and identity of a SEGRED function code (R78). -/
def segredOp (f : Nat) : LaneOp × Nat :=
  match f with
  | 0 => wredOp 0
  | 1 => wredOp 1
  | 2 => wredOp 9
  | _ => wredOp 4

/-- The left-to-right fold of R78 over lanes: the running values, the carry-out and the conditions. The lane that starts a segment takes its
operand bit for bit, a NaN too (DESIGN CHOICE, log 31: R65 makes arithmetic NaN results canonical, R78 copies the operand). -/
def segFold (f : LaneOp) (x : Nat → Nat) (start : Nat → Bool) : List Nat → Nat → FMap Word × Nat × Word
  | [], acc => ([], acc, 0#32)
  | l :: ls, acc =>
    let r : Flagged Nat := if start l then { val := x l, flags := 0#32 } else f acc (x l)
    let (m, c, fl) := segFold f x start ls r.val
    ((l, BitVec.ofNat 32 r.val) :: m, c, r.flags ||| fl)

/-- SEGRED: start predicate in [14:12], carry-out in [11:6], carry-in in [5:0] of the extension word (R47, R109). -/
def execSegred (o : Ops) (s : State) : Host.Outcome State Fault Refusal :=
  aluRun (.segred o) o s (fun w0 w1 act =>
    if act = 0#32 then w1
    else
      let e := o.ext.toNat
      let (f, ident) := segredOp o.f.toNat
      let cin : BitVec 6 := BitVec.ofNat 6 e
      let cout : BitVec 6 := BitVec.ofNat 6 (e / 64)
      let acc0 := if cin = 61#6 then ident else (w0.usrc 0#32 cin).toNat
      let (m, c, fl) := segFold f (fun l => (w0.src o.ext o.a l).toNat) (fun l => w0.pred (bitsNat e 14 12) l) act.toList acc0
      let w2 := w1.writeDest o.d act (fun l => FMap.get m 0#32 l)
      (w2.writeDest cout act (fun _ => BitVec.ofNat 32 c)).addFlags fl)

end Sys2Proof.Machine
end

