-- ==== Sys2Proof/Machine/Package.lean ====
section
/-! DEFINITION. The package: bring-up, ownership, the management mailbox, region publication, power and thermal limits, encryption
keys, attestation and soft errors (R350 to R360). -/

namespace Sys2Proof.Machine

/-! ## Bring-up (R350 to R352) -/

/-- The links after training: every port that is cabled to a neighbour and has not failed; the others stay down (R323, R350). -/
def trainedLinks (failedPorts : List Nat) : FMap Link :=
  (List.range 32).foldl (fun m p => if failedPorts.contains p || !(Config.cabled p) then m else FMap.put m Link.down p { Link.down with up := true }) []

/-- The stages that follow power-good or a package reset: with a bad signature the package stays in stage 2 and reports 0xE1;
else its DRAM is zero and unpoisoned, its links are trained, and the claim window opens. -/
def State.bringUp (s : State) (signatureOk : Bool) (failedStacks failedPorts : List Nat) : State :=
  let base : State := { State.reset with
    events := s.events.filter Instr.isOutside, order := s.order, outbox := s.outbox, nextId := s.nextId, freeCount := s.freeCount
    mem := s.mem.filter (fun c => !(ownDram c.1)), poison := s.poison.filter (fun k => !(ownDram (32 * k)))
    sealed := s.sealed.filter (fun p => !(ownDram (32 * p.1))) }
  if !signatureOk then { base with mem := s.mem, sealed := s.sealed, poison := s.poison, pkg := { Package.empty with stage := 2, mailbox := 0xE1 } }
  else
    let s1 : State := { base with
      pkg := { Package.empty with stage := 4, windowOpen := true, failedStacks := failedStacks, failedPorts := failedPorts }
      host := { HostPaths.empty with links := trainedLinks failedPorts } }
    let s2 := failedStacks.foldl (fun (s : State) n => s.tell (.trainingFailure false n)) s1
    failedPorts.foldl (fun (s : State) n => s.tell (.trainingFailure true n)) s2

/-- POWER_GOOD. -/
def execPowerGood (signatureOk : Bool) (failedStacks failedPorts : List Nat) (s : State) : Host.Outcome State Fault Refusal :=
  go (s.bringUp signatureOk failedStacks failedPorts)

/-- PACKAGE_RESET: every stage is repeated. -/
def execPackageReset (signatureOk : Bool) (failedStacks failedPorts : List Nat) (s : State) : Host.Outcome State Fault Refusal :=
  go (s.bringUp signatureOk failedStacks failedPorts)

/-- The bring-up record (R351). -/
def bringUpRecord : List Byte :=
  (List.range 3).flatMap (fun m => leBytes 8 (ringBase m).toNat) ++ leBytes 4 ringSize ++ leBytes 4 31 ++ List.replicate 32 0#8
  ++ Firmware.kinds.zipIdx.flatMap (fun (k, i) => leBytes 8 (k.1 + 256 * k.2) ++ leBytes 8 (Firmware.itinerary i))

/-- The words of the firmware itineraries, where the bring-up record says they lie (R224, R351): they stand there from the election on, since
training has zeroed the memory before (DESIGN CHOICE, log 11: the spec does not say when they are placed). -/
def firmwareCells : List Host.Cell :=
  Firmware.kinds.zipIdx.flatMap (fun (k, i) =>
    match physKey (BitVec.ofNat 64 (Firmware.itinerary i)) with
    | some key => cellsAt key (Firmware.bytes (Firmware.code k.1 k.2))
    | none => [])

/-- The better of two claims: the higher priority, then the lower master. -/
def betterClaim (a : Option (Nat × Nat × DWord)) (b : Nat × Nat × DWord) : Option (Nat × Nat × DWord) :=
  match a with
  | none => some b
  | some x => if x.2.1 < b.2.1 ∨ (x.2.1 = b.2.1 ∧ b.1 < x.1) then some b else some x

/-- Answers a mailbox message. -/
def State.answerMail (s : State) (m status : Nat) : State := s.tell (.mailboxAnswer m status)

/-- The election: the firmware's itineraries stand in memory, the winner's bring-up record is written, and every claimant is answered and learns its ring. -/
def State.elect (s : State) : State :=
  match s.pkg.claims.foldl betterClaim none with
  | none => s
  | some w =>
    let s1 := (s.storeCells firmwareCells).physWrite w.2.2 bringUpRecord
    let s2 := s.pkg.claims.foldl (fun (s : State) c =>
      (s.tell (.ringBase c.1 (ringBase c.1))).answerMail c.1 (if c.1 = w.1 then 0 else 1)) s1
    { s2 with pkg := { s2.pkg with owner := some w.1, stage := 6, claims := [], windowOpen := false } }

/-- CLAIM_WINDOW_CLOSE: without a claim the window stays open until the first, which wins. -/
def execClaimWindowClose (s : State) : Host.Outcome State Fault Refusal :=
  if s.pkg.stage ≠ 4 then go s else go ({ s with pkg := { s.pkg with windowOpen := false } }).elect

/-! ## The mailbox: ownership (R351 to R353) -/

/-- A mailbox message: while the package reports a failure, that is its answer (R350, R356). -/
def State.mail (s : State) (m : Nat) (k : State → State) : Host.Outcome State Fault Refusal :=
  go (if s.pkg.mailbox ≠ 0 then s.answerMail m s.pkg.mailbox else k s)

/-- A mailbox message of the owner. -/
def State.ownerMail (s : State) (m : Nat) (k : State → State) : Host.Outcome State Fault Refusal :=
  s.mail m (fun s => if s.pkg.owner = some m then k s else s.answerMail m 1)

/-- Whether the address that a CLAIM names may hold the bring-up record. -/
def claimAddrOk (a : DWord) : Bool := a.toNat % 1024 == 0 && ownOrCompanion a

/-- CLAIM. -/
def execClaim (m : Nat) (prio : Byte) (a : DWord) (s : State) : Host.Outcome State Fault Refusal :=
  s.mail m (fun s =>
    if !(claimAddrOk a) then s.answerMail m 3
    else if s.pkg.stage ≠ 4 then s.answerMail m 2
    else
      let s1 := { s with pkg := { s.pkg with claims := s.pkg.claims ++ [(m, prio.toNat, a)] } }
      if s.pkg.windowOpen then s1 else s1.elect)

/-- HANDOVER: the owner names the pending owner. -/
def execHandover (m target : Nat) (s : State) : Host.Outcome State Fault Refusal :=
  s.ownerMail m (fun s =>
    if 3 ≤ target then s.answerMail m 3
    else ({ s with pkg := { s.pkg with pendingOwner := some target, handoverAt := s.clock.toNat } }).answerMail m 0)

/-- ACCEPT: ownership passes; the commands that the old owner has queued complete under it. -/
def execAccept (m : Nat) (s : State) : Host.Outcome State Fault Refusal :=
  s.mail m (fun s =>
    if s.pkg.pendingOwner = some m then
      let old := match s.pkg.owner with
        | some o => FMap.put s.pkg.oldQueue 0 o ((s.events.filter (fun e => e.ring == some o)).length
            + (FMap.get s.host.cmdWrite 0 o - FMap.get s.host.cmdRead 0 o))
        | none => s.pkg.oldQueue
      ({ s with pkg := { s.pkg with owner := some m, pendingOwner := none, oldQueue := FMap.erase old m } }).answerMail m 0
    else s.answerMail m 1)

/-- HANDOVER_EXPIRY. -/
def execHandoverExpiry (s : State) : Host.Outcome State Fault Refusal :=
  go { s with pkg := { s.pkg with pendingOwner := none } }

/-! ## Regions (R354) -/

/-- REGION: the owner declares a region and its publisher. The pod manager, master 2, replicates the pod's region table with the same message
(R354; DESIGN CHOICE, log 107: R354 names no other way in for it). -/
def execRegion (m num : Nat) (base len : DWord) (pubIsPeer : Bool) (pub : Nat) (verAddr : DWord) (s : State) :
    Host.Outcome State Fault Refusal :=
  s.mail m (fun s =>
    if s.pkg.owner ≠ some m ∧ m ≠ 2 then s.answerMail m 1
    else if 256 ≤ num ∨ (if pubIsPeer then 1024 ≤ pub else 3 ≤ pub) ∨ memoryAddr verAddr = false then s.answerMail m 3
    else
      let r : Region := { base := base, len := len, pubIsPeer := pubIsPeer, pub := pub, verAddr := verAddr, version := 0 }
      ({ s with pkg := { s.pkg with regions := FMap.insert s.pkg.regions num r } }).answerMail m 0)

/-- PUBLISH: the answer follows the write of the version word, performed at its home; a version word that cannot be written is answered INVALID
(DESIGN CHOICE, log 107). -/
def execPublish (fromPeer : Bool) (sender num : Nat) (v : Word) (s : State) : Host.Outcome State Fault Refusal :=
  let answer := fun (s : State) (status : Nat) => s.tell (.publishAnswer fromPeer sender status)
  if s.pkg.mailbox ≠ 0 then go (answer s s.pkg.mailbox)
  else
    match FMap.find s.pkg.regions num with
    | none => go (answer s 3)
    | some r =>
      if r.pubIsPeer ≠ fromPeer ∨ r.pub ≠ sender then go (answer s 1)
      else if v.toNat ≤ r.version then go (answer s 4)
      else
        let done := fun (s : State) => { s with pkg := { s.pkg with regions := FMap.insert s.pkg.regions num { r with version := v.toNat } } }
        match physKey r.verAddr with
        | none => go (answer (done s) 3)
        | some k =>
          match s.homePut pkgParty ctlAgent (cellsAt k (leBytes 8 v.toNat)) with
          | .ok s1 => go { (answer (done s1) 0) with acting := ctlAgent }
          | .fail s1 _ => go { (answer (done s1) 3) with acting := ctlAgent }
          | .wait s1 => go { s1.requeue (.publish fromPeer sender num v) with acting := ctlAgent }

/-! ## Keys and attestation (R357, R358) -/

/-- KEYSET: BUSY for a key id that any space grants. -/
def execKeyset (m id : Nat) (key : Nat) (s : State) : Host.Outcome State Fault Refusal :=
  s.ownerMail m (fun s =>
    if id = 0 ∨ 1024 ≤ id then s.answerMail m 3
    else if s.host.spaces.any (fun p => keyGranted s p.2 id) then s.answerMail m 2
    else ({ s with pkg := { s.pkg with keys := FMap.insert s.pkg.keys id key } }).answerMail m 0)

/-- The part number HS4-4096-432 in ASCII. -/
def partNumber : Nat := leNat [72#8, 83#8, 52#8, 45#8, 52#8, 48#8, 57#8, 54#8, 45#8, 52#8, 51#8, 50#8]

/-- The count of fenced sub-arrays. -/
def State.fencedCount (s : State) : Nat :=
  s.pkg.pairs.foldl (fun n p => n + ((List.range 8).filter (fun i => p.2.fenced.getLsbD i)).length) 0

/-- ATTEST: the report: nonce, part number, fuse serial, firmware hash, owner, fenced sub-arrays; and its signature. -/
def execAttest (m : Nat) (nonce : Nat) (s : State) : Host.Outcome State Fault Refusal :=
  s.mail m (fun s =>
    let words := [nonce, partNumber, Config.fuseSerial, Config.firmwareHash, (match s.pkg.owner with | some o => o | none => 255), s.fencedCount]
    (s.tell (.report m words (Config.attestSignature words))).answerMail m 0)

/-! ## Power and temperature (R186, R201, R355, R356) -/

/-- SETPOWER. -/
def execSetpower (m tile watts : Nat) (s : State) : Host.Outcome State Fault Refusal :=
  s.ownerMail m (fun s =>
    if 16 ≤ tile ∨ watts < 150 ∨ 300 < watts then s.answerMail m 3
    else (s.modGov tile (fun g => { g with cap := watts })).answerMail m 0)

/-- SETCLOVE: in force from each pair's next pattern. -/
def execSetclove (m steps : Nat) (s : State) : Host.Outcome State Fault Refusal :=
  s.ownerMail m (fun s =>
    if steps < 256 ∨ 65536 < steps then s.answerMail m 3
    else ({ s with pkg := { s.pkg with clove := steps } }).answerMail m 0)

/-- Gives the work behind a leave request its leave. -/
def State.giveLeave (s : State) (who id : Nat) : State :=
  if 2 ^ 32 ≤ who then
    let n := who - 2 ^ 32
    if (s.ctx n).id = id ∧ (s.ctx n).wait = .power then s.modCtx n (fun c => { c with wait := .none }) else s
  else
    s.mapWg who (fun g => { g with
      mx := g.mx.map (fun (e : MxEntry) => if e.id = id ∧ e.released then { e with granted := true } else e)
      porter := g.porter.map (fun (c : PorterCmd) => if c.id = id then { c with granted := true } else c) })

/-- Whether the work behind a leave request still waits for it. -/
def State.wantsLeave (s : State) (who id : Nat) : Bool :=
  if 2 ^ 32 ≤ who then (s.ctx (who - 2 ^ 32)).id == id && (s.ctx (who - 2 ^ 32)).wait == .power
  else
    match s.findWg who with
    | some g => g.mx.any (fun e => e.id == id && e.released && !e.granted) || g.porter.any (fun c => c.id == id && !c.granted)
    | none => false

/-- POWER_GRANT: the request at the head of the tile's queue is granted when the projected power fits. -/
def execPowerGrant (tile : Nat) (s : State) : Host.Outcome State Fault Refusal :=
  let g := s.gov tile
  match g.queue with
  | [] => go s
  | (who, id) :: rest =>
    if !(s.wantsLeave who id) then go (s.modGov tile (fun g => { g with queue := rest }))
    else if g.hold then go s
    else
      let (s1, n) := s.draw
      if Config.powerFits n tile g.cap then go ((s1.giveLeave who id).modGov tile (fun g => { g with queue := rest })) else go s1

/-- THERMAL_HOLD. -/
def execThermalHold (tile : Nat) (s : State) : Host.Outcome State Fault Refusal :=
  go ((s.modGov tile (fun g => { g with hold := true })).post { kind := 5, cause := 0x57, elem := tile })

/-- THERMAL_THROTTLE. -/
def execThermalThrottle (tile : Nat) (s : State) : Host.Outcome State Fault Refusal :=
  go (s.modGov tile (fun g => { g with throttled := true }))

/-- THERMAL_TRIP: power is removed, and every mailbox reports 0xE2. -/
def execThermalTrip (_tile : Nat) (s : State) : Host.Outcome State Fault Refusal :=
  go { s with pkg := { s.pkg with tripped := true, mailbox := 0xE2 } }

/-- THERMAL_RECOVERY: grants resume below 95 °C, the clock's rate below 100 °C. -/
def execThermalRecovery (tile celsius : Nat) (s : State) : Host.Outcome State Fault Refusal :=
  go (s.modGov tile (fun g => { g with hold := g.hold && decide (95 ≤ celsius), throttled := g.throttled && decide (100 ≤ celsius) }))

/-! ## Soft errors (R359) -/

/-- CORRECTED_ERROR: a per-stack or per-tile counter. -/
def execCorrectedError (onTile : Bool) (n : Nat) (s : State) : Host.Outcome State Fault Refusal :=
  let up := fun (m : FMap Word) => FMap.put m 0#32 n (FMap.get m 0#32 n + 1#32)
  go { s with pkg := if onTile then { s.pkg with tileErrors := up s.pkg.tileErrors } else { s.pkg with stackErrors := up s.pkg.stackErrors } }

/-- UNCORRECTABLE_ERROR: the sector of memory or of the scratchpad, or the accumulator tile, is poisoned, and it is reported. -/
def execUncorrectableError (site : ErrorSite) (s : State) : Host.Outcome State Fault Refusal :=
  match site with
  | .sector key =>
    go (({ s with poison := addNat (keyPlace key / 32) s.poison }).post { kind := 5, cause := 0x55, addr := BitVec.ofNat 64 (keyPa key) })
  | .tile wg acc =>
    go ((s.mapWg wg (fun g =>
      let m := FMap.get g.marks 0 acc
      { g with marks := FMap.put g.marks 0 acc (if m < 2 then m + 2 else m) })).post { kind := 5, cause := 0x55, elem := acc })
  | .pad wg off =>
    -- a scratchpad sector has no physical address: the record gives its address in the aperture (DESIGN CHOICE, log 106)
    go ((s.mapWg wg (fun g => { g with padPoison := addNat (off / 32) g.padPoison })).post
      { kind := 5, cause := 0x55, addr := BitVec.ofNat 64 (apertureBase + off) })

end Sys2Proof.Machine
end

