-- ==== Sys2Proof/Machine/Dispatch.lean ====
section
/-! DEFINITION. The meaning of every step of the part: one arm per constructor. -/

namespace Sys2Proof.Machine

def exec (i : Instr) (s : State) : Host.Outcome State Fault Refusal :=
  match i with
  | .clauseIssue h => Sys2Proof.Machine.execClauseIssue h s
  | .iadd o => Sys2Proof.Machine.execIadd o s
  | .isub o => Sys2Proof.Machine.execIsub o s
  | .imul o => Sys2Proof.Machine.execImul o s
  | .imac o => Sys2Proof.Machine.execImac o s
  | .imin o => Sys2Proof.Machine.execImin o s
  | .imax o => Sys2Proof.Machine.execImax o s
  | .iabs o => Sys2Proof.Machine.execIabs o s
  | .ineg o => Sys2Proof.Machine.execIneg o s
  | .andOp o => Sys2Proof.Machine.execAndOp o s
  | .orOp o => Sys2Proof.Machine.execOrOp o s
  | .xorOp o => Sys2Proof.Machine.execXorOp o s
  | .andnOp o => Sys2Proof.Machine.execAndnOp o s
  | .ornOp o => Sys2Proof.Machine.execOrnOp o s
  | .notOp o => Sys2Proof.Machine.execNotOp o s
  | .shl o => Sys2Proof.Machine.execShl o s
  | .shr o => Sys2Proof.Machine.execShr o s
  | .sar o => Sys2Proof.Machine.execSar o s
  | .rol o => Sys2Proof.Machine.execRol o s
  | .ones o => Sys2Proof.Machine.execOnes o s
  | .clz o => Sys2Proof.Machine.execClz o s
  | .ctz o => Sys2Proof.Machine.execCtz o s
  | .bitrev o => Sys2Proof.Machine.execBitrev o s
  | .bfx o => Sys2Proof.Machine.execBfx o s
  | .bfi o => Sys2Proof.Machine.execBfi o s
  | .icmp o => Sys2Proof.Machine.execIcmp o s
  | .sel o => Sys2Proof.Machine.execSel o s
  | .mov o => Sys2Proof.Machine.execMov o s
  | .movs o => Sys2Proof.Machine.execMovs o s
  | .lea o => Sys2Proof.Machine.execLea o s
  | .plog o => Sys2Proof.Machine.execPlog o s
  | .fadd o => Sys2Proof.Machine.execFadd o s
  | .fmul o => Sys2Proof.Machine.execFmul o s
  | .fma o => Sys2Proof.Machine.execFma o s
  | .fmin o => Sys2Proof.Machine.execFmin o s
  | .fmax o => Sys2Proof.Machine.execFmax o s
  | .famax o => Sys2Proof.Machine.execFamax o s
  | .fcmp o => Sys2Proof.Machine.execFcmp o s
  | .fabs o => Sys2Proof.Machine.execFabs o s
  | .fneg o => Sys2Proof.Machine.execFneg o s
  | .fcopys o => Sys2Proof.Machine.execFcopys o s
  | .cvt o => Sys2Proof.Machine.execCvt o s
  | .rcp o => Sys2Proof.Machine.execRcp o s
  | .rsq o => Sys2Proof.Machine.execRsq o s
  | .sqrt o => Sys2Proof.Machine.execSqrt o s
  | .exp2 o => Sys2Proof.Machine.execExp2 o s
  | .log2 o => Sys2Proof.Machine.execLog2 o s
  | .sin o => Sys2Proof.Machine.execSin o s
  | .cos o => Sys2Proof.Machine.execCos o s
  | .tanh o => Sys2Proof.Machine.execTanh o s
  | .qscale o => Sys2Proof.Machine.execQscale o s
  | .qpack o => Sys2Proof.Machine.execQpack o s
  | .qunpk o => Sys2Proof.Machine.execQunpk o s
  | .lxch o => Sys2Proof.Machine.execLxch o s
  | .lanesAll o => Sys2Proof.Machine.execLanesAll o s
  | .lanesAny o => Sys2Proof.Machine.execLanesAny o s
  | .lanesSame o => Sys2Proof.Machine.execLanesSame o s
  | .lanesMask o => Sys2Proof.Machine.execLanesMask o s
  | .lanesFirst o => Sys2Proof.Machine.execLanesFirst o s
  | .wred o => Sys2Proof.Machine.execWred o s
  | .scan o => Sys2Proof.Machine.execScan o s
  | .segred o => Sys2Proof.Machine.execSegred o s
  | .ld o => Sys2Proof.Machine.execLd o s
  | .st o => Sys2Proof.Machine.execSt o s
  | .atom o => Sys2Proof.Machine.execAtom o s
  | .red o => Sys2Proof.Machine.execRed o s
  | .cas o => Sys2Proof.Machine.execCas o s
  | .pref o => Sys2Proof.Machine.execPref o s
  | .stashMap o => Sys2Proof.Machine.execStashMap o s
  | .stashUnmap o => Sys2Proof.Machine.execStashUnmap o s
  | .stashFlush o => Sys2Proof.Machine.execStashFlush o s
  | .stashInv o => Sys2Proof.Machine.execStashInv o s
  | .stashClean o => Sys2Proof.Machine.execStashClean o s
  | .waita o => Sys2Proof.Machine.execWaita o s
  | .fence o => Sys2Proof.Machine.execFence o s
  | .pfence o => Sys2Proof.Machine.execPfence o s
  | .qfence o => Sys2Proof.Machine.execQfence o s
  | .barArrive o => Sys2Proof.Machine.execBarArrive o s
  | .barSync o => Sys2Proof.Machine.execBarSync o s
  | .barSyncPath o => Sys2Proof.Machine.execBarSyncPath o s
  | .ringw o => Sys2Proof.Machine.execRingw o s
  | .ringwCfg o => Sys2Proof.Machine.execRingwCfg o s
  | .ringa o => Sys2Proof.Machine.execRinga o s
  | .ringaComplete w => Sys2Proof.Machine.execRingaComplete w s
  | .mmaBf16 o => Sys2Proof.Machine.execMmaBf16 o s
  | .mmaF16 o => Sys2Proof.Machine.execMmaF16 o s
  | .mmaNi o => Sys2Proof.Machine.execMmaNi o s
  | .accz o => Sys2Proof.Machine.execAccz o s
  | .accld o => Sys2Proof.Machine.execAccld o s
  | .accst o => Sys2Proof.Machine.execAccst o s
  | .mmaRelease wg => Sys2Proof.Machine.execMmaRelease wg s
  | .mmaStep pair => Sys2Proof.Machine.execMmaStep pair s
  | .accTurn wg => Sys2Proof.Machine.execAccTurn wg s
  | .clovePattern pair failed => Sys2Proof.Machine.execClovePattern pair failed s
  | .tcopy o => Sys2Proof.Machine.execTcopy o s
  | .tgath o => Sys2Proof.Machine.execTgath o s
  | .tscat o => Sys2Proof.Machine.execTscat o s
  | .twalk o => Sys2Proof.Machine.execTwalk o s
  | .itin o => Sys2Proof.Machine.execItin o s
  | .porterCommandStart wg queue => Sys2Proof.Machine.execPorterCommandStart wg queue s
  | .porterCommandComplete wg queue => Sys2Proof.Machine.execPorterCommandComplete wg queue s
  | .braLane o => Sys2Proof.Machine.execBraLane o s
  | .braLead o => Sys2Proof.Machine.execBraLead o s
  | .braSplit o => Sys2Proof.Machine.execBraSplit o s
  | .jmpx o => Sys2Proof.Machine.execJmpx o s
  | .call o => Sys2Proof.Machine.execCall o s
  | .callx o => Sys2Proof.Machine.execCallx o s
  | .ret o => Sys2Proof.Machine.execRet o s
  | .lpad o => Sys2Proof.Machine.execLpad o s
  | .exit o => Sys2Proof.Machine.execExit o s
  | .yieldOp o => Sys2Proof.Machine.execYieldOp o s
  | .nop o => Sys2Proof.Machine.execNop o s
  | .macroRun o => Sys2Proof.Machine.execMacroRun o s
  | .launch o => Sys2Proof.Machine.execLaunch o s
  | .waitkids o => Sys2Proof.Machine.execWaitkids o s
  | .tfence o => Sys2Proof.Machine.execTfence o s
  | .isync o => Sys2Proof.Machine.execIsync o s
  | .trap o => Sys2Proof.Machine.execTrap o s
  | .bkpt o => Sys2Proof.Machine.execBkpt o s
  | .srd o => Sys2Proof.Machine.execSrd o s
  | .swr o => Sys2Proof.Machine.execSwr o s
  | .purseGet o => Sys2Proof.Machine.execPurseGet o s
  | .purseSplit o => Sys2Proof.Machine.execPurseSplit o s
  | .purseAdd o => Sys2Proof.Machine.execPurseAdd o s
  | .purseSetrest o => Sys2Proof.Machine.execPurseSetrest o s
  | .mcload o => Sys2Proof.Machine.execMcload o s
  | .tret o => Sys2Proof.Machine.execTret o s
  | .variableResultReturn w id => Sys2Proof.Machine.execVariableResultReturn w id s
  | .memoryReply req r => Sys2Proof.Machine.execMemoryReply req r s
  | .handlerEntry w => Sys2Proof.Machine.execHandlerEntry w s
  | .activeSetSwap core partition => Sys2Proof.Machine.execActiveSetSwap core partition s
  | .formedWarpEmit wg target => Sys2Proof.Machine.execFormedWarpEmit wg target s
  | .formerTimeout wg target => Sys2Proof.Machine.execFormerTimeout wg target s
  | .waitaWake w => Sys2Proof.Machine.execWaitaWake w s
  | .waitaPeriodicWake w => Sys2Proof.Machine.execWaitaPeriodicWake w s
  | .graceExhaustion wg => Sys2Proof.Machine.execGraceExhaustion wg s
  | .forcedYield wg => Sys2Proof.Machine.execForcedYield wg s
  | .workgroupSave wg => Sys2Proof.Machine.execWorkgroupSave wg s
  | .workgroupPlace wg core => Sys2Proof.Machine.execWorkgroupPlace wg core s
  | .workgroupComplete wg => Sys2Proof.Machine.execWorkgroupComplete wg s
  | .notify queue index => Sys2Proof.Machine.execNotify queue index s
  | .gridPacket packet => Sys2Proof.Machine.execGridPacket packet s
  | .barrierAndPacket packet => Sys2Proof.Machine.execBarrierAndPacket packet s
  | .dependencyRead packet => Sys2Proof.Machine.execDependencyRead packet s
  | .itineraryPacket packet => Sys2Proof.Machine.execItineraryPacket packet s
  | .packetComplete packet => Sys2Proof.Machine.execPacketComplete packet s
  | .hostFaultRecordPost => Sys2Proof.Machine.execHostFaultRecordPost s
  | .own req => Sys2Proof.Machine.execOwn req s
  | .wi req => Sys2Proof.Machine.execWi req s
  | .si req => Sys2Proof.Machine.execSi req s
  | .wtr req => Sys2Proof.Machine.execWtr req s
  | .wtw req => Sys2Proof.Machine.execWtw req s
  | .atHome req => Sys2Proof.Machine.execAtHome req s
  | .acc req => Sys2Proof.Machine.execAcc req s
  | .invalidationAcknowledgement grain by_ inc => Sys2Proof.Machine.execInvalidationAcknowledgement grain by_ inc s
  | .recallAnswer grain by_ has bytes inc => Sys2Proof.Machine.execRecallAnswer grain by_ has bytes inc s
  | .writeBack grain by_ ver bytes inc => Sys2Proof.Machine.execWriteBack grain by_ ver bytes inc s
  | .partialReturn grain by_ words inc => Sys2Proof.Machine.execPartialReturn grain by_ words inc s
  | .cleanEvictionNotice grain by_ inc => Sys2Proof.Machine.execCleanEvictionNotice grain by_ inc s
  | .invalidation grain target => Sys2Proof.Machine.execInvalidation grain target s
  | .recallHeld grain target toT => Sys2Proof.Machine.execRecall grain target toT s
  | .cancelled grain target => Sys2Proof.Machine.execCancelled grain target s
  | .coreEviction core grain => Sys2Proof.Machine.execCoreEviction core grain s
  | .tileDirectoryEviction tile grain => Sys2Proof.Machine.execTileDirectoryEviction tile grain s
  | .recallTimeout grain => Sys2Proof.Machine.execRecallTimeout grain s
  | .waystationArrival stage req => Sys2Proof.Machine.execWaystationArrival stage req s
  | .replySplit wb r => Sys2Proof.Machine.execReplySplit wb r s
  | .split wb => Sys2Proof.Machine.execSplit wb s
  | .waybillTimeout wb => Sys2Proof.Machine.execWaybillTimeout wb s
  | .apertureLoad req => Sys2Proof.Machine.execApertureLoad req s
  | .memberReadReply slot member => Sys2Proof.Machine.execMemberReadReply slot member s
  | .memberReread slot member => Sys2Proof.Machine.execMemberReread slot member s
  | .slotTimeout slot => Sys2Proof.Machine.execSlotTimeout slot s
  | .flitReceive port f => Sys2Proof.Machine.execFlitReceive port f s
  | .nak port seq => Sys2Proof.Machine.execNak port seq s
  | .flitAcknowledgement port seq => Sys2Proof.Machine.execFlitAcknowledgement port seq s
  | .groupFillTimeout port => Sys2Proof.Machine.execGroupFillTimeout port s
  | .verdict port msg pass => Sys2Proof.Machine.execVerdict port msg pass s
  | .rotationComplete port => Sys2Proof.Machine.execRotationComplete port s
  | .drainMarker port round => Sys2Proof.Machine.execDrainMarker port round s
  | .drainComplete pkg => Sys2Proof.Machine.execDrainComplete pkg s
  | .ualinkRequest r => Sys2Proof.Machine.execUalinkRequest r s
  | .peerTimeout req => Sys2Proof.Machine.execPeerTimeout req s
  | .companionLinkFailure => Sys2Proof.Machine.execCompanionLinkFailure s
  | .invalidationComplete inv => Sys2Proof.Machine.execInvalidationComplete inv s
  | .vacateComplete cmd => Sys2Proof.Machine.execVacateComplete cmd s
  | .powerGrant tile => Sys2Proof.Machine.execPowerGrant tile s
  | .send c => Sys2Proof.Machine.execSend c s
  | .recv c => Sys2Proof.Machine.execRecv c s
  | .recvred c => Sys2Proof.Machine.execRecvred c s
  | .reduce c => Sys2Proof.Machine.execReduce c s
  | .copy c => Sys2Proof.Machine.execCopy c s
  | .mcast c => Sys2Proof.Machine.execMcast c s
  | .waitSig c => Sys2Proof.Machine.execWaitSig c s
  | .waitFlag c => Sys2Proof.Machine.execWaitFlag c s
  | .waitSent c => Sys2Proof.Machine.execWaitSent c s
  | .signalPeer c => Sys2Proof.Machine.execSignalPeer c s
  | .signalSet c => Sys2Proof.Machine.execSignalSet c s
  | .signalAdd c => Sys2Proof.Machine.execSignalAdd c s
  | .setc c => Sys2Proof.Machine.execSetc c s
  | .setcRank c => Sys2Proof.Machine.execSetcRank c s
  | .setcCopy c => Sys2Proof.Machine.execSetcCopy c s
  | .addc c => Sys2Proof.Machine.execAddc c s
  | .addcWrap c => Sys2Proof.Machine.execAddcWrap c s
  | .loop c => Sys2Proof.Machine.execLoop c s
  | .loopGrp c => Sys2Proof.Machine.execLoopGrp c s
  | .endl c => Sys2Proof.Machine.execEndl c s
  | .brc c => Sys2Proof.Machine.execBrc c s
  | .brcRank c => Sys2Proof.Machine.execBrcRank c s
  | .joinq c => Sys2Proof.Machine.execJoinq c s
  | .mark c => Sys2Proof.Machine.execMark c s
  | .markNocompl c => Sys2Proof.Machine.execMarkNocompl c s
  | .halt c => Sys2Proof.Machine.execHalt c s
  | .chunkOpComplete => Sys2Proof.Machine.execChunkOpComplete s
  | .grant m => Sys2Proof.Machine.execGrant m s
  | .chunkData m bytes => Sys2Proof.Machine.execChunkData m bytes s
  | .chunkAcknowledgement m ok => Sys2Proof.Machine.execChunkAcknowledgement m ok s
  | .signalArrival m => Sys2Proof.Machine.execSignalArrival m s
  | .postedReservationRequest m => Sys2Proof.Machine.execPostedReservationRequest m s
  | .postedGrant piece granted => Sys2Proof.Machine.execPostedGrant piece granted s
  | .watchdog ctx => Sys2Proof.Machine.execWatchdog ctx s
  | .itineraryFault w => Sys2Proof.Machine.execItineraryFault w s
  | .remoteReplyTimeout req => Sys2Proof.Machine.execRemoteReplyTimeout req s
  | .regq c queue desc space => Sys2Proof.Machine.execRegq c queue desc space s
  | .vacate c gridid list => Sys2Proof.Machine.execVacate c gridid list s
  | .returnCores c gridid list => Sys2Proof.Machine.execReturnCores c gridid list s
  | .answerReplay c token => Sys2Proof.Machine.execAnswerReplay c token s
  | .answerDeliver c token => Sys2Proof.Machine.execAnswerDeliver c token s
  | .answerAbort c token => Sys2Proof.Machine.execAnswerAbort c token s
  | .icinv c => Sys2Proof.Machine.execIcinv c s
  | .tlbinv c space base len => Sys2Proof.Machine.execTlbinv c space base len s
  | .space c num root keys => Sys2Proof.Machine.execSpace c num root keys s
  | .groupwr c index entry => Sys2Proof.Machine.execGroupwr c index entry s
  | .groupfree c index => Sys2Proof.Machine.execGroupfree c index s
  | .ctxfree c ctx => Sys2Proof.Machine.execCtxfree c ctx s
  | .routewr c dest entry => Sys2Proof.Machine.execRoutewr c dest entry s
  | .keyload c port dir slot buffer => Sys2Proof.Machine.execKeyload c port dir slot buffer s
  | .keyrotate c port dir => Sys2Proof.Machine.execKeyrotate c port dir s
  | .drain c => Sys2Proof.Machine.execDrain c s
  | .abort c isCtx target => Sys2Proof.Machine.execAbort c isCtx target s
  | .peerwr c peer entry => Sys2Proof.Machine.execPeerwr c peer entry s
  | .peerreset c peer => Sys2Proof.Machine.execPeerreset c peer s
  | .readctr c set dest clear => Sys2Proof.Machine.execReadctr c set dest clear s
  | .fqreg c base size => Sys2Proof.Machine.execFqreg c base size s
  | .declare c agent => Sys2Proof.Machine.execDeclare c agent s
  | .tmoset c recallUs replyUs => Sys2Proof.Machine.execTmoset c recallUs replyUs s
  | .linkmode c mode => Sys2Proof.Machine.execLinkmode c mode s
  | .claim m prio a => Sys2Proof.Machine.execClaim m prio a s
  | .handover m target => Sys2Proof.Machine.execHandover m target s
  | .accept m => Sys2Proof.Machine.execAccept m s
  | .handoverExpiry => Sys2Proof.Machine.execHandoverExpiry s
  | .region m num base len pubIsPeer pub verAddr => Sys2Proof.Machine.execRegion m num base len pubIsPeer pub verAddr s
  | .publish fromPeer sender num v => Sys2Proof.Machine.execPublish fromPeer sender num v s
  | .keyset m id key => Sys2Proof.Machine.execKeyset m id key s
  | .setpower m tile watts => Sys2Proof.Machine.execSetpower m tile watts s
  | .setclove m steps => Sys2Proof.Machine.execSetclove m steps s
  | .attest m nonce => Sys2Proof.Machine.execAttest m nonce s
  | .powerGood signatureOk failedStacks failedPorts => Sys2Proof.Machine.execPowerGood signatureOk failedStacks failedPorts s
  | .packageReset signatureOk failedStacks failedPorts => Sys2Proof.Machine.execPackageReset signatureOk failedStacks failedPorts s
  | .claimWindowClose => Sys2Proof.Machine.execClaimWindowClose s
  | .thermalHold tile => Sys2Proof.Machine.execThermalHold tile s
  | .thermalThrottle tile => Sys2Proof.Machine.execThermalThrottle tile s
  | .thermalTrip tile => Sys2Proof.Machine.execThermalTrip tile s
  | .thermalRecovery tile celsius => Sys2Proof.Machine.execThermalRecovery tile celsius s
  | .correctedError onTile n => Sys2Proof.Machine.execCorrectedError onTile n s
  | .uncorrectableError site => Sys2Proof.Machine.execUncorrectableError site s
  | .hostFaultQueueReadIndex index => Sys2Proof.Machine.execHostFaultQueueReadIndex index s

end Sys2Proof.Machine
end

