-- ==== Sys2Proof/Machine/Turn.lean ====
section
/-! DEFINITION. Which agent moves next and what it does: a message or happening under way, a ready warp's next instruction, a
partition's swap, an engine or the dispatcher, or a Courier context's next word (R12, R38, R220, R259, R288, R291, R292). -/

namespace Sys2Proof.Machine

/-! ## Messages under way -/

/-- The request that moves in an event. -/
def movedReq : Instr → Option Nat
  | .waystationArrival _ r | .own r | .wi r | .si r | .wtr r | .wtw r | .atHome r | .acc r => some r
  | _ => none

/-- The number of the first issued of the requests merged in one. -/
def State.issued (s : State) (r : Req) : Nat := ((s.leaves s.fab.waybills.length r).map (fun q => q.id)).foldl min r.id

/-- Whether an event would take a request past one of the same agent, issued earlier, for a common 4-byte word (R259, R329). -/
def State.overtakes (s : State) (e : Instr) (r : Req) : Bool :=
  let words := fun (q : Req) => (q.key % 4 + max 1 q.len + 3) / 4
  (s.events.takeWhile (fun x => x != e)).any (fun x =>
    match (movedReq x).bind s.findReq with
    | some (q : Req) => q.who == r.who && overlap (q.key / 4) (words q) (r.key / 4) (words r) && decide (s.issued q < s.issued r)
    | none => false)

/-- The channel of an event, within which events are taken in order (R328, R345): home messages about one grain, commands of one ring, and so
on. Events without one are taken in any order, requests but for what `overtakes` forbids. -/
def State.channel (s : State) (e : Instr) : Option (Nat × Nat × Nat) :=
  let grainOf := fun (id : Nat) => (s.findReq id).map (fun r => (2, r.key - r.key % r.grain, 0))
  match e with
  | .memoryReply r _ => grainOf r
  | .invalidation g _ | .recallHeld g _ _ | .cancelled g _ => some (2, g, 0)
  | .invalidationAcknowledgement g p _ | .cleanEvictionNotice g p _ => some (3, g, holderId p)
  | .flitReceive p _ | .flitAcknowledgement p _ | .nak p _ | .verdict p _ _ => some (4, p, 0)
  | .drainMarker p _ => if p = ejectPort then none else some (4, p, 0)
  | .grant m | .chunkData m _ | .chunkAcknowledgement m _ | .signalArrival m => some (5, m.ctx, m.rank)
  | .ualinkRequest r => some (6, r.peer, 0)
  | .apertureLoad _ => some (7, 0, 0)
  | .notify n _ => some (10, n, 0)
  | e =>
    match e.ring with
    | some m => some (8, m, 0)
    | none => if e.isMail then some (9, 0, 0) else none

/-- The agents from which a request and those merged into it come. -/
def State.leafAgents (s : State) (r : Req) : List Party := (s.leaves s.fab.waybills.length r).map (fun q => q.who)

/-- Whether an earlier request for the same word stands before one in its stage's queue (R259). -/
def State.queuedBefore (s : State) (r : Req) : Bool :=
  (1 ≤ r.stage && r.stage ≤ 3) &&
  (s.fab.reqs.takeWhile (fun q => q.id != r.id)).any (fun q => q.stage == r.stage && sameQueue r.stage q r)

/-- Whether a request to a remote home is held at stage 2: an earlier one of the same core for the same 8-byte word is unanswered
(R329). -/
def State.heldRemote (s : State) (r : Req) : Bool :=
  r.stage == 2 && homePkg r.key != Config.pkgid
    && s.fab.reqs.any (fun q => q.id != r.id && decide (3 ≤ q.stage) && overlap (q.key / 8) ((q.len + 7) / 8) (r.key / 8) ((r.len + 7) / 8)
        && (s.leafAgents q).any (fun a => (s.leafAgents r).contains a))

/-- Whether a request may leave for its next stage. -/
def State.mayGoOn (s : State) (stage : Nat) (r : Req) : Bool :=
  let peer := peerOfKey r.key
  !(s.queuedBefore r)
  && (match stage with
      | 1 =>
        -- an agent sends nothing for a grain while its own write-back or partial return is unacknowledged (R244); a core has at most
        -- 256 requests outstanding to peers (R340)
        !(s.fab.wbuf.any (fun b => b.who == r.who && b.grain == r.base))
          && !(s.events.any (fun e => match e with | .partialReturn g p _ _ => g == r.base && p == r.who | _ => false))
          && (match r.who with
              | .core _ c | .stash _ c =>
                (peer.isNone || decide (((s.fab.reqs ++ s.mergedOf c).filter (fun q =>
                  q.ofCore c && decide (1 ≤ q.stage) && (peerOfKey q.key).isSome)).length < 256))
                && (!r.unsent || decide (s.outstandingOf c < 8192))
              | _ => true)
      | 3 =>
        match peer with
        | some p => peerDead (s.peerEntry p) || decide ((FMap.get s.host.peerReqs [] p).length < outPool (s.peerEntry p))
        | none => (homePkg r.key == Config.pkgid || !(ownParty r.who) || s.routed (homePkg r.key)) && !(s.heldRemote r)
      | _ => true)

/-- The ranges of memory that an event reads without a request, which the home settles first. -/
def State.eventReads (s : State) (e : Instr) : List (Nat × Nat) :=
  let at_ := fun (a : DWord) (n : Nat) => match physKey a with | some k => [(k, n)] | none => []
  match e with
  | .regq _ _ d _ => at_ d 64
  | .vacate _ _ l | .returnCores _ _ l => at_ l 1024
  | .groupwr _ _ a => at_ a 32
  | .keyload _ _ _ _ a => at_ a 36
  | .notify n _ =>
    match FMap.find s.host.queues n with
    | some q => at_ q.desc 64 ++ at_ (BitVec.ofNat 64 (s.queueField q 0 8)) (64 * s.queueEntries q)
    | none => []
  | _ => []

/-- Whether an event may be taken now. -/
def State.eventReady (s : State) (e : Instr) : Bool :=
  let answered := fun (agent : Nat) => s.fab.asks.all (fun a => a.agent != agent || a.ans.isSome)
  ((s.eventReads e).isEmpty || answered ctlAgent) &&
  (match e with
  | .memberReadReply x m => answered (x + 1 + m)
  | .slotTimeout x => answered x
  | .handlerEntry id => match s.findWarp id with | some w => !(w.awaits (fun o => o.hasDest)) | none => true
  | .waystationArrival k id => match s.findReq id with | some r => s.mayGoOn k r && !(s.overtakes e r) | none => true
  | .own id | .wi id | .si id | .wtr id | .wtw id | .atHome id | .acc id =>
    match s.findReq id with | some r => !(s.queuedBefore r) && !(s.overtakes e r) | none => true
  -- a write-back or a partial that the home has not asked for keeps its place behind its agent's requests (R258)
  | .writeBack g p _ _ _ | .partialReturn g p _ _ => s.awaited g p || !(s.fab.reqs.any (fun r =>
      decide (1 ≤ r.stage) && decide (r.stage ≤ 3) && r.who == p && overlap r.key (max 1 r.len) g (s.grainSize g)))
  | .apertureLoad _ => decide (s.fab.slots.length < 64)
  | .chunkData m _ => (s.ctx m.ctx).parked == 0
  | .ualinkRequest r =>
    let mine := (s.host.faults ++ s.host.faultWait.map (fun p => p.1)).filter (fun f => match f.what with | .peer q => q.peer == r.peer | _ => false)
    !(mine.any (fun f => match f.what with | .peer q => peerWrites q | _ => false))
      && (decide (1024 ≤ r.peer) || decide (mine.length < inPool (s.peerEntry r.peer)))
  | .hostFaultRecordPost => s.host.ringRoom
  | .drainMarker p k => p != ejectPort || s.markerEjected k
  | .drain c => s.host.drainRound.isNone && s.pkg.stage == 6 && !(s.host.cmds.any (fun p => p.cmd.master == c.master))
  | e =>
    match e.ring with
    | some m => s.pkg.stage == 6 && !(s.host.cmds.any (fun p => p.cmd.master == m))
    | none => !e.isMail || decide (4 ≤ s.pkg.stage) || s.pkg.mailbox != 0)

/-- The events that may be taken now: each the first of its channel. -/
def State.openEvents (s : State) : List Instr → List (Nat × Nat × Nat) → List Instr
  | [], _ => []
  | e :: es, seen =>
    match s.channel e with
    | none => if s.eventReady e then e :: s.openEvents es seen else s.openEvents es seen
    | some c =>
      if seen.contains c then s.openEvents es seen
      else if s.eventReady e then e :: s.openEvents es (c :: seen)
      else s.openEvents es (c :: seen)

/-! ## Engines, dispatcher and commands: what they can do now -/

/-- What the engines and the dispatcher can do for a running workgroup. -/
def State.wgEvents (s : State) (g : Workgroup) : List Instr :=
  (if s.saveDue g then [.workgroupSave g.serial] else [])
  ++ (match s.dueTargets g with | t :: _ => [.formedWarpEmit g.serial t] | [] => [])
  ++ (if s.releaseDue g then [.mmaRelease g.serial] else [])
  ++ (if s.accDue g then [.accTurn g.serial] else [])
  ++ (List.range 4).filterMap (fun q => if s.porterStartDue g q then some (.porterCommandStart g.serial q) else none)
  ++ (List.range 4).filterMap (fun q => if s.porterGoes g q then some (.porterCommandComplete g.serial q) else none)

/-- What the engines of a workgroup that does not run can still do: a Porter command in progress runs to its completion (R201, R204). -/
def State.leftEvents (s : State) (g : Workgroup) : List Instr :=
  (List.range 4).filterMap (fun q => if s.porterGoes g q then some (.porterCommandComplete g.serial q) else none)

/-- What the array of a pair can do: its due pattern, else the next step (R186, R195). -/
def State.pairEvents (s : State) (p : Nat) : List Instr :=
  if (s.pair p).patternDue then [.clovePattern p 0#8]
  else if (s.arrayNext p).isSome then [.mmaStep p] else []

/-- The pairs with a running workgroup. -/
def State.livePairs (s : State) : List Nat :=
  (s.allWgs.filter (fun g => g.place == .running)).foldl (fun l g => addNat (pairOfCore g.core) l) []

/-- What the packet processor can do for a packet (R285 to R287). -/
def State.packetEvents (s : State) (p : Packet) : List Instr :=
  if s.mayStart p then
    (if p.grid ≠ 0#32 then [.gridPacket p.id]
     else match pktType p.bytes with | 2 => [.barrierAndPacket p.id] | 3 => [.itineraryPacket p.id] | _ => [.gridPacket p.id])
  else if s.packetDone p then [.packetComplete p.id]
  else if p.started && !p.finished && p.token == 0 && pktType p.bytes == 2 then [.dependencyRead p.id]
  else []

/-- Whether the governor of a tile can look at its queue. -/
def Gov.canGrant (g : Gov) : Bool := !g.queue.isEmpty && !g.hold

/-- Everything that engines, the dispatcher and pending commands can do now. -/
def State.derived (s : State) : List Instr :=
  (s.allWgs.filter (fun g => g.serial != 0 && g.place == .running)).flatMap s.wgEvents
  ++ (s.allWgs.filter (fun g => g.serial != 0 && g.place != .running)).flatMap s.leftEvents
  ++ s.livePairs.flatMap s.pairEvents
  ++ (if s.pathDue then [.chunkOpComplete] else [])
  ++ (s.pkg.tiles.filter (fun p => p.2.canGrant)).map (fun p => .powerGrant p.1)
  ++ s.packets.flatMap s.packetEvents
  ++ (match s.nextPlace with | some (wg, core) => [.workgroupPlace wg core] | none => [])
  ++ (s.allWgs.filter (fun g => g.serial != 0 && s.completeDue g)).map (fun g => .workgroupComplete g.serial)
  ++ (s.host.cmds.filter s.vacated).map (fun p => .vacateComplete p.id)
  ++ (s.host.cmds.filter s.invalidated).map (fun p => .invalidationComplete p.id)

/-! ## Agents -/

/-- An agent that can move. -/
inductive Agent where
  | event (e : Instr)
  | derived (e : Instr)
  | warp (w : WarpId)
  | swap (core partition : Nat)
  | ctx (n : Nat)
  /-- the reader of a master's command ring -/
  | ring (m : Nat)
  deriving DecidableEq, Repr

/-- Inserts a warp in order of age, the oldest first (R291). -/
def insertByAge (w : Warp) : List Warp → List Warp
  | [] => [w]
  | x :: xs => if w.age < x.age then w :: x :: xs else x :: insertByAge w xs

/-- Whether a context can go on (R213, R220): it must stop or end, has a write to make, or its wait is over. -/
def State.ctxReady (s : State) (c : Ctx) : Bool :=
  c.st == 1 && c.parked == 0 && s.fab.asks.all (fun a => a.agent != c.id || a.ans.isSome) &&
  ((s.ctxDoom c).isSome || !c.todo.isEmpty || c.ending.isSome ||
  (match c.wait with
   | .none | .flag => s.performed c.cover
   | .signal p => decide (0 < (c.peer p).signals)
   | .limit => decide (c.sends.length < 8)
   | .sent => c.sends.isEmpty
   | .join ids => ids.all (fun i => !((s.commandIds c.wg).contains i))
   | .purse b => s.payReady c b
   | .chunk _ _ _ _ _ _ | .path _ _ _ _ _ | .power => false))

/-- The partitions whose active sets can take a ready warp. -/
def State.swaps (s : State) (ws : List Warp) : List (Nat × Nat) :=
  (ws.foldl (fun (l : List (Nat × Nat)) w =>
    match s.findWg w.wg with
    | some g => if l.contains (g.core, w.part) then l else l ++ [(g.core, w.part)]
    | none => l) []).filter (fun p => (s.swapIn p.1 p.2).isSome)

/-- Whether a ready active warp may issue next: none older of its partition is about to use the same pipe (R291). -/
def State.mayIssue (s : State) (act : List Warp) (w : Warp) : Bool :=
  let coreOf := fun (x : Warp) => (s.findWg x.wg).map (fun g => g.core)
  let older := act.filter (fun x => decide (x.age < w.age) && x.part == w.part && coreOf x == coreOf w)
  older.isEmpty || (match s.pipeNext w with | some p => older.all (fun x => s.pipeNext x != some p) | none => true)

/-- The agents that can move. -/
def State.agents (s : State) : List Agent :=
  let ready := s.allWarps.filter s.warpReady
  let act := (ready.filter (fun w => w.active)).foldl (fun l w => insertByAge w l) []
  (s.openEvents s.events []).map Agent.event
    ++ (act.filter (s.mayIssue act)).map (fun w => Agent.warp ⟨w.wg, w.wid⟩)
    ++ (s.swaps (ready.filter (fun w => !w.active))).map (fun p => Agent.swap p.1 p.2)
    ++ s.derived.map Agent.derived
    ++ (s.courier.ctxs.filter (fun p => s.ctxReady p.2)).map (fun p => Agent.ctx p.1)
    ++ ((List.range 3).filter s.ringDue).map Agent.ring

/-- Under whose number the accesses of an event or of a packet's or the data path's step stand. -/
def State.actorOf (s : State) (e : Instr) : Nat :=
  match e with
  | .gridPacket p | .barrierAndPacket p | .itineraryPacket p | .packetComplete p | .dependencyRead p => p
  | .chunkOpComplete => (match s.courier.path with | some (n, _, _) => (s.ctx n).onPath.id | none => 0)
  | .chunkData m _ => (s.ctx m.ctx).id
  | _ => 0

/-- What a turn comes to: an instruction to execute in a state, or a state already reached. -/
inductive Turn where
  | exec (i : Instr) (s : State)
  | done (s : State)

/-- The turn of a warp at a clause boundary (R12, R30). -/
def State.boundaryTurn (s0 : State) : Turn :=
  let s := s0.unreserve
  if s.stopsFor s.w s.g then .exec (.clauseIssue Header.zero) s
  else
    match s.w.issueOffset with
    | none => .done s
    | some p =>
      match s.fetchWord p with
      | .error .walkWait => .done { s with w := s.w.park (.walk (s.g.code + p.setWidth 64).toNat) }
      | .error c =>
        let s1 := { s with w := s.w.openClause p Header.zero }
        .done (s1.raiseRec (s1.w.trapRec c s1.w.exec (s.g.code + p.setWidth 64) false))
      | .ok w =>
        match decodeHeader w with
        | some h => .exec (.clauseIssue h) s
        | none =>
          let s1 := { s with w := s.w.openClause p Header.zero }
          .done (s1.raiseRec (s1.w.trapRec .illegalClause s1.w.exec (pairOf w 0#32) false))

/-- The turn of a warp at its next instruction. -/
def State.instrTurn (s : State) (n : Next) : Turn :=
  match n with
  | .instr i => .exec i s
  | .trap c addr => .done (s.raise c s.w.exec addr)
  | .fetchFault c addr => .done (s.raiseRec (s.w.trapRec c s.w.exec addr false))

/-- Ends a macro (R125): the registers it wrote take back their values, and the new ones become results of class W5 that
return in their time. -/
def State.endMacro (s : State) (m : MacroRun) : State :=
  let keys := m.saved.map (fun p => p.1)
  let vals := m.saved.map (fun p => (p.1, s.w.readKey p.1))
  let w1 := m.saved.foldl (fun (w : Warp) p => w.setKey p.1 p.2) { s.w with mac := none }
  let (s1, id) := ({ s with w := w1 }).fresh
  let s2 := if keys.isEmpty then s1 else
    { s1 with
      w := s1.w.addOut { id := id, cls := 5, hasDest := true, keys := keys, vals := vals, waiting := 1, fail := none, flags := 0#32 }
      events := s1.events ++ [.variableResultReturn s1.warpId id] }
  let s3 := s2.modW (fun w => w.advance 8)
  let s4 := if m.s then s3.marker else s3
  if s4.w.wait = .none && s4.w.trap.isNone && s4.w.frame == s.w.frame then s4.closeClause else s4

/-- The turn of a warp inside a clause: its next instruction, or the next operation of its macro. -/
def State.clauseTurn (s : State) (c : Clause) : Turn :=
  match s.w.mac with
  | none => s.instrTurn (s.nextInstr c)
  | some m0 =>
    match s.macroNow c m0 with
    | .error (e, addr) => s.instrTurn (.fetchFault e addr)
    | .ok m =>
      let s1 := if m0.retake then s.modW (fun w => { w with mac := some m }) else s
      match m.ops[m.j]? with
      | none => .done (s1.endMacro m)
      | some p => s1.instrTurn (s1.nextMacroOp m p)

/-- A warp whose marker, macro operation or WAIT has been satisfied commits what it awaited, and takes any failure
(R14, R31, R35, R125, R149). -/
def State.resumeCommit (s : State) (p : Out → Bool) : State :=
  let (w, fails) := s.w.unpark.commit p
  let s1 : State := { s with w := w }
  if fails.isEmpty then s1.closeClause else s1.raiseFails fails

/-- A warp that an answer or a return lets go on from its restart point takes the next failure found with the one before (R303), or
applies the clause's `WAIT` again (R301). -/
def State.resumeHeader (s : State) : State :=
  match s.w.pendFails with
  | f :: rest => ({ s with w := { s.w.unpark with pendFails := rest } }).raiseFail f
  | [] =>
    match s.w.cl with
    | some c => s.resumeCommit (fun o => c.hdr.wait.getLsbD o.cls)
    | none => s.modW Warp.unpark

/-- The turn of a warp (R12, R38). -/
def State.warpTurn (s : State) (id : WarpId) : Turn :=
  let s0 := s.focusWarp id
  if !(s0.isWarp id) then .done s0
  else
    match s0.w.wait with
    | .marker => .done (s0.resumeCommit (fun o => o.hasDest))
    | .macroOp =>
      match s0.w.mac with
      | some m => .done (s0.resumeCommit (fun o => o.hasDest && decide (m.firstOut ≤ o.id)))
      | none => .done (s0.modW Warp.unpark)
    | .header => .done s0.resumeHeader
    | .walk va =>
      let asker := askerOf id
      match s0.walkNeeds s0.g.space va true with
      | some _ => .done (s0.askWalk (l1Of s0.g.core) asker s0.g.space va true)
      | none =>
        let s1 := { s0.modW Warp.unpark with acting := asker }
        match s1.w.cl with
        | none => s1.boundaryTurn
        | some c => s1.clauseTurn c
    | .asks =>
      let s1 := { s0.modW Warp.unpark with acting := askerOf id }
      match s1.w.cl with
      | none => s1.boundaryTurn
      | some c => s1.clauseTurn c
    | .classes m =>
      if s0.w.cl.isSome && !s0.charged then .done (s0.resumeCommit (fun o => m.getLsbD o.cls))
      else
        let s1 := s0.modW Warp.unpark
        match s1.w.cl with
        | none => s1.boundaryTurn
        | some c => s1.clauseTurn c
    | _ =>
      let s1 := s0.modW Warp.unpark
      match s1.w.cl with
      | none => s1.boundaryTurn
      | some c => s1.clauseTurn c

/-- The turn of a context: it stops, makes a write of its start or end, ends, or executes its next word, fetched at the home (R208,
R210, R220); a word that may not be executed is an itinerary fault (R63). -/
def State.ctxTurn (s : State) (n : Nat) : Turn :=
  let s0 := { s with courier := { s.courier with cur := n }, acting := (s.ctx n).id }
  match FMap.find s.courier.ctxs n with
  | none => .done s0
  | some c =>
    match s0.ctxDoom c, c.todo, c.ending with
    | some code, _, _ => .done (s0.stopCtx n code)
    | none, (va, bs) :: _, _ => .done (s0.ctxTodo n va bs)
    | none, [], some code => .done (s0.finishCtx n code)
    | none, [], none =>
      let run := fun (s : State) (w : DWord) =>
        match decodeItin w with
        | none => Turn.exec (.itineraryFault w) s
        | some i => if i.itinOk then .exec i s else .exec (.itineraryFault w) s
      match c.word with
      | some w => run s0 w
      | none =>
        match s0.ctxRead c c.pc.toNat 8 with
        | .wait s1 => .done s1
        | .fail s1 e va => .done (s1.ctxFail n e va)
        | .ok s1 bs => run (s1.modCtx n (fun c => { c with word := some (BitVec.ofNat 64 (leNat bs)) })) (BitVec.ofNat 64 (leNat bs))

/-- Removes the first copy of an event. -/
def removeEvent (e : Instr) : List Instr → List Instr
  | [] => []
  | x :: xs => if x = e then xs else x :: removeEvent e xs

/-- The turn of an event: it is taken from those under way, unless homes must first be asked for what it reads. -/
def State.eventTurn (s s0 : State) (e : Instr) : Turn :=
  if (s.eventReads e).isEmpty then .exec e { s0 with events := removeEvent e s.events, acting := s.actorOf e }
  else
    match s0.homeGets pkgParty ctlAgent (s.eventReads e) with
    | .wait s1 => .done s1
    | _ => .exec e { s0 with events := removeEvent e s.events, acting := ctlAgent }

/-- What a step leaves of the accesses that its agent made by requests: an agent that has used their answers is done with them; a warp that still
waits for others keeps them. -/
def State.actEnd (s : State) : State :=
  if s.acting = 0 then s
  else
    let waits := (match s.w.wait with | .walk _ | .asks => true | _ => false) && askerOf s.warpId == s.acting
    { (if waits then s else s.asksEnd s.acting) with acting := 0 }

/-- A turn that changes nothing but the time: the agent picked does not move. -/
def State.pass (s : State) : State := { s with clock := s.clock + 1#64, order := s.order.drop 1 }

/-- What a turn leaves: a unit that would post a record while the on-die buffer is full waits instead (R311), and takes its turn again. A
command of the host is not kept waiting: the units whose records it lets go to the queue are parked themselves. -/
def State.postsOr (s t : State) (ofHost : Bool) : State :=
  if !ofHost && decide (256 ≤ s.host.fqBuffer.length) && decide (s.host.fqWaiting.length < t.host.fqWaiting.length) then s.pass
  else t.actEnd

/-- The turn that comes next: the agent that `order` picks, else one that the timebase picks. The timebase advances by one. -/
def State.turn (s : State) : Turn :=
  let s0 := s.pass
  let ags := s.agents
  match ags[(s.order.head?.getD s.clock.toNat) % max 1 ags.length]? with
  | none => .done s0
  | some (.event e) => s.eventTurn s0 e
  | some (.derived e) => .exec e { s0 with acting := s.actorOf e }
  | some (.warp id) => s0.warpTurn id
  | some (.swap c p) => .exec (.activeSetSwap c p) s0
  | some (.ctx n) => s0.ctxTurn n
  | some (.ring m) => .done (s0.readRing m)

end Sys2Proof.Machine
end

