-- ==== Sys2Proof/Machine/Place.lean ====
section
/-! DEFINITION. Placing an instruction where the next step fetches: a running workgroup of level 1 with one warp, its code
page mapped, the warp standing at the instruction. It stands for the launch of a program from outside. -/

namespace Sys2Proof.Machine

/-- Bytes of one page-table entry (R309). -/
def tableEntry (lo hi : Nat) : List Byte := leBytes 8 lo ++ leBytes 8 hi

/-- Where the placed program's tables and code lie (LOCAL physical addresses). -/
def placeRoot : Nat := 0x100000
def placeCode : Nat := 0x1000

/-- The attribute word of the placed page: the driver's default values with every permission (R238). -/
def placeAttr : Nat := 2 ^ 21 + 2 ^ 20 + 2 ^ 18 + 4 * 2 ^ 15 + 2 * 2 ^ 12 + 0xF

/-- A three-level identity mapping of the first 512 MiB. -/
def placeCells (dom : Nat) : List Host.Cell :=
  cellsAt (memKey dom placeRoot) (tableEntry (0x104000 + 1) 0)
  ++ cellsAt (memKey dom 0x104000) (tableEntry (0x106000 + 1) 0)
  ++ cellsAt (memKey dom 0x106000) (tableEntry 3 placeAttr)

/-- The header of a clause that holds one instruction of a class. -/
def oneHeader (cls : Nat) : Header :=
  { gsense := false, guard := 0#3, wait := 0#6, eng := BitVec.ofNat 3 cls, n := 1#4 }

/-- The state in which the instruction whose words are `w` (the first in the low 32 bits) is the next that a step
executes. A clause header is placed at a clause boundary; any other word as the only instruction of a clause of its
class, the warp having issued that clause. -/
def placeWord (s : State) (_nbits w : Nat) : State :=
  let w0 : Word := BitVec.ofNat 32 w
  let w1 : Word := BitVec.ofNat 32 (w / 2 ^ 32)
  let isHdr := (decodeHeader w0).isSome
  let hdr := oneHeader (classOfOp (w0.extractLsb' 25 7))
  let words := if isHdr then [w0, w1] else [hdr.toWord, w0, w1]
  let dom := Config.pkgid
  let cells := placeCells dom ++ cellsAt (memKey dom placeCode) (words.flatMap bytesOfWord)
  let lpc := lanes.foldl (fun m i => FMap.put m lpcExited i 0#32) ([] : FMap Word)
  let tids := lanes.foldl (fun m i => FMap.put m 0 i i) ([] : FMap Nat)
  let warp : Warp := { Warp.vacant with
    present := true, wg := 1, wid := 0, lpc := lpc, tids := tids, active := true, age := 1
    cl := if isHdr then none else
      some { base := 0#32, exec := allLanes, hdr := hdr, idx := 0, off := 4, targets := [], yields := 0#32,
             leaving := 0#32, split := none, charged := false, awaits := [] } }
  let wg : Workgroup := { Workgroup.vacant with
    serial := 1, size := 32, level := 1, grid := 1#32, ipurse := 2 ^ 48 - 1, mpurse := 2 ^ 48 - 1, accAllot := 64
    place := .running, code := BitVec.ofNat 64 placeCode }
  { s.storeCells cells with
    w := warp, g := wg, warps := [], wgs := [], events := [], order := [0]
    host := { s.host with spaces := FMap.insert s.host.spaces 0 { root := BitVec.ofNat 64 placeRoot, keys := 0#64 } }
    pkg := { s.pkg with tripped := false } }

end Sys2Proof.Machine
end

