-- ==== Sys2Proof/Machine/Step.lean ====
section
/-! DEFINITION. One step of the machine, and the state in which a given instruction is the next to run. -/

namespace Sys2Proof.Machine

/-- What still happens while power is removed: power cycles, and mailboxes answer (R356). -/
def tripAlive (e : Instr) : Bool := e.isPowerGood || e.isMail

/-- One step: nothing runs once power is removed but what R356 names; else the agent whose turn it is moves. -/
def step (s : State) : Host.Outcome State Fault Refusal :=
  if s.pkg.tripped then
    match s.events.find? tripAlive with
    | some e => exec e { s with events := removeEvent e s.events }
    | none => .fault .powerRemoved
  else
    match s.turn with
    | .exec i s' => (match exec i s' with | .next t => .next (s.postsOr t i.ring.isSome) | stop => stop)
    | .done s' => .next (s.postsOr s' false)

/-- The state with an instruction placed where the next step fetches: see `placeWord`. -/
def State.withFetchWord (s : State) (nbits w : Nat) : State := placeWord s nbits w

end Sys2Proof.Machine
end

