-- ==== Sys2Proof/Laws/PerInstr.lean ====
section
/-! SUPPORT. Decoding the encoding of a step gives it back: the statement, the lemmas about words and bytes that its proofs share, and
its lemma for every constructor. -/

namespace Sys2Proof.Laws.RoundTrip

/-- The bytes of a well-formed step that has an encoding decode to it, and the bytes after them are left. -/
def Statement (i : Instr) : Prop :=
  ∀ bs rest, i.wellFormed = true → encode i = some bs →
    match i with
    | .clauseIssue h => decodeHeaderBytes (bs ++ rest) = .ok (h, rest)
    | i => if i.opcode.isSome then decodeInstr (bs ++ rest) = .ok (i, rest) else decodeItinBytes (bs ++ rest) = .ok (i, rest)

/-! ## Words and bytes -/

theorem append_toNat {n m : Nat} (x : BitVec n) (y : BitVec m) : (x ++ y).toNat = x.toNat * 2 ^ m + y.toNat := by
  rw [BitVec.toNat_append, ← Nat.shiftLeft_add_eq_or_of_lt y.isLt, Nat.shiftLeft_eq]

theorem toWord_toNat (op : BitVec 7) (o : Ops) : (o.toWord op).toNat = op.toNat * 2 ^ 25 + o.s.toNat * 2 ^ 24 + o.d.toNat * 2 ^ 18
    + o.a.toNat * 2 ^ 12 + o.b.toNat * 2 ^ 6 + o.la.toNat * 2 ^ 5 + o.lb.toNat * 2 ^ 4 + o.f.toNat := by
  have h : (o.toWord op).toNat = BitVec.toNat (op ++ BitVec.ofBool o.s ++ o.d ++ o.a ++ o.b ++ BitVec.ofBool o.la ++ BitVec.ofBool o.lb ++ o.f) := rfl
  rw [h]
  simp only [append_toNat, BitVec.toNat_ofBool]
  omega

theorem wordOfBytes_bytesOfWord (w : Word) :
    wordOfBytes (w.extractLsb' 0 8) (w.extractLsb' 8 8) (w.extractLsb' 16 8) (w.extractLsb' 24 8) = w := by
  apply BitVec.eq_of_toNat_eq
  have h : (wordOfBytes (w.extractLsb' 0 8) (w.extractLsb' 8 8) (w.extractLsb' 16 8) (w.extractLsb' 24 8)).toNat
    = BitVec.toNat (w.extractLsb' 24 8 ++ w.extractLsb' 16 8 ++ w.extractLsb' 8 8 ++ w.extractLsb' 0 8) := rfl
  rw [h]
  simp only [append_toNat, BitVec.extractLsb'_toNat, Nat.shiftRight_eq_div_pow]
  have := w.isLt
  omega

theorem ofWord_toWord (op : BitVec 7) (o : Ops) (e : Word) : Ops.ofWord (o.toWord op) e = { o with ext := e } := by
  have h := toWord_toNat op o
  cases o with | mk s d a b la lb f ext =>
  simp only at h
  have := op.isLt; have := d.isLt; have := a.isLt; have := b.isLt; have := f.isLt
  have := Bool.toNat_le s; have := Bool.toNat_le la; have := Bool.toNat_le lb
  simp only [Ops.ofWord, Ops.mk.injEq]
  refine ⟨?_, ?_, ?_, ?_, ?_, ?_, ?_, trivial⟩
  · rw [BitVec.getLsbD, Nat.testBit_eq_decide_div_mod_eq, h]; cases s <;> simp <;> omega
  · apply BitVec.eq_of_toNat_eq; rw [BitVec.extractLsb'_toNat, h, Nat.shiftRight_eq_div_pow]; omega
  · apply BitVec.eq_of_toNat_eq; rw [BitVec.extractLsb'_toNat, h, Nat.shiftRight_eq_div_pow]; omega
  · apply BitVec.eq_of_toNat_eq; rw [BitVec.extractLsb'_toNat, h, Nat.shiftRight_eq_div_pow]; omega
  · rw [BitVec.getLsbD, Nat.testBit_eq_decide_div_mod_eq, h]; cases la <;> simp <;> omega
  · rw [BitVec.getLsbD, Nat.testBit_eq_decide_div_mod_eq, h]; cases lb <;> simp <;> omega
  · apply BitVec.eq_of_toNat_eq; rw [BitVec.extractLsb'_toNat, h, Nat.shiftRight_eq_div_pow]; omega

theorem toWord_op (op : BitVec 7) (o : Ops) : (o.toWord op).extractLsb' 25 7 = op := by
  have h := toWord_toNat op o
  have := o.d.isLt; have := o.a.isLt; have := o.b.isLt; have := o.f.isLt; have := op.isLt
  have := Bool.toNat_le o.s; have := Bool.toNat_le o.la; have := Bool.toNat_le o.lb
  apply BitVec.eq_of_toNat_eq; rw [BitVec.extractLsb'_toNat, h, Nat.shiftRight_eq_div_pow]; omega

theorem toWord_f (op : BitVec 7) (o : Ops) : (o.toWord op).extractLsb' 0 4 = o.f := by
  have h := toWord_toNat op o
  have := o.f.isLt
  apply BitVec.eq_of_toNat_eq; rw [BitVec.extractLsb'_toNat, h, Nat.shiftRight_eq_div_pow]; omega

/-- Decoding the word of an opcode and fields: the table's answer for them, without an extension word. -/
theorem decodeWord_toWord (op : BitVec 7) (o : Ops) : decodeWord (o.toWord op) = instrOf op.toNat o.f.toNat { o with ext := 0#32 } := by
  simp only [decodeWord, toWord_op, toWord_f, ofWord_toWord]

theorem header_toNat (h : Header) : h.toWord.toNat = 0x6280 * 2 ^ 17 + h.gsense.toNat * 2 ^ 16 + h.guard.toNat * 2 ^ 13
    + h.wait.toNat * 2 ^ 7 + h.eng.toNat * 2 ^ 4 + h.n.toNat := by
  have e : h.toWord.toNat = BitVec.toNat (0x6280#15 ++ BitVec.ofBool h.gsense ++ h.guard ++ h.wait ++ h.eng ++ h.n) := rfl
  rw [e]
  simp only [append_toNat, BitVec.toNat_ofBool, BitVec.toNat_ofNat]
  omega

theorem decodeHeader_toWord (h : Header) : decodeHeader h.toWord = some h := by
  have e := header_toNat h
  cases h with | mk gsense guard wait eng n =>
  simp only at e
  have := guard.isLt; have := wait.isLt; have := eng.isLt; have := n.isLt; have := Bool.toNat_le gsense
  unfold decodeHeader
  rw [if_pos]
  · congr 1
    simp only [Header.mk.injEq]
    refine ⟨?_, ?_, ?_, ?_, ?_⟩
    · rw [BitVec.getLsbD, Nat.testBit_eq_decide_div_mod_eq, e]; cases gsense <;> simp <;> omega
    all_goals apply BitVec.eq_of_toNat_eq; rw [BitVec.extractLsb'_toNat, e, Nat.shiftRight_eq_div_pow]; omega
  · apply BitVec.eq_of_toNat_eq; rw [BitVec.extractLsb'_toNat, e, Nat.shiftRight_eq_div_pow, BitVec.toNat_ofNat]; omega

theorem itin_toNat (op : BitVec 6) (c : Itin) : (c.toWord op).toNat = op.toNat * 2 ^ 58 + c.flags.toNat * 2 ^ 54 + c.peer.toNat * 2 ^ 48
    + c.sa.toNat * 2 ^ 44 + c.sb.toNat * 2 ^ 40 + c.cr.toNat * 2 ^ 36 + c.red.toNat * 2 ^ 32 + c.imm.toNat := by
  have e : (c.toWord op).toNat = BitVec.toNat (op ++ c.flags ++ c.peer ++ c.sa ++ c.sb ++ c.cr ++ c.red ++ c.imm) := rfl
  rw [e]
  simp only [append_toNat]
  omega

theorem itin_op (op : BitVec 6) (c : Itin) : (c.toWord op).extractLsb' 58 6 = op := by
  have e := itin_toNat op c
  have := op.isLt; have := c.flags.isLt; have := c.peer.isLt; have := c.sa.isLt; have := c.sb.isLt; have := c.cr.isLt
  have := c.red.isLt; have := c.imm.isLt
  apply BitVec.eq_of_toNat_eq; rw [BitVec.extractLsb'_toNat, e, Nat.shiftRight_eq_div_pow]; omega

theorem itin_ofWord_toWord (op : BitVec 6) (c : Itin) : Itin.ofWord (c.toWord op) = c := by
  have e := itin_toNat op c
  cases c with | mk flags peer sa sb cr red imm =>
  simp only at e
  have := op.isLt; have := flags.isLt; have := peer.isLt; have := sa.isLt; have := sb.isLt; have := cr.isLt
  have := red.isLt; have := imm.isLt
  simp only [Itin.ofWord, Itin.mk.injEq]
  refine ⟨?_, ?_, ?_, ?_, ?_, ?_, ?_⟩
  all_goals apply BitVec.eq_of_toNat_eq; rw [BitVec.extractLsb'_toNat, e, Nat.shiftRight_eq_div_pow]; omega

theorem pairOf_halves (x : DWord) : pairOf (loWord x) (hiWord x) = x := by
  apply BitVec.eq_of_toNat_eq
  have e : (pairOf (loWord x) (hiWord x)).toNat = BitVec.toNat (hiWord x ++ loWord x) := rfl
  have := x.isLt
  rw [e, append_toNat]
  simp only [loWord, hiWord, BitVec.toNat_setWidth, BitVec.toNat_ushiftRight, Nat.shiftRight_eq_div_pow]
  omega

/-! ## Whole encodings -/

/-- A step whose word is a format R word, for a constructor `K` of opcode `op` that the table answers. -/
theorem of_instr (K : Ops → Instr) (op : BitVec 7) (o : Ops) (hext : ∀ e, (K { o with ext := e }).extended = (K o).extended) (hdec : ∀ e, (K o).funcOk = true → instrOf op.toNat o.f.toNat { o with ext := e } = some (K { o with ext := e }))
    (hwf : (K o).wellFormed = ((K o).funcOk && (K o).fieldsOk op o && ((K o).extended || o.ext == 0#32)))
    (henc : encodeWords (K o) = some (if (K o).extended then [o.toWord op, o.ext] else [o.toWord op])) (bs rest : List Byte)
    (h : (K o).wellFormed = true) (he : encode (K o) = some bs) : decodeInstr (bs ++ rest) = .ok (K o, rest) := by
  have hf : (K o).funcOk = true := by rw [hwf] at h; simp at h; exact h.1.1
  have hx : (K o).extended = true ∨ o.ext = 0#32 := by rw [hwf] at h; simp at h; exact h.2
  rw [encode, henc] at he
  cases hb : (K o).extended with
  | true =>
    simp only [hb, if_true, Option.map_some, List.flatMap_cons, List.flatMap_nil, bytesOfWord, Option.some.injEq] at he
    subst he
    simp only [decodeInstr, List.cons_append, List.nil_append, List.append_nil, wordOfBytes_bytesOfWord, decodeWord_toWord, hdec _ hf, hext, hb,
      decodePair, toWord_op, toWord_f, ofWord_toWord, h, if_true]
  | false =>
    have h0 : o.ext = 0#32 := by simpa [hb] using hx
    simp only [hb, Bool.false_eq_true, if_false, Option.map_some, List.flatMap_cons, List.flatMap_nil, bytesOfWord, Option.some.injEq] at he
    subst he
    have e0 : ({ o with ext := 0#32 } : Ops) = o := by rw [← h0]
    simp only [decodeInstr, List.cons_append, List.nil_append, List.append_nil, wordOfBytes_bytesOfWord, decodeWord_toWord, hdec _ hf, e0, hb, h,
      Bool.false_eq_true, if_false, if_true]

/-- A step whose word is an itinerary word. -/
theorem of_itin (i : Instr) (op : BitVec 6) (c : Itin) (henc : encodeWords i = some [loWord (c.toWord op), hiWord (c.toWord op)])
    (hwf : i.wellFormed = i.itinOk) (hdec : i.itinOk = true → itinOf op.toNat c = some i) (bs rest : List Byte)
    (h : i.wellFormed = true) (he : encode i = some bs) : decodeItinBytes (bs ++ rest) = .ok (i, rest) := by
  rw [hwf] at h
  rw [encode, henc] at he
  simp only [Option.map_some, List.flatMap_cons, List.flatMap_nil, bytesOfWord, Option.some.injEq] at he
  subst he
  simp only [decodeItinBytes, decodeItin, List.cons_append, List.nil_append, List.append_nil, wordOfBytes_bytesOfWord, pairOf_halves, itin_op,
    itin_ofWord_toWord, hdec h, h, if_true]

/-- A step without an encoding. -/
theorem of_none (i : Instr) (henc : encodeWords i = none) {p : Prop} (bs : List Byte) (he : encode i = some bs) : p := by
  rw [encode, henc] at he; exact absurd he (by simp)

/-! ## Function codes -/

theorem f_zero {f : BitVec 4} (h : (f == 0#4) = true) : f.toNat = 0 := by simp only [beq_iff_eq] at h; rw [h]; rfl

theorem f_one {f : BitVec 4} {k : Nat} (h : [k].contains f.toNat = true) : f.toNat = k := by simpa using h

theorem f_two {f : BitVec 4} {k l : Nat} (h : [k, l].contains f.toNat = true) : f.toNat = k ∨ f.toNat = l := by simpa using h

theorem f_three {f : BitVec 4} {k l m : Nat} (h : [k, l, m].contains f.toNat = true) : f.toNat = k ∨ f.toNat = l ∨ f.toNat = m := by simpa using h

theorem f_le {f : BitVec 4} {n : Nat} (h : decide (f.toNat ≤ n) = true) : f.toNat ≤ n := of_decide_eq_true h

theorem meets_flags {c : Itin} {u : ItinUse} {b : Bool} (h : (c.meets u && b) = true) : c.flags &&& ~~~u.flags = u.mode := by
  simp only [Itin.meets, Bool.and_eq_true, beq_iff_eq] at h
  exact h.1.1.1.1.1.1.1

theorem mode_of {fl f m : BitVec 4} {n : Nat} (h : ∀ x : BitVec 4, x &&& ~~~f = m → (x >>> 2).toNat = n) (e : fl &&& ~~~f = m) :
    (fl >>> 2).toNat = n := h fl e

theorem two_of {fl f m : BitVec 4} {b : Bool} (h : ∀ x : BitVec 4, x &&& ~~~f = m → x.getLsbD 2 = b) (e : fl &&& ~~~f = m) :
    fl.getLsbD 2 = b := h fl e

/-! ## Every constructor -/

theorem clauseIssue (hd : Header) : Statement (.clauseIssue hd) := fun bs rest h he => by
  have hw : hd.ok = true := h
  have e : bs = bytesOfWord hd.toWord := by
    have := Option.some.inj he
    simpa using this.symm
  subst e
  show decodeHeaderBytes _ = _
  simp only [decodeHeaderBytes, bytesOfWord, List.cons_append, List.nil_append, wordOfBytes_bytesOfWord, decodeHeader_toWord, hw, if_true]

theorem iadd (o : Ops) : Statement (.iadd o) := fun bs rest h he =>
  of_instr Instr.iadd 0x00#7 o (fun _ => rfl) (fun _ hf => if_pos (f_le hf)) rfl rfl bs rest h he

theorem isub (o : Ops) : Statement (.isub o) := fun bs rest h he =>
  of_instr Instr.isub 0x01#7 o (fun _ => rfl) (fun _ hf => if_pos (f_le hf)) rfl rfl bs rest h he

theorem imul (o : Ops) : Statement (.imul o) := fun bs rest h he =>
  of_instr Instr.imul 0x02#7 o (fun _ => rfl) (fun _ hf => if_pos (f_le hf)) rfl rfl bs rest h he

theorem imac (o : Ops) : Statement (.imac o) := fun bs rest h he =>
  of_instr Instr.imac 0x03#7 o (fun _ => rfl) (fun _ hf => if_pos (f_le hf)) rfl rfl bs rest h he

theorem imin (o : Ops) : Statement (.imin o) := fun bs rest h he =>
  of_instr Instr.imin 0x04#7 o (fun _ => rfl) (fun _ hf => if_pos (f_le hf)) rfl rfl bs rest h he

theorem imax (o : Ops) : Statement (.imax o) := fun bs rest h he =>
  of_instr Instr.imax 0x05#7 o (fun _ => rfl) (fun _ hf => if_pos (f_le hf)) rfl rfl bs rest h he

theorem iabs (o : Ops) : Statement (.iabs o) := fun bs rest h he =>
  of_instr Instr.iabs 0x06#7 o (fun _ => rfl) (fun _ hf => if_pos (f_le hf)) rfl rfl bs rest h he

theorem ineg (o : Ops) : Statement (.ineg o) := fun bs rest h he =>
  of_instr Instr.ineg 0x06#7 o (fun _ => rfl) (fun _ hf => by rcases f_two hf with hf | hf <;> rw [hf] <;> rfl) rfl rfl bs rest h he

theorem andOp (o : Ops) : Statement (.andOp o) := fun bs rest h he =>
  of_instr Instr.andOp 0x07#7 o (fun _ => rfl) (fun _ hf => by rw [f_zero hf]; rfl) rfl rfl bs rest h he

theorem orOp (o : Ops) : Statement (.orOp o) := fun bs rest h he =>
  of_instr Instr.orOp 0x07#7 o (fun _ => rfl) (fun _ hf => by rw [f_one hf]; rfl) rfl rfl bs rest h he

theorem xorOp (o : Ops) : Statement (.xorOp o) := fun bs rest h he =>
  of_instr Instr.xorOp 0x07#7 o (fun _ => rfl) (fun _ hf => by rw [f_one hf]; rfl) rfl rfl bs rest h he

theorem andnOp (o : Ops) : Statement (.andnOp o) := fun bs rest h he =>
  of_instr Instr.andnOp 0x07#7 o (fun _ => rfl) (fun _ hf => by rw [f_one hf]; rfl) rfl rfl bs rest h he

theorem ornOp (o : Ops) : Statement (.ornOp o) := fun bs rest h he =>
  of_instr Instr.ornOp 0x07#7 o (fun _ => rfl) (fun _ hf => by rw [f_one hf]; rfl) rfl rfl bs rest h he

theorem notOp (o : Ops) : Statement (.notOp o) := fun bs rest h he =>
  of_instr Instr.notOp 0x07#7 o (fun _ => rfl) (fun _ hf => by rw [f_one hf]; rfl) rfl rfl bs rest h he

theorem shl (o : Ops) : Statement (.shl o) := fun bs rest h he =>
  of_instr Instr.shl 0x08#7 o (fun _ => rfl) (fun _ hf => by rcases f_two hf with hf | hf <;> rw [hf] <;> rfl) rfl rfl bs rest h he

theorem shr (o : Ops) : Statement (.shr o) := fun bs rest h he =>
  of_instr Instr.shr 0x08#7 o (fun _ => rfl) (fun _ hf => by rcases f_two hf with hf | hf <;> rw [hf] <;> rfl) rfl rfl bs rest h he

theorem sar (o : Ops) : Statement (.sar o) := fun bs rest h he =>
  of_instr Instr.sar 0x08#7 o (fun _ => rfl) (fun _ hf => by rcases f_two hf with hf | hf <;> rw [hf] <;> rfl) rfl rfl bs rest h he

theorem rol (o : Ops) : Statement (.rol o) := fun bs rest h he =>
  of_instr Instr.rol 0x08#7 o (fun _ => rfl) (fun _ hf => by rcases f_two hf with hf | hf <;> rw [hf] <;> rfl) rfl rfl bs rest h he

theorem ones (o : Ops) : Statement (.ones o) := fun bs rest h he =>
  of_instr Instr.ones 0x09#7 o (fun _ => rfl) (fun _ hf => by rw [f_zero hf]; rfl) rfl rfl bs rest h he

theorem clz (o : Ops) : Statement (.clz o) := fun bs rest h he =>
  of_instr Instr.clz 0x09#7 o (fun _ => rfl) (fun _ hf => by rw [f_one hf]; rfl) rfl rfl bs rest h he

theorem ctz (o : Ops) : Statement (.ctz o) := fun bs rest h he =>
  of_instr Instr.ctz 0x09#7 o (fun _ => rfl) (fun _ hf => by rw [f_one hf]; rfl) rfl rfl bs rest h he

theorem bitrev (o : Ops) : Statement (.bitrev o) := fun bs rest h he =>
  of_instr Instr.bitrev 0x09#7 o (fun _ => rfl) (fun _ hf => by rw [f_one hf]; rfl) rfl rfl bs rest h he

theorem bfx (o : Ops) : Statement (.bfx o) := fun bs rest h he =>
  of_instr Instr.bfx 0x0A#7 o (fun _ => rfl) (fun _ hf => if_pos (f_le hf)) rfl rfl bs rest h he

theorem bfi (o : Ops) : Statement (.bfi o) := fun bs rest h he =>
  of_instr Instr.bfi 0x0B#7 o (fun _ => rfl) (fun _ hf => by rw [f_zero hf]; rfl) rfl rfl bs rest h he

theorem icmp (o : Ops) : Statement (.icmp o) := fun bs rest h he =>
  of_instr Instr.icmp 0x0C#7 o (fun _ => rfl) (fun _ hf => if_pos (f_le hf)) rfl rfl bs rest h he

theorem sel (o : Ops) : Statement (.sel o) := fun bs rest h he =>
  of_instr Instr.sel 0x0D#7 o (fun _ => rfl) (fun _ hf => if_pos (by have := o.f.isLt; omega)) rfl rfl bs rest h he

theorem mov (o : Ops) : Statement (.mov o) := fun bs rest h he =>
  of_instr Instr.mov 0x0E#7 o (fun _ => rfl) (fun _ hf => if_pos (f_le hf)) rfl rfl bs rest h he

theorem movs (o : Ops) : Statement (.movs o) := fun bs rest h he =>
  of_instr Instr.movs 0x0F#7 o (fun _ => rfl) (fun _ hf => by rw [f_zero hf]; rfl) rfl rfl bs rest h he

theorem lea (o : Ops) : Statement (.lea o) := fun bs rest h he =>
  of_instr Instr.lea 0x10#7 o (fun _ => rfl) (fun _ hf => if_pos (f_le hf)) rfl rfl bs rest h he

theorem plog (o : Ops) : Statement (.plog o) := fun bs rest h he =>
  of_instr Instr.plog 0x11#7 o (fun _ => rfl) (fun _ hf => if_pos (f_le hf)) rfl rfl bs rest h he

theorem fadd (o : Ops) : Statement (.fadd o) := fun bs rest h he =>
  of_instr Instr.fadd 0x14#7 o (fun _ => rfl) (fun _ hf => if_pos (f_le hf)) rfl rfl bs rest h he

theorem fmul (o : Ops) : Statement (.fmul o) := fun bs rest h he =>
  of_instr Instr.fmul 0x15#7 o (fun _ => rfl) (fun _ hf => if_pos (f_le hf)) rfl rfl bs rest h he

theorem fma (o : Ops) : Statement (.fma o) := fun bs rest h he =>
  of_instr Instr.fma 0x16#7 o (fun _ => rfl) (fun _ hf => if_pos (f_le hf)) rfl rfl bs rest h he

theorem fmin (o : Ops) : Statement (.fmin o) := fun bs rest h he =>
  of_instr Instr.fmin 0x17#7 o (fun _ => rfl) (fun _ hf => if_pos (f_le hf)) rfl rfl bs rest h he

theorem fmax (o : Ops) : Statement (.fmax o) := fun bs rest h he =>
  of_instr Instr.fmax 0x18#7 o (fun _ => rfl) (fun _ hf => if_pos (f_le hf)) rfl rfl bs rest h he

theorem famax (o : Ops) : Statement (.famax o) := fun bs rest h he =>
  of_instr Instr.famax 0x18#7 o (fun _ => rfl) (fun _ hf => by rw [f_one hf]; rfl) rfl rfl bs rest h he

theorem fcmp (o : Ops) : Statement (.fcmp o) := fun bs rest h he =>
  of_instr Instr.fcmp 0x19#7 o (fun _ => rfl) (fun _ hf => if_pos (f_le hf)) rfl rfl bs rest h he

theorem fabs (o : Ops) : Statement (.fabs o) := fun bs rest h he =>
  of_instr Instr.fabs 0x1A#7 o (fun _ => rfl) (fun _ hf => by rcases f_three hf with hf | hf | hf <;> rw [hf] <;> rfl) rfl rfl bs rest h he

theorem fneg (o : Ops) : Statement (.fneg o) := fun bs rest h he =>
  of_instr Instr.fneg 0x1A#7 o (fun _ => rfl) (fun _ hf => by rcases f_three hf with hf | hf | hf <;> rw [hf] <;> rfl) rfl rfl bs rest h he

theorem fcopys (o : Ops) : Statement (.fcopys o) := fun bs rest h he =>
  of_instr Instr.fcopys 0x1A#7 o (fun _ => rfl) (fun _ hf => by rcases f_three hf with hf | hf | hf <;> rw [hf] <;> rfl) rfl rfl bs rest h he

theorem cvt (o : Ops) : Statement (.cvt o) := fun bs rest h he =>
  of_instr Instr.cvt 0x1B#7 o (fun _ => rfl) (fun _ hf => if_pos (f_le hf)) rfl rfl bs rest h he

theorem rcp (o : Ops) : Statement (.rcp o) := fun bs rest h he =>
  of_instr Instr.rcp 0x1C#7 o (fun _ => rfl) (fun _ hf => by rw [f_zero hf]; rfl) rfl rfl bs rest h he

theorem rsq (o : Ops) : Statement (.rsq o) := fun bs rest h he =>
  of_instr Instr.rsq 0x1C#7 o (fun _ => rfl) (fun _ hf => by rw [f_one hf]; rfl) rfl rfl bs rest h he

theorem sqrt (o : Ops) : Statement (.sqrt o) := fun bs rest h he =>
  of_instr Instr.sqrt 0x1C#7 o (fun _ => rfl) (fun _ hf => by rw [f_one hf]; rfl) rfl rfl bs rest h he

theorem exp2 (o : Ops) : Statement (.exp2 o) := fun bs rest h he =>
  of_instr Instr.exp2 0x1C#7 o (fun _ => rfl) (fun _ hf => by rw [f_one hf]; rfl) rfl rfl bs rest h he

theorem log2 (o : Ops) : Statement (.log2 o) := fun bs rest h he =>
  of_instr Instr.log2 0x1C#7 o (fun _ => rfl) (fun _ hf => by rw [f_one hf]; rfl) rfl rfl bs rest h he

theorem sin (o : Ops) : Statement (.sin o) := fun bs rest h he =>
  of_instr Instr.sin 0x1C#7 o (fun _ => rfl) (fun _ hf => by rw [f_one hf]; rfl) rfl rfl bs rest h he

theorem cos (o : Ops) : Statement (.cos o) := fun bs rest h he =>
  of_instr Instr.cos 0x1C#7 o (fun _ => rfl) (fun _ hf => by rw [f_one hf]; rfl) rfl rfl bs rest h he

theorem tanh (o : Ops) : Statement (.tanh o) := fun bs rest h he =>
  of_instr Instr.tanh 0x1C#7 o (fun _ => rfl) (fun _ hf => by rw [f_one hf]; rfl) rfl rfl bs rest h he

theorem qscale (o : Ops) : Statement (.qscale o) := fun bs rest h he =>
  of_instr Instr.qscale 0x1D#7 o (fun _ => rfl) (fun _ hf => by rw [f_zero hf]; rfl) rfl rfl bs rest h he

theorem qpack (o : Ops) : Statement (.qpack o) := fun bs rest h he =>
  of_instr Instr.qpack 0x1E#7 o (fun _ => rfl) (fun _ hf => if_pos (f_le hf)) rfl rfl bs rest h he

theorem qunpk (o : Ops) : Statement (.qunpk o) := fun bs rest h he =>
  of_instr Instr.qunpk 0x1F#7 o (fun _ => rfl) (fun _ hf => if_pos (by
    have hf : (!([7, 15].contains o.f.toNat)) = true := hf
    simpa using hf)) rfl rfl bs rest h he

theorem lxch (o : Ops) : Statement (.lxch o) := fun bs rest h he =>
  of_instr Instr.lxch 0x20#7 o (fun _ => rfl) (fun _ hf => if_pos (f_le hf)) rfl rfl bs rest h he

theorem lanesAll (o : Ops) : Statement (.lanesAll o) := fun bs rest h he =>
  of_instr Instr.lanesAll 0x21#7 o (fun _ => rfl) (fun _ hf => by rw [f_zero hf]; rfl) rfl rfl bs rest h he

theorem lanesAny (o : Ops) : Statement (.lanesAny o) := fun bs rest h he =>
  of_instr Instr.lanesAny 0x21#7 o (fun _ => rfl) (fun _ hf => by rw [f_one hf]; rfl) rfl rfl bs rest h he

theorem lanesSame (o : Ops) : Statement (.lanesSame o) := fun bs rest h he =>
  of_instr Instr.lanesSame 0x21#7 o (fun _ => rfl) (fun _ hf => by rw [f_one hf]; rfl) rfl rfl bs rest h he

theorem lanesMask (o : Ops) : Statement (.lanesMask o) := fun bs rest h he =>
  of_instr Instr.lanesMask 0x21#7 o (fun _ => rfl) (fun _ hf => by rw [f_one hf]; rfl) rfl rfl bs rest h he

theorem lanesFirst (o : Ops) : Statement (.lanesFirst o) := fun bs rest h he =>
  of_instr Instr.lanesFirst 0x21#7 o (fun _ => rfl) (fun _ hf => by rw [f_one hf]; rfl) rfl rfl bs rest h he

theorem wred (o : Ops) : Statement (.wred o) := fun bs rest h he =>
  of_instr Instr.wred 0x22#7 o (fun _ => rfl) (fun _ hf => if_pos (f_le hf)) rfl rfl bs rest h he

theorem scan (o : Ops) : Statement (.scan o) := fun bs rest h he =>
  of_instr Instr.scan 0x23#7 o (fun _ => rfl) (fun _ hf => if_pos (f_le hf)) rfl rfl bs rest h he

theorem segred (o : Ops) : Statement (.segred o) := fun bs rest h he =>
  of_instr Instr.segred 0x24#7 o (fun _ => rfl) (fun _ hf => if_pos (f_le hf)) rfl rfl bs rest h he

theorem ld (o : Ops) : Statement (.ld o) := fun bs rest h he =>
  of_instr Instr.ld 0x30#7 o (fun _ => rfl) (fun _ hf => if_pos (f_le hf)) rfl rfl bs rest h he

theorem st (o : Ops) : Statement (.st o) := fun bs rest h he =>
  of_instr Instr.st 0x31#7 o (fun _ => rfl) (fun _ hf => if_pos (by
    have hf : [0, 2, 4, 5, 6].contains o.f.toNat = true := hf
    simpa using hf)) rfl rfl bs rest h he

theorem atom (o : Ops) : Statement (.atom o) := fun bs rest h he =>
  of_instr Instr.atom 0x32#7 o (fun _ => rfl) (fun _ hf => if_pos (f_le hf)) rfl rfl bs rest h he

theorem red (o : Ops) : Statement (.red o) := fun bs rest h he =>
  of_instr Instr.red 0x33#7 o (fun _ => rfl) (fun _ hf => if_pos (by
    have hf : (decide (o.f.toNat ≤ 12) && !([8].contains o.f.toNat)) = true := hf
    simpa using hf)) rfl rfl bs rest h he

theorem cas (o : Ops) : Statement (.cas o) := fun bs rest h he =>
  of_instr Instr.cas 0x34#7 o (fun _ => rfl) (fun _ hf => by rw [f_zero hf]; rfl) rfl rfl bs rest h he

theorem pref (o : Ops) : Statement (.pref o) := fun bs rest h he =>
  of_instr Instr.pref 0x35#7 o (fun _ => rfl) (fun _ hf => if_pos (f_le hf)) rfl rfl bs rest h he

theorem stashMap (o : Ops) : Statement (.stashMap o) := fun bs rest h he =>
  of_instr Instr.stashMap 0x36#7 o (fun _ => rfl) (fun _ hf => by rw [f_zero hf]; rfl) rfl rfl bs rest h he

theorem stashUnmap (o : Ops) : Statement (.stashUnmap o) := fun bs rest h he =>
  of_instr Instr.stashUnmap 0x36#7 o (fun _ => rfl) (fun _ hf => by rw [f_one hf]; rfl) rfl rfl bs rest h he

theorem stashFlush (o : Ops) : Statement (.stashFlush o) := fun bs rest h he =>
  of_instr Instr.stashFlush 0x36#7 o (fun _ => rfl) (fun _ hf => by rw [f_one hf]; rfl) rfl rfl bs rest h he

theorem stashInv (o : Ops) : Statement (.stashInv o) := fun bs rest h he =>
  of_instr Instr.stashInv 0x36#7 o (fun _ => rfl) (fun _ hf => by rw [f_one hf]; rfl) rfl rfl bs rest h he

theorem stashClean (o : Ops) : Statement (.stashClean o) := fun bs rest h he =>
  of_instr Instr.stashClean 0x36#7 o (fun _ => rfl) (fun _ hf => by rw [f_one hf]; rfl) rfl rfl bs rest h he

theorem waita (o : Ops) : Statement (.waita o) := fun bs rest h he =>
  of_instr Instr.waita 0x37#7 o (fun _ => rfl) (fun _ hf => if_pos (f_le hf)) rfl rfl bs rest h he

theorem fence (o : Ops) : Statement (.fence o) := fun bs rest h he =>
  of_instr Instr.fence 0x38#7 o (fun _ => rfl) (fun _ hf => if_pos (f_le hf)) rfl rfl bs rest h he

theorem pfence (o : Ops) : Statement (.pfence o) := fun bs rest h he =>
  of_instr Instr.pfence 0x39#7 o (fun _ => rfl) (fun _ hf => if_pos (by
    have hf : (decide (o.f.toNat ≤ 7) && !([0].contains o.f.toNat)) = true := hf
    simp at hf
    omega)) rfl rfl bs rest h he

theorem qfence (o : Ops) : Statement (.qfence o) := fun bs rest h he =>
  of_instr Instr.qfence 0x3A#7 o (fun _ => rfl) (fun _ hf => by rw [f_zero hf]; rfl) rfl rfl bs rest h he

theorem barArrive (o : Ops) : Statement (.barArrive o) := fun bs rest h he =>
  of_instr Instr.barArrive 0x3B#7 o (fun _ => rfl) (fun _ hf => by rw [f_zero hf]; rfl) rfl rfl bs rest h he

theorem barSync (o : Ops) : Statement (.barSync o) := fun bs rest h he =>
  of_instr Instr.barSync 0x3B#7 o (fun _ => rfl) (fun _ hf => by rw [f_one hf]; rfl) rfl rfl bs rest h he

theorem barSyncPath (o : Ops) : Statement (.barSyncPath o) := fun bs rest h he =>
  of_instr Instr.barSyncPath 0x3B#7 o (fun _ => rfl) (fun _ hf => by rw [f_one hf]; rfl) rfl rfl bs rest h he

theorem ringw (o : Ops) : Statement (.ringw o) := fun bs rest h he =>
  of_instr Instr.ringw 0x3C#7 o (fun _ => rfl) (fun _ hf => if_pos (by
    have hf : (decide (o.f.toNat ≤ 1) && o.a == 61#6) = true := hf
    simpa using hf)) rfl rfl bs rest h he

theorem ringwCfg (o : Ops) : Statement (.ringwCfg o) := fun bs rest h he =>
  of_instr Instr.ringwCfg 0x3C#7 o (fun _ => rfl) (fun _ hf => by
    have hf : (decide (o.f.toNat ≤ 1) && o.a != 61#6) = true := hf
    simp only [Bool.and_eq_true, decide_eq_true_eq, bne_iff_ne, ne_eq] at hf
    exact (if_neg (fun h => hf.2 h.2)).trans (if_pos hf.1)) rfl rfl bs rest h he

theorem ringa (o : Ops) : Statement (.ringa o) := fun bs rest h he =>
  of_instr Instr.ringa 0x3D#7 o (fun _ => rfl) (fun _ hf => if_pos (f_le hf)) rfl rfl bs rest h he

theorem ringaComplete (w : WarpId) : Statement (.ringaComplete w) := fun bs _ _ he => of_none _ rfl bs he

theorem mmaBf16 (o : Ops) : Statement (.mmaBf16 o) := fun bs rest h he =>
  of_instr Instr.mmaBf16 0x40#7 o (fun _ => rfl) (fun _ hf => by rw [f_zero hf]; rfl) rfl rfl bs rest h he

theorem mmaF16 (o : Ops) : Statement (.mmaF16 o) := fun bs rest h he =>
  of_instr Instr.mmaF16 0x41#7 o (fun _ => rfl) (fun _ hf => by rw [f_zero hf]; rfl) rfl rfl bs rest h he

theorem mmaNi (o : Ops) : Statement (.mmaNi o) := fun bs rest h he =>
  of_instr Instr.mmaNi 0x42#7 o (fun _ => rfl) (fun _ hf => if_pos (f_le hf)) rfl rfl bs rest h he

theorem accz (o : Ops) : Statement (.accz o) := fun bs rest h he =>
  of_instr Instr.accz 0x43#7 o (fun _ => rfl) (fun _ hf => by rw [f_zero hf]; rfl) rfl rfl bs rest h he

theorem accld (o : Ops) : Statement (.accld o) := fun bs rest h he =>
  of_instr Instr.accld 0x44#7 o (fun _ => rfl) (fun _ hf => if_pos (f_le hf)) rfl rfl bs rest h he

theorem accst (o : Ops) : Statement (.accst o) := fun bs rest h he =>
  of_instr Instr.accst 0x45#7 o (fun _ => rfl) (fun _ hf => if_pos (f_le hf)) rfl rfl bs rest h he

theorem mmaRelease (wg : Nat) : Statement (.mmaRelease wg) := fun bs _ _ he => of_none _ rfl bs he

theorem mmaStep (pair : Nat) : Statement (.mmaStep pair) := fun bs _ _ he => of_none _ rfl bs he

theorem accTurn (wg : Nat) : Statement (.accTurn wg) := fun bs _ _ he => of_none _ rfl bs he

theorem clovePattern (pair : Nat) (failed : BitVec 8) : Statement (.clovePattern pair failed) := fun bs _ _ he => of_none _ rfl bs he

theorem tcopy (o : Ops) : Statement (.tcopy o) := fun bs rest h he =>
  of_instr Instr.tcopy 0x50#7 o (fun _ => rfl) (fun _ hf => by rw [f_zero hf]; rfl) rfl rfl bs rest h he

theorem tgath (o : Ops) : Statement (.tgath o) := fun bs rest h he =>
  of_instr Instr.tgath 0x51#7 o (fun _ => rfl) (fun _ hf => by rw [f_zero hf]; rfl) rfl rfl bs rest h he

theorem tscat (o : Ops) : Statement (.tscat o) := fun bs rest h he =>
  of_instr Instr.tscat 0x52#7 o (fun _ => rfl) (fun _ hf => by rw [f_zero hf]; rfl) rfl rfl bs rest h he

theorem twalk (o : Ops) : Statement (.twalk o) := fun bs rest h he =>
  of_instr Instr.twalk 0x53#7 o (fun _ => rfl) (fun _ hf => if_pos (f_le hf)) rfl rfl bs rest h he

theorem itin (o : Ops) : Statement (.itin o) := fun bs rest h he =>
  of_instr Instr.itin 0x54#7 o (fun _ => rfl) (fun _ hf => by rw [f_zero hf]; rfl) rfl rfl bs rest h he

theorem porterCommandStart (wg queue : Nat) : Statement (.porterCommandStart wg queue) := fun bs _ _ he => of_none _ rfl bs he

theorem porterCommandComplete (wg queue : Nat) : Statement (.porterCommandComplete wg queue) := fun bs _ _ he => of_none _ rfl bs he

theorem braLane (o : Ops) : Statement (.braLane o) := fun bs rest h he =>
  of_instr Instr.braLane 0x60#7 o (fun _ => rfl) (fun _ hf => by rw [f_zero hf]; rfl) rfl rfl bs rest h he

theorem braLead (o : Ops) : Statement (.braLead o) := fun bs rest h he =>
  of_instr Instr.braLead 0x60#7 o (fun _ => rfl) (fun _ hf => by rw [f_one hf]; rfl) rfl rfl bs rest h he

theorem braSplit (o : Ops) : Statement (.braSplit o) := fun bs rest h he =>
  of_instr Instr.braSplit 0x60#7 o (fun _ => rfl) (fun _ hf => by rw [f_one hf]; rfl) rfl rfl bs rest h he

theorem jmpx (o : Ops) : Statement (.jmpx o) := fun bs rest h he =>
  of_instr Instr.jmpx 0x61#7 o (fun _ => rfl) (fun _ hf => by rw [f_zero hf]; rfl) rfl rfl bs rest h he

theorem call (o : Ops) : Statement (.call o) := fun bs rest h he =>
  of_instr Instr.call 0x62#7 o (fun _ => rfl) (fun _ hf => by rw [f_zero hf]; rfl) rfl rfl bs rest h he

theorem callx (o : Ops) : Statement (.callx o) := fun bs rest h he =>
  of_instr Instr.callx 0x63#7 o (fun _ => rfl) (fun _ hf => by rw [f_zero hf]; rfl) rfl rfl bs rest h he

theorem ret (o : Ops) : Statement (.ret o) := fun bs rest h he =>
  of_instr Instr.ret 0x64#7 o (fun _ => rfl) (fun _ hf => by rw [f_zero hf]; rfl) rfl rfl bs rest h he

theorem lpad (o : Ops) : Statement (.lpad o) := fun bs rest h he =>
  of_instr Instr.lpad 0x65#7 o (fun _ => rfl) (fun _ hf => by rw [f_zero hf]; rfl) rfl rfl bs rest h he

theorem exit (o : Ops) : Statement (.exit o) := fun bs rest h he =>
  of_instr Instr.exit 0x66#7 o (fun _ => rfl) (fun _ hf => by rw [f_zero hf]; rfl) rfl rfl bs rest h he

theorem yieldOp (o : Ops) : Statement (.yieldOp o) := fun bs rest h he =>
  of_instr Instr.yieldOp 0x67#7 o (fun _ => rfl) (fun _ hf => by rw [f_zero hf]; rfl) rfl rfl bs rest h he

theorem nop (o : Ops) : Statement (.nop o) := fun bs rest h he =>
  of_instr Instr.nop 0x68#7 o (fun _ => rfl) (fun _ hf => by rw [f_zero hf]; rfl) rfl rfl bs rest h he

theorem macroRun (o : Ops) : Statement (.macroRun o) := fun bs rest h he =>
  of_instr Instr.macroRun 0x69#7 o (fun _ => rfl) (fun _ hf => by rw [f_zero hf]; rfl) rfl rfl bs rest h he

theorem launch (o : Ops) : Statement (.launch o) := fun bs rest h he =>
  of_instr Instr.launch 0x6A#7 o (fun _ => rfl) (fun _ hf => by rw [f_zero hf]; rfl) rfl rfl bs rest h he

theorem waitkids (o : Ops) : Statement (.waitkids o) := fun bs rest h he =>
  of_instr Instr.waitkids 0x6B#7 o (fun _ => rfl) (fun _ hf => by rw [f_zero hf]; rfl) rfl rfl bs rest h he

theorem tfence (o : Ops) : Statement (.tfence o) := fun bs rest h he =>
  of_instr Instr.tfence 0x6C#7 o (fun _ => rfl) (fun _ hf => by rw [f_zero hf]; rfl) rfl rfl bs rest h he

theorem isync (o : Ops) : Statement (.isync o) := fun bs rest h he =>
  of_instr Instr.isync 0x6D#7 o (fun _ => rfl) (fun _ hf => by rw [f_zero hf]; rfl) rfl rfl bs rest h he

theorem trap (o : Ops) : Statement (.trap o) := fun bs rest h he =>
  of_instr Instr.trap 0x6E#7 o (fun _ => rfl) (fun _ hf => by rw [f_zero hf]; rfl) rfl rfl bs rest h he

theorem bkpt (o : Ops) : Statement (.bkpt o) := fun bs rest h he =>
  of_instr Instr.bkpt 0x6F#7 o (fun _ => rfl) (fun _ hf => by rw [f_zero hf]; rfl) rfl rfl bs rest h he

theorem srd (o : Ops) : Statement (.srd o) := fun bs rest h he =>
  of_instr Instr.srd 0x70#7 o (fun _ => rfl) (fun _ hf => by rw [f_zero hf]; rfl) rfl rfl bs rest h he

theorem swr (o : Ops) : Statement (.swr o) := fun bs rest h he =>
  of_instr Instr.swr 0x71#7 o (fun _ => rfl) (fun _ hf => by rw [f_zero hf]; rfl) rfl rfl bs rest h he

theorem purseGet (o : Ops) : Statement (.purseGet o) := fun bs rest h he =>
  of_instr Instr.purseGet 0x72#7 o (fun _ => rfl) (fun _ hf => by rw [f_zero hf]; rfl) rfl rfl bs rest h he

theorem purseSplit (o : Ops) : Statement (.purseSplit o) := fun bs rest h he =>
  of_instr Instr.purseSplit 0x72#7 o (fun _ => rfl) (fun _ hf => by rw [f_one hf]; rfl) rfl rfl bs rest h he

theorem purseAdd (o : Ops) : Statement (.purseAdd o) := fun bs rest h he =>
  of_instr Instr.purseAdd 0x72#7 o (fun _ => rfl) (fun _ hf => by rw [f_one hf]; rfl) rfl rfl bs rest h he

theorem purseSetrest (o : Ops) : Statement (.purseSetrest o) := fun bs rest h he =>
  of_instr Instr.purseSetrest 0x72#7 o (fun _ => rfl) (fun _ hf => by rw [f_one hf]; rfl) rfl rfl bs rest h he

theorem mcload (o : Ops) : Statement (.mcload o) := fun bs rest h he =>
  of_instr Instr.mcload 0x73#7 o (fun _ => rfl) (fun _ hf => by rw [f_zero hf]; rfl) rfl rfl bs rest h he

theorem tret (o : Ops) : Statement (.tret o) := fun bs rest h he =>
  of_instr Instr.tret 0x74#7 o (fun _ => rfl) (fun _ hf => by rw [f_zero hf]; rfl) rfl rfl bs rest h he

theorem variableResultReturn (w : WarpId) (id : Nat) : Statement (.variableResultReturn w id) := fun bs _ _ he => of_none _ rfl bs he

theorem memoryReply (req : Nat) (r : Reply) : Statement (.memoryReply req r) := fun bs _ _ he => of_none _ rfl bs he

theorem handlerEntry (w : WarpId) : Statement (.handlerEntry w) := fun bs _ _ he => of_none _ rfl bs he

theorem activeSetSwap (core partition : Nat) : Statement (.activeSetSwap core partition) := fun bs _ _ he => of_none _ rfl bs he

theorem formedWarpEmit (wg : Nat) (target : Word) : Statement (.formedWarpEmit wg target) := fun bs _ _ he => of_none _ rfl bs he

theorem formerTimeout (wg : Nat) (target : Word) : Statement (.formerTimeout wg target) := fun bs _ _ he => of_none _ rfl bs he

theorem waitaWake (w : WarpId) : Statement (.waitaWake w) := fun bs _ _ he => of_none _ rfl bs he

theorem waitaPeriodicWake (w : WarpId) : Statement (.waitaPeriodicWake w) := fun bs _ _ he => of_none _ rfl bs he

theorem graceExhaustion (wg : Nat) : Statement (.graceExhaustion wg) := fun bs _ _ he => of_none _ rfl bs he

theorem forcedYield (wg : Nat) : Statement (.forcedYield wg) := fun bs _ _ he => of_none _ rfl bs he

theorem workgroupSave (wg : Nat) : Statement (.workgroupSave wg) := fun bs _ _ he => of_none _ rfl bs he

theorem workgroupPlace (wg core : Nat) : Statement (.workgroupPlace wg core) := fun bs _ _ he => of_none _ rfl bs he

theorem workgroupComplete (wg : Nat) : Statement (.workgroupComplete wg) := fun bs _ _ he => of_none _ rfl bs he

theorem notify (queue : Nat) (index : DWord) : Statement (.notify queue index) := fun bs _ _ he => of_none _ rfl bs he

theorem gridPacket (packet : Nat) : Statement (.gridPacket packet) := fun bs _ _ he => of_none _ rfl bs he

theorem barrierAndPacket (packet : Nat) : Statement (.barrierAndPacket packet) := fun bs _ _ he => of_none _ rfl bs he

theorem dependencyRead (packet : Nat) : Statement (.dependencyRead packet) := fun bs _ _ he => of_none _ rfl bs he

theorem itineraryPacket (packet : Nat) : Statement (.itineraryPacket packet) := fun bs _ _ he => of_none _ rfl bs he

theorem packetComplete (packet : Nat) : Statement (.packetComplete packet) := fun bs _ _ he => of_none _ rfl bs he

theorem hostFaultRecordPost  : Statement (.hostFaultRecordPost) := fun bs _ _ he => of_none _ rfl bs he

theorem own (req : Nat) : Statement (.own req) := fun bs _ _ he => of_none _ rfl bs he

theorem wi (req : Nat) : Statement (.wi req) := fun bs _ _ he => of_none _ rfl bs he

theorem si (req : Nat) : Statement (.si req) := fun bs _ _ he => of_none _ rfl bs he

theorem wtr (req : Nat) : Statement (.wtr req) := fun bs _ _ he => of_none _ rfl bs he

theorem wtw (req : Nat) : Statement (.wtw req) := fun bs _ _ he => of_none _ rfl bs he

theorem atHome (req : Nat) : Statement (.atHome req) := fun bs _ _ he => of_none _ rfl bs he

theorem acc (req : Nat) : Statement (.acc req) := fun bs _ _ he => of_none _ rfl bs he

theorem invalidationAcknowledgement (grain : Nat) (by_ : Party) (inc : Byte) : Statement (.invalidationAcknowledgement grain by_ inc) := fun bs _ _ he => of_none _ rfl bs he

theorem recallAnswer (grain : Nat) (by_ : Party) (has : Bool) (bytes : List Host.Cell) (inc : Byte) : Statement (.recallAnswer grain by_ has bytes inc) := fun bs _ _ he => of_none _ rfl bs he

theorem writeBack (grain : Nat) (by_ : Party) (ver : Byte) (bytes : List Host.Cell) (inc : Byte) : Statement (.writeBack grain by_ ver bytes inc) := fun bs _ _ he => of_none _ rfl bs he

theorem partialReturn (grain : Nat) (by_ : Party) (words : List (Nat × Nat)) (inc : Byte) : Statement (.partialReturn grain by_ words inc) := fun bs _ _ he => of_none _ rfl bs he

theorem cleanEvictionNotice (grain : Nat) (by_ : Party) (inc : Byte) : Statement (.cleanEvictionNotice grain by_ inc) := fun bs _ _ he => of_none _ rfl bs he

theorem invalidation (grain : Nat) (target : Party) : Statement (.invalidation grain target) := fun bs _ _ he => of_none _ rfl bs he

theorem recallHeld (grain : Nat) (target : Party) (toT : Bool) : Statement (.recallHeld grain target toT) := fun bs _ _ he => of_none _ rfl bs he

theorem cancelled (grain : Nat) (target : Party) : Statement (.cancelled grain target) := fun bs _ _ he => of_none _ rfl bs he

theorem coreEviction (core grain : Nat) : Statement (.coreEviction core grain) := fun bs _ _ he => of_none _ rfl bs he

theorem tileDirectoryEviction (tile grain : Nat) : Statement (.tileDirectoryEviction tile grain) := fun bs _ _ he => of_none _ rfl bs he

theorem recallTimeout (grain : Nat) : Statement (.recallTimeout grain) := fun bs _ _ he => of_none _ rfl bs he

theorem waystationArrival (stage req : Nat) : Statement (.waystationArrival stage req) := fun bs _ _ he => of_none _ rfl bs he

theorem replySplit (wb : Ticket) (r : Reply) : Statement (.replySplit wb r) := fun bs _ _ he => of_none _ rfl bs he

theorem split (wb : Ticket) : Statement (.split wb) := fun bs _ _ he => of_none _ rfl bs he

theorem waybillTimeout (wb : Ticket) : Statement (.waybillTimeout wb) := fun bs _ _ he => of_none _ rfl bs he

theorem apertureLoad (req : Nat) : Statement (.apertureLoad req) := fun bs _ _ he => of_none _ rfl bs he

theorem memberReadReply (slot member : Nat) : Statement (.memberReadReply slot member) := fun bs _ _ he => of_none _ rfl bs he

theorem memberReread (slot member : Nat) : Statement (.memberReread slot member) := fun bs _ _ he => of_none _ rfl bs he

theorem slotTimeout (slot : Nat) : Statement (.slotTimeout slot) := fun bs _ _ he => of_none _ rfl bs he

theorem flitReceive (port : Nat) (f : Flit) : Statement (.flitReceive port f) := fun bs _ _ he => of_none _ rfl bs he

theorem nak (port : Nat) (seq : Byte) : Statement (.nak port seq) := fun bs _ _ he => of_none _ rfl bs he

theorem flitAcknowledgement (port : Nat) (seq : Byte) : Statement (.flitAcknowledgement port seq) := fun bs _ _ he => of_none _ rfl bs he

theorem groupFillTimeout (port : Nat) : Statement (.groupFillTimeout port) := fun bs _ _ he => of_none _ rfl bs he

theorem verdict (port msg : Nat) (pass : Bool) : Statement (.verdict port msg pass) := fun bs _ _ he => of_none _ rfl bs he

theorem rotationComplete (port : Nat) : Statement (.rotationComplete port) := fun bs _ _ he => of_none _ rfl bs he

theorem drainMarker (port round : Nat) : Statement (.drainMarker port round) := fun bs _ _ he => of_none _ rfl bs he

theorem drainComplete (pkg : Nat) : Statement (.drainComplete pkg) := fun bs _ _ he => of_none _ rfl bs he

theorem ualinkRequest (r : PeerReq) : Statement (.ualinkRequest r) := fun bs _ _ he => of_none _ rfl bs he

theorem peerTimeout (req : Nat) : Statement (.peerTimeout req) := fun bs _ _ he => of_none _ rfl bs he

theorem companionLinkFailure  : Statement (.companionLinkFailure) := fun bs _ _ he => of_none _ rfl bs he

theorem invalidationComplete (inv : Nat) : Statement (.invalidationComplete inv) := fun bs _ _ he => of_none _ rfl bs he

theorem vacateComplete (cmd : Nat) : Statement (.vacateComplete cmd) := fun bs _ _ he => of_none _ rfl bs he

theorem powerGrant (tile : Nat) : Statement (.powerGrant tile) := fun bs _ _ he => of_none _ rfl bs he

theorem send (c : Itin) : Statement (.send c) := fun bs rest h he =>
  of_itin (.send c) 0x01#6 c rfl rfl (fun _ => rfl) bs rest h he

theorem recv (c : Itin) : Statement (.recv c) := fun bs rest h he =>
  of_itin (.recv c) 0x02#6 c rfl rfl (fun _ => rfl) bs rest h he

theorem recvred (c : Itin) : Statement (.recvred c) := fun bs rest h he =>
  of_itin (.recvred c) 0x03#6 c rfl rfl (fun _ => rfl) bs rest h he

theorem reduce (c : Itin) : Statement (.reduce c) := fun bs rest h he =>
  of_itin (.reduce c) 0x04#6 c rfl rfl (fun _ => rfl) bs rest h he

theorem copy (c : Itin) : Statement (.copy c) := fun bs rest h he =>
  of_itin (.copy c) 0x05#6 c rfl rfl (fun _ => rfl) bs rest h he

theorem mcast (c : Itin) : Statement (.mcast c) := fun bs rest h he =>
  of_itin (.mcast c) 0x06#6 c rfl rfl (fun _ => rfl) bs rest h he

theorem waitSig (c : Itin) : Statement (.waitSig c) := fun bs rest h he =>
  of_itin (.waitSig c) 0x07#6 c rfl rfl (fun hw => by
    have hk : (c.flags >>> 2).toNat = 0 := mode_of (f := 3#4) (m := 0#4) (by decide) (meets_flags hw)
    show (if (c.flags >>> 2).toNat = 0 then _ else _) = _
    rw [hk]; rfl) bs rest h he

theorem waitFlag (c : Itin) : Statement (.waitFlag c) := fun bs rest h he =>
  of_itin (.waitFlag c) 0x07#6 c rfl rfl (fun hw => by
    have hk : (c.flags >>> 2).toNat = 1 := mode_of (f := 0#4) (m := 4#4) (by decide) (meets_flags hw)
    show (if (c.flags >>> 2).toNat = 0 then _ else _) = _
    rw [hk]; rfl) bs rest h he

theorem waitSent (c : Itin) : Statement (.waitSent c) := fun bs rest h he =>
  of_itin (.waitSent c) 0x07#6 c rfl rfl (fun hw => by
    have hk : (c.flags >>> 2).toNat = 2 := mode_of (f := 0#4) (m := 8#4) (by decide) (meets_flags hw)
    show (if (c.flags >>> 2).toNat = 0 then _ else _) = _
    rw [hk]; rfl) bs rest h he

theorem signalPeer (c : Itin) : Statement (.signalPeer c) := fun bs rest h he =>
  of_itin (.signalPeer c) 0x08#6 c rfl rfl (fun hw => by
    have hk : (c.flags >>> 2).toNat = 0 := mode_of (f := 3#4) (m := 0#4) (by decide) (meets_flags hw)
    show (if (c.flags >>> 2).toNat = 0 then _ else _) = _
    rw [hk]; rfl) bs rest h he

theorem signalSet (c : Itin) : Statement (.signalSet c) := fun bs rest h he =>
  of_itin (.signalSet c) 0x08#6 c rfl rfl (fun hw => by
    have hk : (c.flags >>> 2).toNat = 1 := mode_of (f := 0#4) (m := 4#4) (by decide) (meets_flags hw)
    show (if (c.flags >>> 2).toNat = 0 then _ else _) = _
    rw [hk]; rfl) bs rest h he

theorem signalAdd (c : Itin) : Statement (.signalAdd c) := fun bs rest h he =>
  of_itin (.signalAdd c) 0x08#6 c rfl rfl (fun hw => by
    have hk : (c.flags >>> 2).toNat = 2 := mode_of (f := 0#4) (m := 8#4) (by decide) (meets_flags hw)
    show (if (c.flags >>> 2).toNat = 0 then _ else _) = _
    rw [hk]; rfl) bs rest h he

theorem setc (c : Itin) : Statement (.setc c) := fun bs rest h he =>
  of_itin (.setc c) 0x09#6 c rfl rfl (fun hw => by
    have hk : (c.flags >>> 2).toNat = 0 := mode_of (f := 0#4) (m := 0#4) (by decide) (meets_flags hw)
    show (if (c.flags >>> 2).toNat = 0 then _ else _) = _
    rw [hk]; rfl) bs rest h he

theorem setcRank (c : Itin) : Statement (.setcRank c) := fun bs rest h he =>
  of_itin (.setcRank c) 0x09#6 c rfl rfl (fun hw => by
    have hk : (c.flags >>> 2).toNat = 1 := mode_of (f := 0#4) (m := 4#4) (by decide) (meets_flags hw)
    show (if (c.flags >>> 2).toNat = 0 then _ else _) = _
    rw [hk]; rfl) bs rest h he

theorem setcCopy (c : Itin) : Statement (.setcCopy c) := fun bs rest h he =>
  of_itin (.setcCopy c) 0x09#6 c rfl rfl (fun hw => by
    have hk : (c.flags >>> 2).toNat = 2 := mode_of (f := 0#4) (m := 8#4) (by decide) (meets_flags hw)
    show (if (c.flags >>> 2).toNat = 0 then _ else _) = _
    rw [hk]; rfl) bs rest h he

theorem addc (c : Itin) : Statement (.addc c) := fun bs rest h he =>
  of_itin (.addc c) 0x0A#6 c rfl rfl (fun hw => by
    have hk : c.flags.getLsbD 2 = false := two_of (f := 0#4) (m := 0#4) (by decide) (meets_flags hw)
    show (if c.flags.getLsbD 2 = true then _ else _) = _
    rw [hk]; rfl) bs rest h he

theorem addcWrap (c : Itin) : Statement (.addcWrap c) := fun bs rest h he =>
  of_itin (.addcWrap c) 0x0A#6 c rfl rfl (fun hw => by
    have hk : c.flags.getLsbD 2 = true := two_of (f := 0#4) (m := 4#4) (by decide) (meets_flags hw)
    show (if c.flags.getLsbD 2 = true then _ else _) = _
    rw [hk]; rfl) bs rest h he

theorem loop (c : Itin) : Statement (.loop c) := fun bs rest h he =>
  of_itin (.loop c) 0x0B#6 c rfl rfl (fun hw => by
    have hk : c.flags.getLsbD 2 = false := two_of (f := 0#4) (m := 0#4) (by decide) (meets_flags hw)
    show (if c.flags.getLsbD 2 = true then _ else _) = _
    rw [hk]; rfl) bs rest h he

theorem loopGrp (c : Itin) : Statement (.loopGrp c) := fun bs rest h he =>
  of_itin (.loopGrp c) 0x0B#6 c rfl rfl (fun hw => by
    have hk : c.flags.getLsbD 2 = true := two_of (f := 0#4) (m := 4#4) (by decide) (meets_flags hw)
    show (if c.flags.getLsbD 2 = true then _ else _) = _
    rw [hk]; rfl) bs rest h he

theorem endl (c : Itin) : Statement (.endl c) := fun bs rest h he =>
  of_itin (.endl c) 0x0C#6 c rfl rfl (fun _ => rfl) bs rest h he

theorem brc (c : Itin) : Statement (.brc c) := fun bs rest h he =>
  of_itin (.brc c) 0x0D#6 c rfl rfl (fun hw => by
    have hk : c.flags.getLsbD 2 = false := two_of (f := 3#4) (m := 0#4) (by decide) (meets_flags hw)
    show (if c.flags.getLsbD 2 = true then _ else _) = _
    rw [hk]; rfl) bs rest h he

theorem brcRank (c : Itin) : Statement (.brcRank c) := fun bs rest h he =>
  of_itin (.brcRank c) 0x0D#6 c rfl rfl (fun hw => by
    have hk : c.flags.getLsbD 2 = true := two_of (f := 3#4) (m := 4#4) (by decide) (meets_flags hw)
    show (if c.flags.getLsbD 2 = true then _ else _) = _
    rw [hk]; rfl) bs rest h he

theorem joinq (c : Itin) : Statement (.joinq c) := fun bs rest h he =>
  of_itin (.joinq c) 0x0E#6 c rfl rfl (fun _ => rfl) bs rest h he

theorem mark (c : Itin) : Statement (.mark c) := fun bs rest h he =>
  of_itin (.mark c) 0x0F#6 c rfl rfl (fun hw => by
    have hk : c.flags.getLsbD 2 = false := two_of (f := 0#4) (m := 0#4) (by decide) (meets_flags hw)
    show (if c.flags.getLsbD 2 = true then _ else _) = _
    rw [hk]; rfl) bs rest h he

theorem markNocompl (c : Itin) : Statement (.markNocompl c) := fun bs rest h he =>
  of_itin (.markNocompl c) 0x0F#6 c rfl rfl (fun hw => by
    have hk : c.flags.getLsbD 2 = true := two_of (f := 0#4) (m := 4#4) (by decide) (meets_flags hw)
    show (if c.flags.getLsbD 2 = true then _ else _) = _
    rw [hk]; rfl) bs rest h he

theorem halt (c : Itin) : Statement (.halt c) := fun bs rest h he =>
  of_itin (.halt c) 0x10#6 c rfl rfl (fun _ => rfl) bs rest h he

theorem chunkOpComplete  : Statement (.chunkOpComplete) := fun bs _ _ he => of_none _ rfl bs he

theorem grant (m : CtxMsg) : Statement (.grant m) := fun bs _ _ he => of_none _ rfl bs he

theorem chunkData (m : CtxMsg) (bytes : List Byte) : Statement (.chunkData m bytes) := fun bs _ _ he => of_none _ rfl bs he

theorem chunkAcknowledgement (m : CtxMsg) (ok : Bool) : Statement (.chunkAcknowledgement m ok) := fun bs _ _ he => of_none _ rfl bs he

theorem signalArrival (m : CtxMsg) : Statement (.signalArrival m) := fun bs _ _ he => of_none _ rfl bs he

theorem postedReservationRequest (m : PostedReq) : Statement (.postedReservationRequest m) := fun bs _ _ he => of_none _ rfl bs he

theorem postedGrant (piece : Nat) (granted : Bool) : Statement (.postedGrant piece granted) := fun bs _ _ he => of_none _ rfl bs he

theorem watchdog (ctx : Nat) : Statement (.watchdog ctx) := fun bs _ _ he => of_none _ rfl bs he

theorem itineraryFault (w : DWord) : Statement (.itineraryFault w) := fun bs _ _ he => of_none _ rfl bs he

theorem remoteReplyTimeout (req : Nat) : Statement (.remoteReplyTimeout req) := fun bs _ _ he => of_none _ rfl bs he

theorem regq (c : Cmd) (queue : Nat) (desc : DWord) (space : Nat) : Statement (.regq c queue desc space) := fun bs _ _ he => of_none _ rfl bs he

theorem vacate (c : Cmd) (gridid : Word) (list : DWord) : Statement (.vacate c gridid list) := fun bs _ _ he => of_none _ rfl bs he

theorem returnCores (c : Cmd) (gridid : Word) (list : DWord) : Statement (.returnCores c gridid list) := fun bs _ _ he => of_none _ rfl bs he

theorem answerReplay (c : Cmd) (token : DWord) : Statement (.answerReplay c token) := fun bs _ _ he => of_none _ rfl bs he

theorem answerDeliver (c : Cmd) (token : DWord) : Statement (.answerDeliver c token) := fun bs _ _ he => of_none _ rfl bs he

theorem answerAbort (c : Cmd) (token : DWord) : Statement (.answerAbort c token) := fun bs _ _ he => of_none _ rfl bs he

theorem icinv (c : Cmd) : Statement (.icinv c) := fun bs _ _ he => of_none _ rfl bs he

theorem tlbinv (c : Cmd) (space : Nat) (base len : DWord) : Statement (.tlbinv c space base len) := fun bs _ _ he => of_none _ rfl bs he

theorem space (c : Cmd) (num : Nat) (root keys : DWord) : Statement (.space c num root keys) := fun bs _ _ he => of_none _ rfl bs he

theorem groupwr (c : Cmd) (index : Nat) (entry : DWord) : Statement (.groupwr c index entry) := fun bs _ _ he => of_none _ rfl bs he

theorem groupfree (c : Cmd) (index : Nat) : Statement (.groupfree c index) := fun bs _ _ he => of_none _ rfl bs he

theorem ctxfree (c : Cmd) (ctx : Nat) : Statement (.ctxfree c ctx) := fun bs _ _ he => of_none _ rfl bs he

theorem routewr (c : Cmd) (dest : Nat) (entry : DWord) : Statement (.routewr c dest entry) := fun bs _ _ he => of_none _ rfl bs he

theorem keyload (c : Cmd) (port dir slot : Nat) (buffer : DWord) : Statement (.keyload c port dir slot buffer) := fun bs _ _ he => of_none _ rfl bs he

theorem keyrotate (c : Cmd) (port dir : Nat) : Statement (.keyrotate c port dir) := fun bs _ _ he => of_none _ rfl bs he

theorem drain (c : Cmd) : Statement (.drain c) := fun bs _ _ he => of_none _ rfl bs he

theorem abort (c : Cmd) (isCtx : Bool) (target : Word) : Statement (.abort c isCtx target) := fun bs _ _ he => of_none _ rfl bs he

theorem peerwr (c : Cmd) (peer : Nat) (entry : DWord) : Statement (.peerwr c peer entry) := fun bs _ _ he => of_none _ rfl bs he

theorem peerreset (c : Cmd) (peer : Nat) : Statement (.peerreset c peer) := fun bs _ _ he => of_none _ rfl bs he

theorem readctr (c : Cmd) (set : Nat) (dest : DWord) (clear : Bool) : Statement (.readctr c set dest clear) := fun bs _ _ he => of_none _ rfl bs he

theorem fqreg (c : Cmd) (base : DWord) (size : Nat) : Statement (.fqreg c base size) := fun bs _ _ he => of_none _ rfl bs he

theorem declare (c : Cmd) (agent : Incarnate) : Statement (.declare c agent) := fun bs _ _ he => of_none _ rfl bs he

theorem tmoset (c : Cmd) (recallUs replyUs : Nat) : Statement (.tmoset c recallUs replyUs) := fun bs _ _ he => of_none _ rfl bs he

theorem linkmode (c : Cmd) (mode : Nat) : Statement (.linkmode c mode) := fun bs _ _ he => of_none _ rfl bs he

theorem claim (m : Nat) (prio : Byte) (a : DWord) : Statement (.claim m prio a) := fun bs _ _ he => of_none _ rfl bs he

theorem handover (m target : Nat) : Statement (.handover m target) := fun bs _ _ he => of_none _ rfl bs he

theorem accept (m : Nat) : Statement (.accept m) := fun bs _ _ he => of_none _ rfl bs he

theorem handoverExpiry  : Statement (.handoverExpiry) := fun bs _ _ he => of_none _ rfl bs he

theorem region (m num : Nat) (base len : DWord) (pubIsPeer : Bool) (pub : Nat) (verAddr : DWord) : Statement (.region m num base len pubIsPeer pub verAddr) := fun bs _ _ he => of_none _ rfl bs he

theorem publish (fromPeer : Bool) (sender num : Nat) (v : Word) : Statement (.publish fromPeer sender num v) := fun bs _ _ he => of_none _ rfl bs he

theorem keyset (m id : Nat) (key : Nat) : Statement (.keyset m id key) := fun bs _ _ he => of_none _ rfl bs he

theorem setpower (m tile watts : Nat) : Statement (.setpower m tile watts) := fun bs _ _ he => of_none _ rfl bs he

theorem setclove (m steps : Nat) : Statement (.setclove m steps) := fun bs _ _ he => of_none _ rfl bs he

theorem attest (m : Nat) (nonce : Nat) : Statement (.attest m nonce) := fun bs _ _ he => of_none _ rfl bs he

theorem powerGood (signatureOk : Bool) (failedStacks failedPorts : List Nat) : Statement (.powerGood signatureOk failedStacks failedPorts) := fun bs _ _ he => of_none _ rfl bs he

theorem packageReset (signatureOk : Bool) (failedStacks failedPorts : List Nat) : Statement (.packageReset signatureOk failedStacks failedPorts) := fun bs _ _ he => of_none _ rfl bs he

theorem claimWindowClose  : Statement (.claimWindowClose) := fun bs _ _ he => of_none _ rfl bs he

theorem thermalHold (tile : Nat) : Statement (.thermalHold tile) := fun bs _ _ he => of_none _ rfl bs he

theorem thermalThrottle (tile : Nat) : Statement (.thermalThrottle tile) := fun bs _ _ he => of_none _ rfl bs he

theorem thermalTrip (tile : Nat) : Statement (.thermalTrip tile) := fun bs _ _ he => of_none _ rfl bs he

theorem thermalRecovery (tile celsius : Nat) : Statement (.thermalRecovery tile celsius) := fun bs _ _ he => of_none _ rfl bs he

theorem correctedError (onTile : Bool) (n : Nat) : Statement (.correctedError onTile n) := fun bs _ _ he => of_none _ rfl bs he

theorem uncorrectableError (site : ErrorSite) : Statement (.uncorrectableError site) := fun bs _ _ he => of_none _ rfl bs he

theorem hostFaultQueueReadIndex (index : DWord) : Statement (.hostFaultQueueReadIndex index) := fun bs _ _ he => of_none _ rfl bs he

end Sys2Proof.Laws.RoundTrip
end

