-- ==== Sys2Proof/Safety.lean ====
section
/-! DEFINITION. What counts as a safe run: the machine's data stay in canonical form, and the package keeps power. -/

namespace Sys2Proof.Machine

/-- The register and predicate maps of a warp are in canonical form. -/
def Warp.wf (w : Warp) : Bool :=
  FMap.wf 0#32 w.vregs && FMap.wf 0#32 w.kregs && FMap.wf lpcExited w.lpc && FMap.wf 0#32 w.preds && FMap.wf 0 w.tids

/-- The machine has power. -/
def State.powered (s : State) : Bool := !s.pkg.tripped

/-- Home memory is in canonical form. -/
def State.memWf (s : State) : Bool := Memory.wf s.mem

end Sys2Proof.Machine
end

