-- ==== Sys2Proof/Certificates/Slice0/Obligations.lean ====
section
/-! DEFINITION. The statements about the model, for the provers. `Says` holds the predicates they share. -/

namespace Sys2Proof.Says

open Sys2Proof.Machine

/-! ## What an instruction writes -/

/-- What a 32-bit destination holds in `t` after an instruction issued in `s` (R81): in each active lane the lane's value in
a vector register; the lowest active lane's value in a uniform one; `z` takes nothing. -/
def dest (s t : State) (d : BitVec 6) (f : Nat → Word) : Prop :=
  (d.toNat < 48 → ∀ l, l < 32 → s.w.activeLanes.getLsbD l = true → t.w.readKey (vkey d.toNat l) = f l)
  ∧ (48 ≤ d.toNat → d.toNat < 60 → ∀ l, s.w.activeLanes.lowest = some l → t.w.readKey (ukey (d.toNat - 48)) = f l)

/-- What a pair destination holds: the low halves in the even register, the high halves in the odd one (R9). -/
def destPair (s t : State) (d : BitVec 6) (f : Nat → DWord) : Prop :=
  d ≠ 61#6 → dest s t d (fun l => loWord (f l)) ∧ dest s t (d + 1#6) (fun l => hiWord (f l))

/-- What a predicate destination holds in the active lanes; p0 takes nothing (R81). -/
def destPred (s t : State) (d : BitVec 6) (f : Nat → Bool) : Prop :=
  d.toNat % 8 ≠ 0 → ∀ l, l < 32 → s.w.activeLanes.getLsbD l = true → t.w.pred (d.toNat % 8) l = f l

/-- The conditions that the active lanes raise together (R82). -/
def raised (s : State) (f : Nat → Word) : Word := orFlags (s.w.activeLanes.toList.map f) &&& flagBits

/-- The instruction answers a next state whose 32-bit destination holds `f` and whose flags are those of `s` with `fl` raised. -/
def gives (i : Instr) (s : State) (d : BitVec 6) (f : Nat → Word) (fl : Word) : Prop :=
  ∃ t, exec i s = .next t ∧ dest s t d f ∧ t.w.aflags = s.w.aflags ||| fl

/-- The same with a pair destination, raising nothing. -/
def givesPair (i : Instr) (s : State) (d : BitVec 6) (f : Nat → DWord) : Prop :=
  ∃ t, exec i s = .next t ∧ destPair s t d f ∧ t.w.aflags = s.w.aflags

/-- The same with a predicate destination. -/
def givesPred (i : Instr) (s : State) (d : BitVec 6) (f : Nat → Bool) (fl : Word) : Prop :=
  ∃ t, exec i s = .next t ∧ destPred s t d f ∧ t.w.aflags = s.w.aflags ||| fl

/-- Sources A and B, the old destination, and the pairs, of an instruction in a lane (R85, R86). -/
def a (o : Ops) (s : State) (l : Nat) : Word := s.w.src o.ext o.a l
def b (o : Ops) (s : State) (l : Nat) : Word := s.w.src o.ext o.b l
def c (o : Ops) (s : State) (l : Nat) : Word := s.w.src o.ext o.d l
def aPair (o : Ops) (s : State) (l : Nat) : DWord := s.w.srcPair o.ext o.a l
def bPair (o : Ops) (s : State) (l : Nat) : DWord := s.w.srcPair o.ext o.b l
def cPair (o : Ops) (s : State) (l : Nat) : DWord := if o.d = 61#6 then 0#64 else s.w.srcPair o.ext o.d l

/-- A saturated sum: the value clamped, and SAT where it was. -/
def clamp (lo hi x : Int) : Word := BitVec.ofInt 32 (if x < lo then lo else if hi < x then hi else x)
def clamped (lo hi x : Int) : Word := if x < lo ∨ hi < x then 0x20#32 else 0#32

/-! ## Shapes of statements about instructions -/

/-- No failure waits to be reported at a switch marker that the instruction carries. -/
def calm (o : Ops) (s : State) : Prop := o.s = true → ∀ x ∈ s.w.outs, x.fail = none

/-- The step completes, and the state it answers meets `p`. -/
def answers (i : Instr) (s : State) (p : State → Prop) : Prop := ∃ t, exec i s = .next t ∧ p t

/-- The instruction completes: it has its effect, which leaves a state that meets `p`, and the warp passes it to what follows (R35). -/
def does (i : Instr) (o : Ops) (s : State) (p : State → Prop) : Prop := ∃ u : State, exec i s = .next (u.retire i o) ∧ p u

/-- The registers that an instruction's `D` names as destinations: the first and how many (R9, R153, R156). -/
def destCount : Instr → Nat
  | .ld o => max 1 (memWidth o.f / 4)
  | .atom o | .cas o => atomWidth o.ext / 4
  | .waita _ => 1
  | .call _ | .callx _ => 1
  | i =>
    match i.columns.1 with
    | .dst | .dstVar | .dstVec | .dstVecZ | .vecOrNone => 1
    | .dstPair | .dstVecPair | .dstPairOnly => 2
    | _ => 0

/-- The register and predicate keys that an instruction may write in a state: its destinations in the active lanes, and
SEGRED's carry-out. -/
def destKeys (i : Instr) (o : Ops) (s : State) : List Nat :=
  let ls := s.w.activeLanes.toList
  (List.range (destCount i)).flatMap (fun j => ls.filterMap (codeKey ((o.d.toNat + j) % 64)))
    ++ (if i.columns.1 = .pred then ls.map (pkey (o.d.toNat % 8)) else [])
    ++ (match i with | .segred _ => ls.filterMap (codeKey (o.ext.toNat / 64 % 64)) | _ => [])

/-- The registers that the last-use bits of an instruction release (R36). -/
def released (i : Instr) (o : Ops) : List Nat :=
  releasedRegs o.la i.columns.2.1 o.a ++ releasedRegs o.lb i.columns.2.2 o.b

/-- The warp's access is no replayed one, which keeps its addresses (R310), and a macro that it runs began before the next number is
handed out. -/
def unreplayed (s : State) : Prop :=
  (∀ c, s.w.cl = some c → c.addrs = []) ∧ ∀ m, s.w.mac = some m → m.firstOut ≤ s.nextId

/-- Every active lane's address is an aligned place of `n` bytes in the workgroup's allotment, at the offset that `off` gives (R26), and no
sector of the allotment is poisoned (R359). -/
def inPad (s : State) (addr : Nat → DWord) (n : Nat) (off : Nat → Nat) : Prop :=
  Says.unreplayed s ∧ s.g.padPoison = [] ∧ ∀ l, l < 32 → s.w.activeLanes.getLsbD l = true →
    addr l = BitVec.ofNat 64 (0x01FFFF0000000000 + off l) ∧ off l % n = 0 ∧ off l + n ≤ s.g.padUnits * 4096 ∧ off l + n ≤ 0x60000

/-- There is room for `n` more requests of the core (R150). -/
def room (s : State) (n : Nat) : Prop := s.outstandingOf s.g.core + n ≤ 8192

/-- A register once every result that has returned is installed, which is what it reads after the next switch marker (R14, R35). -/
def installed (t : State) (k : Nat) : Word := (t.w.commit (fun x => x.hasDest)).1.readKey k

/-- The number at an offset of the allotment. -/
def padNat (s : State) (off n : Nat) : Nat := leNat (s.g.padRead off n)

/-- The warp stands at the last instruction of its clause, outside a macro, and nothing keeps the clause from ending with it (R12, R35). -/
def atEnd (o : Ops) (s : State) (c : Clause) : Prop :=
  s.w.cl = some c ∧ c.idx + 1 = c.hdr.n.toNat ∧ s.w.mac = none ∧ s.w.wait = .none ∧ s.w.trap = none
  ∧ (o.s = true → ∀ x ∈ s.w.outs, x.hasDest = true → x.waiting = 0 ∧ x.fail = none)

/-- The offset of the header after the clause that ends with an instruction. -/
def nextOf (i : Instr) (c : Clause) : Word := lpcWritten (c.base + BitVec.ofNat 32 (c.off + i.lenBytes))

/-- The clause has ended (R12): a live executing lane stands where `go` sends it, else where an earlier instruction of the clause sent it,
else at the next header; every other lane's `lpc` is as before. -/
def lands (i : Instr) (s t : State) (c : Clause) (go : Nat → Option Word) : Prop :=
  t.w.cl = none ∧ ∀ l, l < 32 →
    t.w.lpcOf l = if c.exec.getLsbD l = true ∧ isOffset (s.w.lpcOf l) = true then (go l).getD ((FMap.find c.targets l).getD (nextOf i c))
      else s.w.lpcOf l

/-- A trap can go to its handler at once: there is one, the warp is not in it, it is not in a macro, and every result with a destination has
returned without a failure (R302, R306, R308). -/
def canTrap (s : State) : Prop :=
  s.g.tvec ≠ lpcExited ∧ s.w.frame = none ∧ s.w.mac = none ∧ s.w.pendFails = []
  ∧ ∀ x ∈ s.w.outs, x.hasDest = true → x.waiting = 0 ∧ x.fail = none

/-- The handler has been entered (R305, R306): every live lane at `tvec`, the others as they were; the trap block says cause, clause, index,
lanes and address; the frame holds each lane's `lpc`, the predicates, the clause to resume and what it has set aside (log 33). Lanes that rest
stay resting (the model's choice, log 96). -/
def entered (s t : State) (code : Nat) (deferred : Bool) (cl : Option Clause) (index : Nat) (lns : LaneMask) (addr : DWord) : Prop :=
  t.w.tb = { tcause := BitVec.ofNat 32 (code + if deferred then 2 ^ 14 else 0), tclause := match cl with | some c => c.base | none => 0#32
             tindex := BitVec.ofNat 32 index, tlanes := lns, taddrLo := loWord addr, taddrHi := hiWord addr }
  ∧ t.w.frame = some { lpc := s.w.lpc, preds := (s.w.commit (fun x => x.hasDest)).1.preds, cl := cl, mac := none, res := s.w.res }
  ∧ t.w.cl = none ∧ t.w.wait = .none ∧ t.w.resting = s.w.resting
  ∧ ∀ l, l < 32 → t.w.lpcOf l = if isOffset (s.w.lpcOf l) = true then s.g.tvec else s.w.lpcOf l

/-- A result of class W5 with values for its destination is on its way (R139, R140). -/
def comes (t : State) (vals : List (Nat × Word)) : Prop :=
  ∃ x, x ∈ t.w.outs ∧ x.cls = 5 ∧ x.waiting = 1 ∧ x.vals = vals ∧ x.keys = vals.map (fun p => p.1)
    ∧ Instr.variableResultReturn ⟨t.w.wg, t.w.wid⟩ x.id ∈ t.events

/-- An operand of an MMA as its fields give it (R183, R185): a ring slot that is configured and large enough, or the far descriptor at an address,
read and checked. -/
def operandAt (s s' : State) (far : Bool) (r slot row n : Nat) (at_ at' : DWord) (src : MmaSrc) : Prop :=
  if far then ∃ bs xl, s.readVa at_ 32 .read = .ok s' bs ∧ field bs 0 8 % 32 = 0 ∧ field bs 8 4 % 32 = 0 ∧ n * row ≤ field bs 8 4
      ∧ (∀ b ∈ bs.drop 12, b = 0#8)
      ∧ s'.checkPieces .read false false false (farPieces (BitVec.ofNat 64 (field bs 0 8)) (field bs 8 4) 0 (n * row)) [] = .ok xl
      ∧ src = .far (BitVec.ofNat 64 (field bs 0 8)) (field bs 8 4) xl ∧ at' = at_ + 32#64
  else s' = s ∧ at' = at_ ∧ src = .ring r slot ∧ ∃ q, FMap.find s.g.rings r = some q ∧ slot < q.n ∧ n * 64 * row ≤ q.stride * 32

/-- A command of an engine is queued, and an outstanding operation of a class awaits it (R179, R197). -/
def awaited (t : State) (cls out : Nat) : Prop := ∃ x, x ∈ t.w.outs ∧ x.id = out ∧ x.cls = cls ∧ x.waiting = 1

/-- The context whose turn it is has passed its word: the next word follows. -/
def passes (s t : State) : Prop := t.cur.pc = s.cur.pc + 8#64 ∧ t.cur.wait = .none ∧ t.cur.word = none ∧ t.cur.st = s.cur.st

/-- A context has stopped with a code (R222): its sends are abandoned, and its status block (state, code, chunk ops, word) and completion
word (bit 31 and the code) are to be written, after the writes of its start that are still to be made. -/
def stops (t : State) (n : Nat) (c : Ctx) (code : Nat) : Prop :=
  (t.ctx n).ending = some code ∧ (t.ctx n).sends = [] ∧ (t.ctx n).wait = .none ∧ (t.ctx n).parked = 0
  ∧ (t.ctx n).word = none
  ∧ (t.ctx n).todo = c.todo ++ [(c.status, leBytes 4 (code * 256 + if code = 7 then 4 else 3) ++ leBytes 4 c.ops ++ leBytes 8 c.pc.toNat),
      (c.compl, leBytes 4 (0x80000000 + code))]

/-- A context's message to a rank is on its way: to a context of this package, or outside. -/
def sendsTo (s t : State) (c : Ctx) (p seq : Nat) (here : CtxMsg → Instr) (out : Nat → CtxMsg → OutMsg) : Prop :=
  let x := c.target p
  let m : CtxMsg := { ctx := x.2, gen := c.gen, rank := c.rank, seq := seq }
  (x.1 = Config.pkgid → here m ∈ t.events) ∧ (x.1 ≠ Config.pkgid → s.routed x.1 = true → out x.1 m ∈ t.outbox)

/-- The peer rank that a word forms (R211), where it forms one. -/
def peer (c : Ctx) (w : Itin) (p : Nat) : Prop :=
  let off : Int := if w.flags.getLsbD 1 then ((c.reg (w.peer.toNat % 16)).toNat : Int)
    else if w.flags.getLsbD 0 then (w.peer.toNat : Int) else w.peer.toInt
  if w.flags.getLsbD 0 then off < (c.nrank : Int) ∧ p = off.toNat else p = (((c.rank : Int) + off) % (c.nrank : Int)).toNat

/-- Chunk j of slot b of a context: where it starts and its length, as long as it starts below the slot's end (R207). -/
def chunk (c : Ctx) (b j at_ len : Nat) : Prop :=
  j * c.chunk < c.slotLen b ∧ at_ = c.slotBase b + j * c.chunk ∧ len = min ((j + 1) * c.chunk) (c.slotLen b) - j * c.chunk

/-- No write-back that its home still awaits from an owner holds any of the n bytes from a key on (R247). -/
def unbuffered (s : State) (g n : Nat) : Prop :=
  ∀ b ∈ s.fab.wbuf, (s.entry b.grain).owner = some b.who →
    overlap b.grain (s.entry b.grain).size g n = false ∧ ∀ c ∈ b.cells, c.1 < g ∨ g + n ≤ c.1

/-- A request of a live sender is the oldest with its number, it goes back to a warp, its bytes lie in its grain, whose entry is settled, of
its size, and passes the scope check, and no core holds bytes of the grain but in untracked copies. -/
def ready (s : State) (r : Req) : Prop :=
  s.findReq r.id = some r ∧ s.stale r.who r.inc = false ∧ Says.unbuffered s r.base r.grain ∧ (∃ w out parts lns, r.dest = .warp w out parts lns) ∧ 0 < r.len ∧ r.key % r.grain + r.len ≤ r.grain
  ∧ (∀ c ∈ r.cells, r.base ≤ c.1 ∧ c.1 < r.base + r.grain)
  ∧ (∀ q ∈ s.fab.trans, overlap q.grain (s.entry q.grain).size r.base r.grain = false)
  ∧ (∀ p ∈ s.fab.dir, overlap p.1 p.2.size r.base r.grain = true → p.2.size = r.grain)
  ∧ (∀ l ∈ s.fab.lines, overlap l.grain l.size r.base r.grain = true ∨ l.grain = r.base → l.st = .s)
  ∧ scopeCheck { s.entry r.base with size := r.grain } r false = .accept

/-- The bytes of memory from a key on, as a number. -/
def memNat (s : State) (k n : Nat) : Nat := leNat ((List.range n).map (fun i => s.memByte (k + i)))

/-- Memory, and the ciphers its sectors stand under, are the same. -/
def sameMem (s t : State) : Prop := t.mem = s.mem ∧ t.sealed = s.sealed

/-- A key names a byte of another sector than a second key's, or reaches it under the same cipher (R357). -/
def oneCipher (j k : Nat) : Prop := keyPlace j / 32 = keyPlace k / 32 → keyCipher j = keyCipher k

/-- No two cells name one byte with different values, or one sector under two ciphers. -/
def oneEach (cs : List Host.Cell) : Prop := ∀ c ∈ cs, ∀ d ∈ cs, oneCipher c.1 d.1 ∧ (c.1 = d.1 → c = d)

/-- Memory after a store of cells: each holds its byte, and every other byte is as before (a sector written under one cipher reads
otherwise under another, R357). -/
def stored (s t : State) (cs : List Host.Cell) : Prop :=
  (oneEach cs → ∀ c ∈ cs, t.memByte c.1 = c.2) ∧ ∀ k, (∀ c ∈ cs, c.1 ≠ k ∧ oneCipher c.1 k) → t.memByte k = s.memByte k

/-- Nobody holds a copy, no entry is kept or settling, no sector is poisoned, and every request is older than the next number: a store of
the host path is performed at once. -/
def still (s : State) : Prop :=
  s.fab.dir = [] ∧ s.fab.trans = [] ∧ s.fab.lines = [] ∧ s.poison = [] ∧ ∀ r ∈ s.fab.reqs, r.id < s.nextId

/-- The `n` bytes from a key on are this package's own, so that a store of the host path reaches them here. -/
def near (k n : Nat) : Prop := ∀ i, i < n → homePkg (k + i) = Config.pkgid ∧ farKey (k + i) = false

/-- The bytes `bs`, written at a physical address of this package that the firmware does not keep, have been stored (R361, R224). -/
def wrote (s t : State) (pa : DWord) (bs : List Byte) : Prop :=
  ∀ k, Says.still s → physKey pa = some k → Says.near k bs.length → s.readOnlyKey k = false → Says.stored s t (cellsAt k bs)

/-- A command may act (R345, R353, R361): its completion word's address is memory, and its master owns the package, or queued it while it
did. -/
def may (c : Cmd) (s : State) : Prop :=
  memoryAddr c.compl = true ∧ (s.pkg.owner = some c.master ∨ 0 < FMap.get s.pkg.oldQueue 0 c.master)

/-- The command completes with a status, having left a state that meets `p`, to which its completion word is then written. -/
def completes (i : Instr) (c : Cmd) (s : State) (status : Nat) (p : State → Prop) : Prop := ∃ u : State, exec i s = .next (u.complete c status) ∧ p u

end Sys2Proof.Says


open Sys2Proof Sys2Proof.Machine

/-! ## Lane arithmetic -/

/-- R87: what every integer form computes, lane by lane, and that only the saturating forms raise a flag. -/
def Obligations.IntegerArithmeticComputesR87 : Prop :=
  ∀ (o : Ops) (s : State),
    let a := Says.a o s
    let b := Says.b o s
    let c := Says.c o s
    let ap := Says.aPair o s
    let bp := Says.bPair o s
    let cp := Says.cPair o s
    let z := fun (l : Nat) => ((a l).toNat : Int)
    let y := fun (l : Nat) => ((b l).toNat : Int)
    (o.f = 0#4 → Says.gives (.iadd o) s o.d (fun l => a l + b l) 0#32)
    ∧ (o.f = 1#4 → Says.givesPair (.iadd o) s o.d (fun l => ap l + bp l))
    ∧ (o.f = 2#4 → Says.gives (.iadd o) s o.d (fun l => Says.clamp (-(2 ^ 31)) (2 ^ 31 - 1) ((a l).toInt + (b l).toInt))
        (Says.raised s (fun l => Says.clamped (-(2 ^ 31)) (2 ^ 31 - 1) ((a l).toInt + (b l).toInt))))
    ∧ (o.f = 3#4 → Says.gives (.iadd o) s o.d (fun l => Says.clamp 0 (2 ^ 32 - 1) (z l + y l))
        (Says.raised s (fun l => Says.clamped 0 (2 ^ 32 - 1) (z l + y l))))
    ∧ (o.f = 0#4 → Says.gives (.isub o) s o.d (fun l => a l - b l) 0#32)
    ∧ (o.f = 1#4 → Says.givesPair (.isub o) s o.d (fun l => ap l - bp l))
    ∧ (o.f = 2#4 → Says.gives (.isub o) s o.d (fun l => Says.clamp (-(2 ^ 31)) (2 ^ 31 - 1) ((a l).toInt - (b l).toInt))
        (Says.raised s (fun l => Says.clamped (-(2 ^ 31)) (2 ^ 31 - 1) ((a l).toInt - (b l).toInt))))
    ∧ (o.f = 3#4 → Says.gives (.isub o) s o.d (fun l => Says.clamp 0 (2 ^ 32 - 1) (z l - y l))
        (Says.raised s (fun l => Says.clamped 0 (2 ^ 32 - 1) (z l - y l))))
    ∧ (o.f = 0#4 → Says.gives (.imul o) s o.d (fun l => a l * b l) 0#32)
    ∧ (o.f = 1#4 → Says.gives (.imul o) s o.d (fun l => BitVec.ofInt 32 ((a l).toInt * (b l).toInt / 2 ^ 32)) 0#32)
    ∧ (o.f = 2#4 → Says.gives (.imul o) s o.d (fun l => BitVec.ofNat 32 ((a l).toNat * (b l).toNat / 2 ^ 32)) 0#32)
    ∧ (o.f = 3#4 → Says.givesPair (.imul o) s o.d (fun l => BitVec.ofInt 64 ((a l).toInt * (b l).toInt)))
    ∧ (o.f = 4#4 → Says.givesPair (.imul o) s o.d (fun l => BitVec.ofNat 64 ((a l).toNat * (b l).toNat)))
    ∧ (o.f = 0#4 → Says.gives (.imac o) s o.d (fun l => a l * b l + c l) 0#32)
    ∧ (o.f = 1#4 → Says.givesPair (.imac o) s o.d (fun l => BitVec.ofInt 64 ((a l).toInt * (b l).toInt + (cp l).toInt)))
    ∧ (o.f = 2#4 → Says.givesPair (.imac o) s o.d (fun l => BitVec.ofNat 64 ((a l).toNat * (b l).toNat + (cp l).toNat)))
    ∧ (o.f = 0#4 → Says.gives (.imin o) s o.d (fun l => if (b l).toInt < (a l).toInt then b l else a l) 0#32)
    ∧ (o.f = 1#4 → Says.gives (.imin o) s o.d (fun l => if (b l).toNat < (a l).toNat then b l else a l) 0#32)
    ∧ (o.f = 2#4 → Says.givesPair (.imin o) s o.d (fun l => if (bp l).toInt < (ap l).toInt then bp l else ap l))
    ∧ (o.f = 3#4 → Says.givesPair (.imin o) s o.d (fun l => if (bp l).toNat < (ap l).toNat then bp l else ap l))
    ∧ (o.f = 0#4 → Says.gives (.imax o) s o.d (fun l => if (b l).toInt < (a l).toInt then a l else b l) 0#32)
    ∧ (o.f = 1#4 → Says.gives (.imax o) s o.d (fun l => if (b l).toNat < (a l).toNat then a l else b l) 0#32)
    ∧ (o.f = 2#4 → Says.givesPair (.imax o) s o.d (fun l => if (bp l).toInt < (ap l).toInt then ap l else bp l))
    ∧ (o.f = 3#4 → Says.givesPair (.imax o) s o.d (fun l => if (bp l).toNat < (ap l).toNat then ap l else bp l))
    ∧ (o.f = 0#4 → Says.gives (.iabs o) s o.d (fun l => if (a l).toInt < 0 then -(a l) else a l) 0#32)
    ∧ (o.f = 1#4 → Says.givesPair (.iabs o) s o.d (fun l => if (ap l).toInt < 0 then -(ap l) else ap l))
    ∧ (o.f = 2#4 → Says.gives (.ineg o) s o.d (fun l => -(a l)) 0#32)
    ∧ (o.f = 3#4 → Says.givesPair (.ineg o) s o.d (fun l => -(ap l)))

/-- R88, R89, R90: the logic operations, the shifts and rotates with any amount, and the bit counts and fields. -/
def Obligations.LogicShiftsAndFieldsComputeR88R89R90 : Prop :=
  ∀ (o : Ops) (s : State),
    let a := Says.a o s
    let b := Says.b o s
    let c := Says.c o s
    let ap := Says.aPair o s
    let n := fun (l : Nat) => (b l).toNat
    let pos := fun (l : Nat) => (b l).toNat % 256
    let len := fun (l : Nat) => min ((b l).toNat / 256 % 256) 32
    let fld := fun (l : Nat) => if 32 ≤ pos l then 0 else (a l).toNat / 2 ^ pos l % 2 ^ len l
    let mask := fun (l : Nat) => if 32 ≤ pos l then 0#32 else BitVec.ofNat 32 ((2 ^ len l - 1) * 2 ^ pos l)
    Says.gives (.andOp o) s o.d (fun l => a l &&& b l) 0#32
    ∧ Says.gives (.orOp o) s o.d (fun l => a l ||| b l) 0#32
    ∧ Says.gives (.xorOp o) s o.d (fun l => a l ^^^ b l) 0#32
    ∧ Says.gives (.andnOp o) s o.d (fun l => a l &&& ~~~(b l)) 0#32
    ∧ Says.gives (.ornOp o) s o.d (fun l => a l ||| ~~~(b l)) 0#32
    ∧ Says.gives (.notOp o) s o.d (fun l => ~~~(a l)) 0#32
    ∧ (o.f = 0#4 → Says.gives (.shl o) s o.d (fun l => if 32 ≤ n l then 0#32 else BitVec.ofNat 32 ((a l).toNat * 2 ^ n l)) 0#32)
    ∧ (o.f = 4#4 → Says.givesPair (.shl o) s o.d (fun l => if 64 ≤ n l then 0#64 else BitVec.ofNat 64 ((ap l).toNat * 2 ^ n l)))
    ∧ (o.f = 1#4 → Says.gives (.shr o) s o.d (fun l => if 32 ≤ n l then 0#32 else BitVec.ofNat 32 ((a l).toNat / 2 ^ n l)) 0#32)
    ∧ (o.f = 5#4 → Says.givesPair (.shr o) s o.d (fun l => if 64 ≤ n l then 0#64 else BitVec.ofNat 64 ((ap l).toNat / 2 ^ n l)))
    ∧ (o.f = 2#4 → Says.gives (.sar o) s o.d (fun l =>
        if 32 ≤ n l then (if (a l).toInt < 0 then 0xFFFFFFFF#32 else 0#32) else BitVec.ofInt 32 ((a l).toInt / 2 ^ n l)) 0#32)
    ∧ (o.f = 6#4 → Says.givesPair (.sar o) s o.d (fun l =>
        if 64 ≤ n l then (if (ap l).toInt < 0 then 0xFFFFFFFFFFFFFFFF#64 else 0#64) else BitVec.ofInt 64 ((ap l).toInt / 2 ^ n l)))
    ∧ (o.f = 3#4 → Says.gives (.rol o) s o.d (fun l => (a l).rotateLeft (n l % 32)) 0#32)
    ∧ (o.f = 7#4 → Says.givesPair (.rol o) s o.d (fun l => (ap l).rotateLeft (n l % 64)))
    ∧ Says.gives (.ones o) s o.d (fun l => BitVec.ofNat 32 ((List.range 32).filter (fun i => (a l).getLsbD i)).length) 0#32
    ∧ Says.gives (.clz o) s o.d (fun l => BitVec.ofNat 32 ((List.range 32).takeWhile (fun i => !(a l).getLsbD (31 - i))).length) 0#32
    ∧ Says.gives (.ctz o) s o.d (fun l => BitVec.ofNat 32 ((List.range 32).takeWhile (fun i => !(a l).getLsbD i)).length) 0#32
    ∧ (∃ t, exec (.bitrev o) s = .next t ∧ t.w.aflags = s.w.aflags
        ∧ ∃ r : Nat → Word, Says.dest s t o.d r ∧ ∀ l i, i < 32 → (r l).getLsbD i = (a l).getLsbD (31 - i))
    ∧ (o.f = 1#4 → Says.gives (.bfx o) s o.d (fun l =>
        if 0 < len l ∧ (fld l).testBit (len l - 1) then BitVec.ofInt 32 ((fld l : Int) - 2 ^ len l) else BitVec.ofNat 32 (fld l)) 0#32)
    ∧ (o.f = 0#4 → Says.gives (.bfx o) s o.d (fun l => BitVec.ofNat 32 (fld l)) 0#32)
    ∧ Says.gives (.bfi o) s o.d (fun l =>
        (c l &&& ~~~(mask l)) ||| (BitVec.ofNat 32 ((a l).toNat * 2 ^ pos l) &&& mask l)) 0#32

/-- R91 to R95: the address form, compares, select, predicate logic and moves. -/
def Obligations.AddressCompareSelectMoveComputeR91ToR95 : Prop :=
  ∀ (o : Ops) (s : State),
    let a := Says.a o s
    let b := Says.b o s
    let ap := Says.aPair o s
    let cmp := fun (r : Int → Int → Prop) [DecidableRel r] (l : Nat) => decide (r (a l).toInt (b l).toInt)
    let cmpU := fun (r : Nat → Nat → Prop) [DecidableRel r] (l : Nat) => decide (r (a l).toNat (b l).toNat)
    let p := fun (n l : Nat) => s.w.pred n l
    (o.f.toNat < 8 → Says.givesPair (.lea o) s o.d (fun l => ap l + BitVec.ofNat 64 ((b l).toNat * 2 ^ o.f.toNat)))
    ∧ (o.f = 0#4 → Says.givesPred (.icmp o) s o.d (fun l => a l == b l) 0#32)
    ∧ (o.f = 1#4 → Says.givesPred (.icmp o) s o.d (fun l => a l != b l) 0#32)
    ∧ (o.f = 2#4 → Says.givesPred (.icmp o) s o.d (cmp (· < ·)) 0#32)
    ∧ (o.f = 3#4 → Says.givesPred (.icmp o) s o.d (cmp (· ≤ ·)) 0#32)
    ∧ (o.f = 4#4 → Says.givesPred (.icmp o) s o.d (cmp (· > ·)) 0#32)
    ∧ (o.f = 5#4 → Says.givesPred (.icmp o) s o.d (cmp (· ≥ ·)) 0#32)
    ∧ (o.f = 6#4 → Says.givesPred (.icmp o) s o.d (cmpU (· < ·)) 0#32)
    ∧ (o.f = 7#4 → Says.givesPred (.icmp o) s o.d (cmpU (· ≤ ·)) 0#32)
    ∧ (o.f = 8#4 → Says.givesPred (.icmp o) s o.d (cmpU (· > ·)) 0#32)
    ∧ (o.f = 9#4 → Says.givesPred (.icmp o) s o.d (cmpU (· ≥ ·)) 0#32)
    ∧ Says.gives (.sel o) s o.d (fun l => if p (o.f.toNat % 8) l = o.f.getLsbD 3 then b l else a l) 0#32
    ∧ (o.f = 0#4 → Says.givesPred (.plog o) s o.d (fun l => p o.a.toNat l && p o.b.toNat l) 0#32)
    ∧ (o.f = 1#4 → Says.givesPred (.plog o) s o.d (fun l => p o.a.toNat l || p o.b.toNat l) 0#32)
    ∧ (o.f = 2#4 → Says.givesPred (.plog o) s o.d (fun l => xor (p o.a.toNat l) (p o.b.toNat l)) 0#32)
    ∧ (o.f = 3#4 → Says.givesPred (.plog o) s o.d (fun l => p o.a.toNat l && !(p o.b.toNat l)) 0#32)
    ∧ (o.f = 0#4 → Says.gives (.mov o) s o.d a 0#32)
    ∧ (o.f = 1#4 → Says.givesPair (.mov o) s o.d ap)
    ∧ (∃ t, exec (.movs o) s = .next t ∧ t.w.aflags = s.w.aflags ∧ Says.dest s t o.d (fun l => specialValue s o.a.toNat l)
        ∧ t.w.clockHi = if o.a = 10#6 ∧ s.w.activeLanes ≠ 0#32 then some (hiWord s.clock) else s.w.clockHi)

/-- R99, R97, R98 and R96 in f32: the sign forms, the smaller, larger and largest-magnitude value, the comparison, and the sum, product and
fused sum, which are the model's f32 operations in the rounding mode of `F`; each raises what its operation raises. -/
def Obligations.FloatFormsComputeInF32 : Prop :=
  ∀ (o : Ops) (s : State),
    let a := Says.a o s
    let b := Says.b o s
    let c := Says.c o s
    let m := Rnd.ofCode o.f.toNat
    let nan := fun (l : Nat) => (fmtF32.unpack (a l).toNat).isNan || (fmtF32.unpack (b l).toNat).isNan
    let lt := fun (l : Nat) => (fmtF32.unpack (a l).toNat).lt (fmtF32.unpack (b l).toNat)
    let gt := fun (l : Nat) => (fmtF32.unpack (b l).toNat).lt (fmtF32.unpack (a l).toNat)
    let eq := fun (l : Nat) => (fmtF32.unpack (a l).toNat).eq (fmtF32.unpack (b l).toNat)
    let nv := Says.raised s (fun l =>
      if (fmtF32.unpack (a l).toNat).isSignalling || (fmtF32.unpack (b l).toNat).isSignalling then flagNV else 0#32)
    let op := fun (i : Instr) (r : Nat → Flagged Nat) =>
      Says.gives i s o.d (fun l => BitVec.ofNat 32 (r l).val) (Says.raised s (fun l => (r l).flags))
    (o.f.toNat < 4 → op (.fadd o) (fun l => fadd fmtF32 m (a l).toNat (b l).toNat))
    ∧ (o.f.toNat < 4 → op (.fmul o) (fun l => fmul fmtF32 m (a l).toNat (b l).toNat))
    ∧ (o.f.toNat < 4 → op (.fma o) (fun l => ffma fmtF32 m (a l).toNat (b l).toNat (c l).toNat))
    ∧ (o.f = 0#4 → op (.fmin o) (fun l => fmin fmtF32 (a l).toNat (b l).toNat))
    ∧ (o.f = 0#4 → op (.fmax o) (fun l => fmax fmtF32 (a l).toNat (b l).toNat))
    ∧ op (.famax o) (fun l => fmax fmtF32 ((a l).toNat % 2 ^ 31) ((b l).toNat % 2 ^ 31))
    ∧ (o.f = 0#4 → Says.givesPred (.fcmp o) s o.d eq nv)
    ∧ (o.f = 1#4 → Says.givesPred (.fcmp o) s o.d (fun l => !(eq l)) nv)
    ∧ (o.f = 2#4 → Says.givesPred (.fcmp o) s o.d (fun l => !(nan l) && lt l) nv)
    ∧ (o.f = 3#4 → Says.givesPred (.fcmp o) s o.d (fun l => !(nan l) && !(gt l)) nv)
    ∧ (o.f = 4#4 → Says.givesPred (.fcmp o) s o.d (fun l => !(nan l) && gt l) nv)
    ∧ (o.f = 5#4 → Says.givesPred (.fcmp o) s o.d (fun l => !(nan l) && !(lt l)) nv)
    ∧ (o.f = 6#4 → Says.givesPred (.fcmp o) s o.d (fun l => !(nan l)) nv)
    ∧ (o.f = 7#4 → Says.givesPred (.fcmp o) s o.d nan nv)
    ∧ (o.f.toNat < 4 → Says.gives (.fabs o) s o.d (fun l => a l &&& 0x7FFFFFFF#32) 0#32)
    ∧ (4 ≤ o.f.toNat → Says.gives (.fabs o) s o.d (fun l => a l &&& 0x7FFF7FFF#32) 0#32)
    ∧ (o.f.toNat < 4 → Says.gives (.fneg o) s o.d (fun l => a l ^^^ 0x80000000#32) 0#32)
    ∧ (4 ≤ o.f.toNat → Says.gives (.fneg o) s o.d (fun l => a l ^^^ 0x80008000#32) 0#32)
    ∧ (o.f.toNat < 4 → Says.gives (.fcopys o) s o.d (fun l => (a l &&& 0x7FFFFFFF#32) ||| (b l &&& 0x80000000#32)) 0#32)
    ∧ (4 ≤ o.f.toNat → Says.gives (.fcopys o) s o.d (fun l => (a l &&& 0x7FFF7FFF#32) ||| (b l &&& 0x80008000#32)) 0#32)

/-- R96 and R97 in the packed formats: elements 0 and 1 are computed apart, and their flags are ORed. -/
def Obligations.PackedFloatFormsComputeEachElement : Prop :=
  ∀ (o : Ops) (s : State) (fm : Fmt) (k : Nat), (fm = fmtBF16 ∧ k = 1 ∨ fm = fmtF16 ∧ k = 2) →
    let lo := fun (x : Word) => x.toNat % 2 ^ 16
    let hi := fun (x : Word) => x.toNat / 2 ^ 16
    let a := Says.a o s
    let b := Says.b o s
    let c := Says.c o s
    let m := Rnd.ofCode o.f.toNat
    let both := fun (i : Instr) (r : (Word → Nat) → Nat → Flagged Nat) =>
      Says.gives i s o.d (fun l => BitVec.ofNat 32 ((r hi l).val * 2 ^ 16 + (r lo l).val))
        (Says.raised s (fun l => (r lo l).flags ||| (r hi l).flags))
    (o.f.toNat / 4 = k → both (.fadd o) (fun h l => fadd fm m (h (a l)) (h (b l))))
    ∧ (o.f.toNat / 4 = k → both (.fmul o) (fun h l => fmul fm m (h (a l)) (h (b l))))
    ∧ (o.f.toNat / 4 = k → both (.fma o) (fun h l => ffma fm m (h (a l)) (h (b l)) (h (c l))))
    ∧ (o.f.toNat = k → both (.fmin o) (fun h l => fmin fm (h (a l)) (h (b l))))
    ∧ (o.f.toNat = k → both (.fmax o) (fun h l => fmax fm (h (a l)) (h (b l))))

/-- R100 and R102 to R104: each conversion and quantising form writes what the model's conversion, scale, pack and unpack functions
compute from its sources, QPACK and QUNPK with the scale byte of the lowest active lane, and raises their conditions. -/
def Obligations.ConversionAndQuantisingFormsCompute : Prop :=
  ∀ (o : Ops) (s : State),
    let a := Says.a o s
    let b := Says.b o s
    let m := Rnd.ofCode o.b.toNat
    let cv := fun (r : Nat → Flagged Nat) =>
      Says.gives (.cvt o) s o.d (fun l => BitVec.ofNat 32 (r l).val) (Says.raised s (fun l => (r l).flags))
    let ci := fun (r : Nat → Flagged Int) =>
      Says.gives (.cvt o) s o.d (fun l => BitVec.ofInt 32 (r l).val) (Says.raised s (fun l => (r l).flags))
    let half := fun (l : Nat) => (a l).toNat % 2 ^ 16
    let odd := fun (l : Nat) => (s.w.src o.ext (o.a + 1#6) l).toNat
    let two := fun (fm : Fmt) =>
      Says.gives (.cvt o) s o.d
        (fun l => BitVec.ofNat 32 ((fconvert fmtF32 fm m (odd l)).val * 2 ^ 16 + (fconvert fmtF32 fm m (a l).toNat).val))
        (Says.raised s (fun l => (fconvert fmtF32 fm m (a l).toNat).flags ||| (fconvert fmtF32 fm m (odd l)).flags))
    let block := lanes.map (fun l => (a l).toNat) ++ lanes.map (fun l => (b l).toNat)
    let image := lanes.flatMap (fun l => [(a l).toNat % 256, (a l).toNat / 256 % 256])
    (o.f = 0#4 → cv (fun l => fconvert fmtF32 fmtBF16 m (a l).toNat))
    ∧ (o.f = 1#4 → cv (fun l => fconvert fmtF32 fmtF16 m (a l).toNat))
    ∧ (o.f = 2#4 → cv (fun l => fconvert fmtBF16 fmtF32 .rn (half l)))
    ∧ (o.f = 3#4 → cv (fun l => fconvert fmtF16 fmtF32 .rn (half l)))
    ∧ (o.f = 4#4 → ci (fun l => cvtToInt m (-(2 ^ 31)) (2 ^ 31 - 1) (a l).toNat))
    ∧ (o.f = 5#4 → ci (fun l => cvtToInt m 0 (2 ^ 32 - 1) (a l).toNat))
    ∧ (o.f = 6#4 → cv (fun l => cvtFromInt m (a l).toInt))
    ∧ (o.f = 7#4 → cv (fun l => cvtFromInt m ((a l).toNat : Int)))
    ∧ (o.f = 8#4 → two fmtBF16) ∧ (o.f = 9#4 → two fmtF16)
    ∧ Says.gives (.qscale o) s o.d (fun _ => BitVec.ofNat 32 (qscaleByte block)) 0#32
    ∧ (∀ l0, s.w.activeLanes.lowest = some l0 →
        let qs := block.map (qpackElem (o.f == 1#4) ((Says.c o s l0).toNat % 256))
        let img := planeImage (qs.map (fun q => q.val))
        Says.gives (.qpack o) s o.d (fun l => BitVec.ofNat 32 (img.getD (2 * l) 0 + 256 * img.getD (2 * l + 1) 0))
          (orFlags (qs.map (fun q => q.flags)) &&& flagBits))
    ∧ (∀ l0, s.w.activeLanes.lowest = some l0 →
        let y := qunpkElem (o.f.getLsbD 3) (o.f.toNat % 8 + 2) ((b l0).toNat % 256) image
        o.d ≠ 61#6 → ∃ t, exec (.qunpk o) s = .next t
          ∧ Says.dest s t o.d (fun l => BitVec.ofNat 32 (y l).val) ∧ Says.dest s t (o.d + 1#6) (fun l => BitVec.ofNat 32 (y (l + 32)).val)
          ∧ t.w.aflags = s.w.aflags ||| (orFlags ((List.range 64).map (fun i => (y i).flags)) &&& flagBits))

/-- R83, R101 (variable latency): a special function with an active lane adds one outstanding result of class W4, whose values and
conditions the model's function computes, and an event that returns it; `aflags` is not yet changed. -/
def Obligations.SpecialFunctionIssuesItsResult : Prop :=
  ∀ (i : Instr) (o : Ops) (f : Nat → Flagged Nat) (s : State),
    (i, f) ∈ [(Instr.rcp o, sfuRcp), (.rsq o, sfuRsq), (.sqrt o, sfuSqrt), (.exp2 o, sfuExp2), (.log2 o, sfuLog2), (.sin o, sfuSin),
      (.cos o, sfuCos), (.tanh o, sfuTanh)] →
    s.w.activeLanes ≠ 0#32 →
    ∃ t x, exec i s = .next t ∧ x ∈ t.w.outs ∧ x.id = s.nextId ∧ x.cls = 4 ∧ x.waiting = 1
      ∧ x.vals = destWrites o.d s.w.activeLanes (fun l => BitVec.ofNat 32 (f (Says.a o s l).toNat).val)
      ∧ x.flags = orFlags (s.w.activeLanes.toList.map (fun l => (f (Says.a o s l).toNat).flags))
      ∧ Instr.variableResultReturn ⟨s.w.wg, s.w.wid⟩ x.id ∈ t.events
      ∧ t.w.aflags = s.w.aflags

/-- R105, R106: the lane exchange and the votes. -/
def Obligations.LaneExchangeAndVotesComputeR105R106 : Prop :=
  ∀ (o : Ops) (s : State),
    let n := fun (l : Nat) => (Says.b o s l).toNat
    let act := s.w.activeLanes
    let p := fun (l : Nat) => s.w.pred (o.a.toNat % 8) l
    (o.f = 0#4 → Says.gives (.lxch o) s o.d (fun i => Says.a o s (n i % 32)) 0#32)
    ∧ (o.f = 1#4 → Says.gives (.lxch o) s o.d (fun i => Says.a o s (if n i ≤ i then i - n i else i)) 0#32)
    ∧ (o.f = 2#4 → Says.gives (.lxch o) s o.d (fun i => Says.a o s (if i + n i ≤ 31 then i + n i else i)) 0#32)
    ∧ (o.f = 3#4 → Says.gives (.lxch o) s o.d (fun i => Says.a o s (i ^^^ (n i % 32))) 0#32)
    ∧ Says.givesPred (.lanesAll o) s o.d (fun _ => lanes.all (fun l => !(act.getLsbD l) || p l)) 0#32
    ∧ Says.givesPred (.lanesAny o) s o.d (fun _ => lanes.any (fun l => act.getLsbD l && p l)) 0#32
    ∧ Says.givesPred (.lanesSame o) s o.d (fun _ =>
        lanes.all (fun l => !(act.getLsbD l) || p l) || !(lanes.any (fun l => act.getLsbD l && p l))) 0#32
    ∧ (∃ t m, exec (.lanesMask o) s = .next t ∧ Says.dest s t o.d (fun _ => m) ∧ t.w.aflags = s.w.aflags
        ∧ ∀ l, l < 32 → m.getLsbD l = (act.getLsbD l && p l))
    ∧ Says.givesPred (.lanesFirst o) s o.d (fun l => lanes.all (fun j => !(act.getLsbD j) || decide (l ≤ j))) 0#32

/-- R107 to R109: WRED and SCAN combine the active lanes' values with the identity elsewhere, and SEGRED's running sums start from the carry-in
and give the carry-out: in the integer forms as sums, in every form as the model's trees of R76 and R77 and its fold of R78 (which
steps of SCAN's tree raise their conditions is the model's choice, log 103). -/
def Obligations.LaneReductionsComputeR107ToR109 : Prop :=
  ∀ (o : Ops) (s : State), s.w.activeLanes ≠ 0#32 →
    let act := s.w.activeLanes
    let x := fun (ident : Nat) (l : Nat) => if act.getLsbD l then (Says.a o s l).toNat else ident
    let sum := fun (ls : List Nat) => BitVec.ofNat 32 ((ls.map (x 0)).foldl (· + ·) 0)
    let fold := fun (f : Nat → Nat → Nat) (ident : Nat) => BitVec.ofNat 32 ((lanes.map (x ident)).foldl f ident)
    let cin : BitVec 6 := BitVec.ofNat 6 o.ext.toNat
    let cout : BitVec 6 := BitVec.ofNat 6 (o.ext.toNat / 64)
    let start := fun (l : Nat) => s.w.pred (o.ext.toNat / 2 ^ 12 % 8) l
    let run := fun (n : Nat) => ((lanes.take n).filter (fun l => act.getLsbD l)).foldl
      (fun (acc : Word) l => if start l then Says.a o s l else acc + Says.a o s l) (if cin = 61#6 then 0#32 else s.w.usrc 0#32 cin)
    (o.f = 0#4 → Says.gives (.wred o) s o.d (fun _ => sum lanes) 0#32)
    ∧ (o.f = 3#4 → Says.gives (.wred o) s o.d (fun _ => fold (fun u v => if v < u then v else u) 0xFFFFFFFF) 0#32)
    ∧ (o.f = 5#4 → Says.gives (.wred o) s o.d (fun _ => fold (fun u v => if u < v then v else u) 0) 0#32)
    ∧ (o.f = 6#4 → Says.gives (.wred o) s o.d (fun _ => fold (· &&& ·) 0xFFFFFFFF) 0#32)
    ∧ (o.f = 7#4 → Says.gives (.wred o) s o.d (fun _ => fold (· ||| ·) 0) 0#32)
    ∧ (o.f = 8#4 → Says.gives (.wred o) s o.d (fun _ => fold (· ^^^ ·) 0) 0#32)
    ∧ (o.f = 0#4 → Says.gives (.scan o) s o.d (fun l => sum (lanes.take (l + 1))) 0#32)
    ∧ (o.f = 1#4 → Says.gives (.scan o) s o.d (fun l => sum (lanes.take l)) 0#32)
    ∧ (o.f = 0#4 → 48 ≤ cout.toNat → o.d.toNat < 48 →
        ∃ t, exec (.segred o) s = .next t ∧ t.w.aflags = s.w.aflags
          ∧ Says.dest s t o.d (fun l => run (l + 1)) ∧ Says.dest s t cout (fun _ => run 32))
    ∧ (let op := wredOp o.f.toNat
      let r := treeReduce op.1 5 (lanes.map (x op.2)) 0#32
      Says.gives (.wred o) s o.d (fun _ => BitVec.ofNat 32 r.1) (r.2 &&& flagBits))
    ∧ (2 ≤ o.f.toNat → o.f.toNat < 4 → let r := scanRun (fadd fmtF32 .rn) 0x80000000 (o.f == 3#4) act (lanes.map (x 0x80000000))
      Says.gives (.scan o) s o.d (fun l => BitVec.ofNat 32 (r.1 l)) (r.2 &&& flagBits))
    ∧ (let op := segredOp o.f.toNat
      let r := segFold op.1 (fun l => (Says.a o s l).toNat) start act.toList (if cin = 61#6 then op.2 else (s.w.usrc 0#32 cin).toNat)
      ∃ t, exec (.segred o) s = .next t ∧ t.w.aflags = s.w.aflags ||| (r.2.2 &&& flagBits) ∧ (o.d ≠ cout → Says.dest s t o.d (fun l => FMap.get r.1 0#32 l))
        ∧ Says.dest s t cout (fun _ => BitVec.ofNat 32 r.2.1))

/-- R83 and the frame of the ALU class: an ALU instruction is charged one unit and no byte, and changes no memory, no other warp, nothing of
its workgroup but its instruction purse or grace counter and, where that runs out, what R294 then sets (the latch and a forced yield),
and no special register but `aflags` (the registers it writes are the subject of `InstructionsChangeOnlyTheirDestinationRegisters`). The
premise on a warp whose last lane goes: what an MX clause of it set aside goes back (log 33). -/
def Obligations.AluFrameAndCharge : Prop :=
  ∀ (i : Instr) (op : BitVec 7) (o : Ops) (s t : State),
    i.opcode = some (op, o) → classOfOp op = 0 → Says.calm o s → exec i s = .next t →
    (t.w.live = 0#32 → s.w.res = none ∧ ∀ f, s.w.frame = some f → f.res = none) →
    (∀ a, t.memByte a = s.memByte a)
    ∧ t.poison = s.poison ∧ t.fab = s.fab ∧ t.courier = s.courier ∧ t.host = s.host ∧ t.pkg = s.pkg ∧ t.clock = s.clock
    ∧ t.warps = s.warps ∧ t.wgs = s.wgs ∧ t.grids = s.grids ∧ t.packets = s.packets ∧ t.outbox = s.outbox
    ∧ t.w.tb = s.w.tb ∧ t.w.frame = s.w.frame ∧ t.w.amask = s.w.amask ∧ t.w.wident = s.w.wident
    ∧ (∃ i u l f c, t.g = { s.g with ipurse := i, graceUnits := u, latch := l, forced := f, saveCause := c })
    ∧ ((if s.g.resting then 1 < s.g.graceUnits else 1 < s.g.ipurse) →
        t.g.latch = s.g.latch ∧ t.g.forced = s.g.forced ∧ t.g.saveCause = s.g.saveCause)
    ∧ (s.charged = false → s.g.resting = false → t.g.ipurse = s.g.ipurse - 1)
    ∧ (s.charged = false → s.g.resting = true → t.g.graceUnits = s.g.graceUnits - 1)

/-! ## Decoding, the step and the frames of every instruction -/

/-- Words written out from the encodings of R29, R32, R58 to R60 and R213 decode to the steps they stand for, and an opcode that the
tables do not allot to none (R62). -/
def Obligations.DecoderReadsWrittenOutWords : Prop :=
  let o := fun (d a b : BitVec 6) (f : BitVec 4) (x : Word) => ({ s := false, d := d, a := a, b := b, la := false, lb := false, f := f, ext := x } : Ops)
  -- a header: signature 0xC5, WAIT 010000, ENG 001, N 3
  decodeHeader 0b11000101000000000000100000010011#32 = some { gsense := false, guard := 0#3, wait := 16#6, eng := 1#3, n := 3#4 }
  -- IADD.32 v2, v0, v1; the same with S, LA and LB
  ∧ decodePair 0b0000000_0_000010_000000_000001_0_0_0000#32 0#32 = some (.iadd (o 2#6 0#6 1#6 0#4 0#32))
  ∧ decodePair 0b0000000_1_000010_000000_000001_1_1_0000#32 0#32
      = some (.iadd { s := true, d := 2#6, a := 0#6, b := 1#6, la := true, lb := true, f := 0#4, ext := 0#32 })
  -- FMUL v3, v1, imm with its extension word
  ∧ decodePair 0b0010101_0_000011_000001_111111_0_0_0000#32 0x3F800000#32 = some (.fmul (o 3#6 1#6 63#6 0#4 0x3F800000#32))
  -- LD.32 v4, [v0:1 + z + 16]
  ∧ decodePair 0b0110000_0_000100_000000_111101_0_0_0100#32 0x00001000#32 = some (.ld (o 4#6 0#6 61#6 4#4 0x1000#32))
  -- RINGW, whose A is z, and RINGW configure, whose A is a register
  ∧ decodePair 0b0111100_0_001010_111101_111101_0_0_0001#32 0#32 = some (.ringw (o 10#6 61#6 61#6 1#4 0#32))
  ∧ decodePair 0b0111100_0_001010_110010_111101_0_0_0001#32 0#32 = some (.ringwCfg (o 10#6 50#6 61#6 1#4 0#32))
  -- MMA.BF16, TCOPY, BRA.LANE, EXIT, SRD of sysreg 0x010, TRET
  ∧ decodePair 0b1000000_0_111101_111101_111101_0_0_0000#32 0x00200000#32 = some (.mmaBf16 (o 61#6 61#6 61#6 0#4 0x200000#32))
  ∧ decodePair 0b1010000_0_111101_110000_111101_0_0_0000#32 0x40#32 = some (.tcopy (o 61#6 48#6 61#6 0#4 0x40#32))
  ∧ decodePair 0b1100000_0_111101_000001_111101_0_0_0000#32 0xFFFFFFF0#32 = some (.braLane (o 61#6 1#6 61#6 0#4 0xFFFFFFF0#32))
  ∧ decodePair 0b1100110_0_111101_111101_111101_0_0_0000#32 0#32 = some (.exit (o 61#6 61#6 61#6 0#4 0#32))
  ∧ decodePair 0b1110000_0_110010_111101_111101_0_0_0000#32 0x10#32 = some (.srd (o 50#6 61#6 61#6 0#4 0x10#32))
  ∧ decodePair 0b1110100_0_111101_111101_111101_0_0_0000#32 0#32 = some (.tret (o 61#6 61#6 61#6 0#4 0#32))
  ∧ decodePair 0b0010010_0_000000_000000_000000_0_0_0000#32 0#32 = none
  -- ADDC: operation 0x0A, CR 3, immediate 2; with flag 2, ADDC.wrap; operation 0 is none
  ∧ decodeItin 0b001010_0000_000000_0000_0000_0011_0000_00000000000000000000000000000010#64
      = some (.addc { flags := 0#4, peer := 0#6, sa := 0#4, sb := 0#4, cr := 3#4, red := 0#4, imm := 2#32 })
  ∧ decodeItin 0b001010_0100_000000_0000_0000_0011_0000_00000000000000000000000000000010#64
      = some (.addcWrap { flags := 4#4, peer := 0#6, sa := 0#4, sb := 0#4, cr := 3#4, red := 0#4, imm := 2#32 })
  ∧ decodeItin 0#64 = none

/-- Decode and encode agree on every well-formed step that has an encoding: clause headers, instructions with their extension words,
itinerary words. Every operand at every value the encoding admits comes back, and the bytes after it are left. -/
def Obligations.DecodeOfEncodeIsTheStep : Prop := ∀ (i : Instr), Sys2Proof.Laws.RoundTrip.Statement i

/-- No bit of an instruction word is dropped: the words of whatever a pair of words decodes to are those words, of which the second
belongs to it exactly when it is extended (R33). -/
def Obligations.EncodeOfDecodeIsTheWords : Prop :=
  (∀ (w x : Word) (i : Instr), decodePair w x = some i → encodeWords i = some (if i.extended then [w, x] else [w]))
  ∧ (∀ (w : Word) (h : Header), decodeHeader w = some h → encodeWords (.clauseIssue h) = some [w])
  ∧ (∀ (w : DWord) (i : Instr), decodeItin w = some i → encodeWords i = some [loWord w, hiWord w])

/-- A step of the agent whose turn it is runs what its bytes decode to: a warp inside a clause executes the instruction fetched at its
index, one at a boundary the clause of the header fetched there, a context the itinerary word at its pc; a message or a happening of
an engine is executed itself, once the homes it reads from have been asked; a command ring is read. Around it the step advances the time,
keeps a unit waiting that would post a record while the on-die buffer is full (R311), and drops the accesses that the agent is done with. -/
def Obligations.StepRunsTheDecodedStep : Prop :=
  ∀ (s : State) (ag : Agent),
    let s0 : State := { s with clock := s.clock + 1#64, order := s.order.drop 1 }
    let left := fun (ofHost : Bool) (t : State) =>
      if ofHost = false ∧ 256 ≤ s.host.fqBuffer.length ∧ s.host.fqWaiting.length < t.host.fqWaiting.length then s0 else t.actEnd
    let runs := fun (i : Instr) (r : State) => ∀ t, exec i r = .next t → step s = .next (left i.ring.isSome t)
    s.pkg.tripped = false →
    s.agents[(s.order.head?.getD s.clock.toNat) % max 1 s.agents.length]? = some ag →
    (∀ id c w ext i0 i, ag = .warp id →
      let r := s0.focusWarp id
      let at_ := c.base + BitVec.ofNat 32 c.off
      r.isWarp id = true → r.w.wait = .none → r.w.mac = none → r.w.cl = some c →
      r.fetchWord at_ = .ok w → decodeWord w = some i0 →
      (if i0.extended then r.fetchWord (at_ + 4#32) = .ok ext else ext = 0#32) → decodePair w ext = some i →
      decodeChecks r.g r.w.role false (c.idx + 1 == c.hdr.n.toNat) c.hdr.eng.toNat (w.extractLsb' 25 7) (Ops.ofWord w ext) i = none →
      runs i r)
    ∧ (∀ id p w h, ag = .warp id →
      let r := (s0.focusWarp id).unreserve
      (s0.focusWarp id).isWarp id = true → r.w.wait = .none → r.w.cl = none → r.stopsFor r.w r.g = false → r.w.issueOffset = some p →
      r.fetchWord p = .ok w → decodeHeader w = some h → runs (.clauseIssue h) r)
    ∧ (∀ n c s2 bs i, ag = .ctx n →
      let r : State := { s0 with courier := { s0.courier with cur := n }, acting := (s.ctx n).id }
      let read := BitVec.ofNat 64 (leNat bs)
      FMap.find s.courier.ctxs n = some c → r.ctxDoom c = none → c.todo = [] → c.ending = none → i.itinOk = true →
      (∀ w, c.word = some w → decodeItin w = some i → runs i r)
      ∧ (c.word = none → r.ctxRead c c.pc.toNat 8 = .ok s2 bs → decodeItin read = some i →
          runs i (s2.modCtx n (fun c => { c with word := some read }))))
    ∧ (∀ e, ag = .event e → s.eventReads e = [] → runs e { s0 with events := removeEvent e s.events, acting := s.actorOf e })
    ∧ (∀ e s1, ag = .event e → s.eventReads e ≠ [] → s0.homeGets pkgParty ctlAgent (s.eventReads e) = .wait s1 → step s = .next (left false s1))
    ∧ (∀ e, ag = .derived e → runs e { s0 with acting := s.actorOf e })
    ∧ (∀ m, ag = .ring m → step s = .next (left false (s0.readRing m)))

/-- R38: a fetched word whose opcode or function code is not allotted raises ILLEGAL_OPCODE, and an instruction that fails a later check
the cause of the first check it fails, at the instruction, with `taddr` the instruction's words; it has no effect of its own. A bad
clause header raises ILLEGAL_CLAUSE. At level 0 a purse, `rest`, `grace` or `scopechk` may not be written, and MCLOAD not be issued. -/
def Obligations.FailedDecodeChecksRaise : Prop :=
  (∀ (s : State) (c : Clause) (w ext : Word) (i0 i : Instr),
    let at_ := c.base + BitVec.ofNat 32 c.off
    s.fetchWord at_ = .ok w →
    (decodeWord w = none → s.instrTurn (s.nextInstr c) = .done (s.raise .illegalOpcode s.w.exec (pairOf w 0#32)))
    ∧ (∀ e, decodeWord w = some i0 → (if i0.extended then s.fetchWord (at_ + 4#32) = .ok ext else ext = 0#32) →
      decodePair w ext = some i →
      decodeChecks s.g s.w.role false (c.idx + 1 == c.hdr.n.toNat) c.hdr.eng.toNat (w.extractLsb' 25 7) (Ops.ofWord w ext) i = some e →
      s.instrTurn (s.nextInstr c) = .done (s.raise e s.w.exec (decodeAddr e w ext i))))
  ∧ (∀ (g : Workgroup) (role eng : Nat) (last : Bool) (op : BitVec 7) (o : Ops) (i : Instr), i.opcode = some (op, o) →
      let chk := decodeChecks g role false last eng op o i
      let ctl := i.isControlTransfer = true ∧ last = false
      let fields := i.fieldsOk op o = true ∧ ∀ n, i.accTile = some n → n < g.accAllot
      (ctl → chk = some .illegalOpcode)
      ∧ (¬ctl → classOfOp op ≠ eng → chk = some .illegalClass)
      ∧ (¬ctl → classOfOp op = eng → ¬fields → chk = some .illegalOperand)
      ∧ (¬ctl → classOfOp op = eng → fields → roleAllows role (classOfOp op) i = false → chk = some .roleViolation)
      ∧ (¬ctl → classOfOp op = eng → fields → roleAllows role (classOfOp op) i = true → i.needsPrivilege g.level = true →
          chk = some .privilege)
      ∧ (¬ctl → classOfOp op = eng → fields → roleAllows role (classOfOp op) i = true → i.needsPrivilege g.level = false → chk = none))
  ∧ (∀ (o : Ops) (n : Nat), o.ext = BitVec.ofNat 32 n → n ∈ [0, 1, 2, 3, 0x40] →
      (Instr.swr o).needsPrivilege 0 = true ∧ (Instr.swr o).needsPrivilege 1 = false)
  ∧ (∀ o : Ops, (Instr.mcload o).needsPrivilege 0 = true ∧ (Instr.mcload o).needsPrivilege 1 = false)
  ∧ (∀ (h : Header) (s s1 : State) (p : Word), let r := s.unreserve
      r.boundaryStop = none → r.w.issueOffset = some p → h.ok = false →
      s1 = { r with w := (r.w.leaveSpan p).openClause p h } →
      exec (.clauseIssue h) s = .next (s1.raiseRec (s1.w.trapRec .illegalClause s1.w.exec (pairOf h.toWord 0#32) false)))

/-- Every instruction, in every form and whatever it does: a vector or uniform register that it does not name as a destination in an
active lane, that its last-use bits do not release, and for which no returned result waits, reads as before; so does a predicate, but
for TRET, which restores them. -/
def Obligations.InstructionsChangeOnlyTheirDestinationRegisters : Prop :=
  ∀ (i : Instr) (op : BitVec 7) (o : Ops) (s t : State) (k : Nat),
    i.opcode = some (op, o) → exec i s = .next t →
    (∀ x ∈ s.w.outs, FMap.find x.vals k = none) →
    k ∉ Says.destKeys i o s →
    (∀ n l, n ∈ Says.released i o → l < 32 → k ≠ vkey n l) →
    (k < 4096 ∨ ∀ o', i ≠ .tret o') →
    t.w.readKey k = s.w.readKey k

/-- What instructions leave unchanged beside the registers. Home memory: all of it, but for PURSE.SPLIT and LAUNCH, which write packets, as
long as the workgroup has no stash window, whose fills and write-backs move bytes between holders. The workgroup's allotment: every
byte that no active lane of a store or an atomic addresses; all of it for the others. Accumulator elements and tile marks: all. Windows: which
are mapped, and with what, but by the stash instructions; rings but by RINGW; barriers but by BAR; children but by LAUNCH; macros but by MCLOAD;
the exhaustion latch never falls but by PURSE.ADD. Where no trap can be fatal: spawn memory but by BRA.SPLIT, the matrix queue but by class
MX and RINGW, the Porter's queues but by class TILE. `tvec`, `rest`, `grace`, `scopechk` and `amask`: all but by SWR and PURSE.SETREST; the
trap block and frame: all but by an exception or TRET. -/
def Obligations.InstructionsLeaveTheRestUnchanged : Prop :=
  ∀ (i : Instr) (op : BitVec 7) (o : Ops) (s t : State),
    i.opcode = some (op, o) → exec i s = .next t →
    let packets := (∃ o', i = .purseSplit o') ∨ (∃ o', i = .launch o')
    let setsSys := (∃ o', i = .swr o') ∨ (∃ o', i = .purseSetrest o')
    let stored := fun (p : Nat) => ∃ (l width : Nat) (a : DWord), l < 32 ∧ s.w.activeLanes.getLsbD l = true
      ∧ (i = .st o ∧ width = memWidth o.f ∧ a = s.w.keptAddr l (s.w.laneAddr o.ext o.a o.b (if memScale o.ext then width else 1) (memOfs o.ext) l)
        ∨ (i = .atom o ∨ i = .red o ∨ i = .cas o) ∧ width = atomWidth o.ext ∧ a = s.w.keptAddr l (s.w.laneAddr o.ext o.a o.b width (atomOfs o.ext) l))
      ∧ a.toNat ≤ 0x01FFFF0000000000 + p ∧ 0x01FFFF0000000000 + p < a.toNat + width
    (s.g.windows = [] → ¬packets → ∀ a, t.memByte a = s.memByte a)
    ∧ (s.g.windows = [] → s.w.held = none → ¬packets → ∀ p, ¬stored p → FMap.get t.g.pad 0#8 p = FMap.get s.g.pad 0#8 p)
    ∧ t.g.acc = s.g.acc ∧ t.g.marks = s.g.marks
    ∧ (i ∉ [.stashMap o, .stashUnmap o, .stashFlush o, .stashClean o, .stashInv o] →
        t.g.windows.map (fun p => (p.1, p.2.base, p.2.len, p.2.off, p.2.pol, p.2.scope))
          = s.g.windows.map (fun p => (p.1, p.2.base, p.2.len, p.2.off, p.2.pol, p.2.scope)))
    ∧ (i ∉ [.ringw o, .ringwCfg o] → t.g.rings = s.g.rings) ∧ (i ∉ [.barArrive o, .barSync o, .barSyncPath o] → t.g.bars = s.g.bars)
    ∧ (i ≠ .launch o → t.g.kids = s.g.kids) ∧ (i ≠ .mcload o → t.g.macros = s.g.macros)
    ∧ (i ≠ .purseAdd o → s.g.latch = true → t.g.latch = true)
    ∧ (s.g.tvec ≠ lpcExited → s.w.frame = none → i ≠ .swr o →
        (i ≠ .braSplit o → t.g.spawn = s.g.spawn) ∧ (classOfOp op ≠ 2 → i ≠ .ringw o → t.g.mx = s.g.mx)
        ∧ (classOfOp op ≠ 3 → t.g.porter = s.g.porter))
    ∧ (¬setsSys → t.g.tvec = s.g.tvec ∧ t.g.rest = s.g.rest ∧ t.g.grace = s.g.grace ∧ t.g.scopechk = s.g.scopechk ∧ t.w.amask = s.w.amask)
    ∧ (t.w.frame = s.w.frame → (∀ o', i ≠ .tret o') → t.w.tb = s.w.tb)
    ∧ t.w.wident = s.w.wident ∧ t.w.wg = s.w.wg ∧ t.w.wid = s.w.wid ∧ t.pkg.owner = s.pkg.owner ∧ t.clock = s.clock

/-- Home memory keeps its canonical form (addresses rising, no entry of the value an unlisted one reads as) whatever step is taken, from
whatever state. -/
def Obligations.EveryStepKeepsMemoryCanonical : Prop :=
  ∀ (s t : State), Memory.wf s.mem = true → step s = .next t → Memory.wf t.mem = true

/-- What the specification gives for reset: every context idle with generation 0 (R209), memory zero and unpoisoned once power is good and
the signature holds (R350; that memory reads zero before, and companion and peer memory at all, is the model's choice, logs 5 and 93, as
are the stage and the mailbox before power-good, log 12, and that a port with a neighbour is one that `Config.cabled` names, log 36), the clove interval 4,096 (R360), the timeouts and the threshold of R345 and R325, no owner. Home memory is in canonical form at reset. -/
def Obligations.ResetIsAsStated : Prop :=
  (∀ n, (State.reset.ctx n).st = 0 ∧ (State.reset.ctx n).gen = 0#4)
  ∧ (∀ a, keyCipher a = 0 → State.reset.memByte a = 0#8) ∧ (∀ a, State.reset.poisoned a = false)
  ∧ State.reset.pkg.clove = 4096 ∧ State.reset.pkg.owner = none ∧ State.reset.pkg.stage = 0 ∧ State.reset.pkg.mailbox = 0
  ∧ State.reset.host.recallTmo = 1000 ∧ State.reset.host.replyTmo = 2000 ∧ State.reset.host.threshold = 16
  ∧ (∀ t, (State.reset.gov t).cap = 280) ∧ State.reset.allWarps = [] ∧ State.reset.events = []
  ∧ (∀ p s fs fp, Says.answers (.powerGood true fs fp) s (fun t =>
      t.pkg.stage = 4 ∧ t.pkg.windowOpen = true ∧ t.pkg.owner = none ∧ t.w.present = false ∧ t.grids = [] ∧ t.courier = Courier.empty
      ∧ (p < 32 → Config.cabled p = true → p ∉ fp → (t.link p).up = true) ∧ (p ∈ fp ∨ Config.cabled p = false → (t.link p).up = false)
      ∧ (∀ k, ownDram k = true → keyCipher k = 0 → t.memByte k = 0#8) ∧ (∀ k, ownDram (32 * k) = true → k ∉ t.poison)))
  ∧ Memory.wf State.reset.mem = true

/-! ## Memory instructions -/

/-- R42, R151, R153: a load of the allotment. Each active lane's destination registers hold, once its result is installed, the bytes at its
address (`v[A]:v[A+1]` plus the scaled index plus the offset), sign- or zero-extended below 32 bits, word by word above; memory and
allotment stay as they are. A store writes each active lane's bytes, the highest lane's where lanes meet (R146), and nothing else. -/
def Obligations.ScratchpadLoadsAndStoresMoveTheirBytes : Prop :=
  ∀ (o : Ops) (s : State) (off : Nat → Nat),
    let width := memWidth o.f
    let addr := s.w.laneAddr o.ext o.a o.b (if memScale o.ext then width else 1) (memOfs o.ext)
    let act := fun (l : Nat) => l < 32 ∧ s.w.activeLanes.getLsbD l = true
    s.w.activeLanes ≠ 0#32 → s.g.windows = [] → Says.inPad s addr width off →
    (o.d.toNat + max 1 (width / 4) ≤ 48 → Says.room s 64 → Says.answers (.ld o) s (fun t =>
      (∀ l j, act l → j < max 1 (width / 4) →
        Says.installed t (vkey (o.d.toNat + j) l)
          = if o.f = 1#4 ∨ o.f = 3#4 then BitVec.ofInt 32 (signedNat (8 * width) (Says.padNat s (off l) width))
            else BitVec.ofNat 32 (Says.padNat s (off l + 4 * j) (min 4 width)))
      ∧ Says.sameMem s t ∧ t.g.pad = s.g.pad))
    ∧ (48 ≤ o.d.toNat → o.d.toNat + max 1 (width / 4) ≤ 60 → uniformAddr o.a o.b = true → Says.room s 64 →
      Says.answers (.ld o) s (fun t => ∀ l j, act l → j < max 1 (width / 4) →
        Says.installed t (ukey (o.d.toNat - 48 + j))
          = if o.f = 1#4 ∨ o.f = 3#4 then BitVec.ofInt 32 (signedNat (8 * width) (Says.padNat s (off l) width))
            else BitVec.ofNat 32 (Says.padNat s (off l + 4 * j) (min 4 width))))
    ∧ (s.w.held = none → Says.room s 64 →
      let byte := fun (l j : Nat) =>
        let v := if o.d = 61#6 then 0 else (s.w.src 0#32 (o.d + BitVec.ofNat 6 (j / 4)) l).toNat
        BitVec.ofNat 8 (v / 256 ^ (j % 4))
      Says.answers (.st o) s (fun t =>
        (∀ l j, act l → j < width → (∀ m, act m → l < m → ¬(off m ≤ off l + j ∧ off l + j < off m + width)) →
          FMap.get t.g.pad 0#8 (off l + j) = byte l j)
        ∧ (∀ p, (∀ l, act l → ¬(off l ≤ p ∧ p < off l + width)) → FMap.get t.g.pad 0#8 p = FMap.get s.g.pad 0#8 p)
        ∧ Says.sameMem s t))

/-- R156 to R158 on the allotment: the active lanes act in ascending order, each on the value the lanes below left; ATOM and CAS give each
lane the value it found, RED none, and the bytes of no other word change. The operation on a word is that of R156. -/
def Obligations.ScratchpadAtomicsActLaneByLane : Prop :=
  ∀ (o : Ops) (s : State) (off : Nat → Nat) (i : Instr),
    let len := atomWidth o.ext
    let wide := len == 8
    let addr := s.w.laneAddr o.ext o.a o.b len (atomOfs o.ext)
    let act := fun (l : Nat) => l < 32 ∧ s.w.activeLanes.getLsbD l = true
    let val := fun (c : BitVec 6) (l : Nat) => if wide then (s.w.srcPair 0#32 c l).toNat else (s.w.src 0#32 c l).toNat
    let new := fun (l x : Nat) =>
      if i = .cas o then (if x = val o.d l then val (o.d + (if wide then 2#6 else 1#6)) l else x)
      else atomicOp o.f.toNat wide x (val o.d l)
    let found := fun (l : Nat) =>
      ((lanes.take l).filter (fun m => s.w.activeLanes.getLsbD m && off m == off l)).foldl (fun x m => new m x) (Says.padNat s (off l) len)
    (i = .atom o ∨ i = .red o ∨ i = .cas o) → (wide = true → o.f.toNat ≤ 8) →
    s.w.activeLanes ≠ 0#32 → s.g.windows = [] → s.w.held = none → Says.room s 64 → Says.inPad s addr len off →
    Says.answers i s (fun t =>
      (∀ l, act l → (∀ m, act m → l < m → off m ≠ off l) → Says.padNat t (off l) len = new l (found l))
      ∧ (∀ p, (∀ l, act l → ¬(off l ≤ p ∧ p < off l + len)) → FMap.get t.g.pad 0#8 p = FMap.get s.g.pad 0#8 p)
      ∧ (i ≠ .red o → o.d.toNat + len / 4 ≤ 48 → ∀ l, act l →
          Says.installed t (vkey o.d.toNat l) = BitVec.ofNat 32 (found l)
          ∧ (wide = true → Says.installed t (vkey (o.d.toNat + 1) l) = BitVec.ofNat 32 (found l / 2 ^ 32)))
      ∧ Says.sameMem s t)

/-- R156: what each atomic operation leaves, on 32- and 64-bit values; SWAP leaves the operand. The f32 forms, on 32 bits: the larger, the
smaller and the larger in magnitude by the rules of R75 (a NaN gives the canonical one, +0 is above -0), and the sum rounded to nearest. -/
def Obligations.AtomicOperationsComputeR156 : Prop :=
  ∀ (x v : Nat) (wide : Bool), let w := if wide then 64 else 32
    x < 2 ^ w → v < 2 ^ w →
    atomicOp 0 wide x v = (x + v) % 2 ^ w ∧ atomicOp 1 wide x v = x &&& v ∧ atomicOp 2 wide x v = x ||| v
    ∧ atomicOp 3 wide x v = x ^^^ v
    ∧ atomicOp 4 wide x v = (if (BitVec.ofNat w x).toInt < (BitVec.ofNat w v).toInt then v else x) ∧ atomicOp 5 wide x v = max x v
    ∧ atomicOp 6 wide x v = (if (BitVec.ofNat w v).toInt < (BitVec.ofNat w x).toInt then v else x) ∧ atomicOp 7 wide x v = min x v
    ∧ atomicOp 8 wide x v = v
    ∧ (wide = false →
      let nan := 0x7F800000 < x % 2 ^ 31 ∨ 0x7F800000 < v % 2 ^ 31
      let ord := fun (n : Nat) => if n < 2 ^ 31 then (n : Int) else -((n : Int) - 2 ^ 31)
      let larger := fun (a b : Nat) => if ord a < ord b then b else if ord b < ord a ∨ a = b then a else 0
      let smaller := fun (a b : Nat) => if ord b < ord a then b else if ord a < ord b ∨ a = b then a else 0x80000000
      atomicOp 9 wide x v = (if nan then 0x7FC00000 else larger x v)
      ∧ atomicOp 10 wide x v = (if nan then 0x7FC00000 else smaller x v)
      ∧ atomicOp 11 wide x v = (if nan then 0x7FC00000 else larger (x % 2 ^ 31) (v % 2 ^ 31))
      ∧ atomicOp 12 wide x v = (fadd fmtF32 .rn x v).val)

/-- R42, R154, R159: an access to memory that no cache of the part holds becomes a request for the home: kind by policy (of a store: own under own,
else a write-through store), key, length, bytes or operand, and the event that carries it to the first stage; the warp's outstanding
operation (W0 for LD, ATOM, CAS, W1 for ST, RED) awaits it, and memory is not yet changed. -/
def Obligations.MemoryAccessesSendRequests : Prop :=
  ∀ (o : Ops) (s : State) (key : Nat → Nat) (at_ : Nat → Attr),
    let act := fun (l : Nat) => l < 32 ∧ s.w.activeLanes.getLsbD l = true
    let width := memWidth o.f
    let len := atomWidth o.ext
    let addr := s.w.laneAddr o.ext o.a o.b (if memScale o.ext then width else 1) (memOfs o.ext)
    let aaddr := s.w.laneAddr o.ext o.a o.b len (atomOfs o.ext)
    let kind := fun (a : Access) (w : Nat) (line atomic f32 : Bool) =>
      ({ acc := a, width := w, line := line, atomic := atomic, f32Atomic := f32, align := true } : AccessKind)
    let val := fun (c : BitVec 6) (l : Nat) => if len = 8 then (s.w.srcPair 0#32 c l).toNat else (s.w.src 0#32 c l).toNat
    let sent := fun (t : State) (cls : Nat) (p : Req → Prop) => ∃ r, r ∈ t.fab.reqs ∧ r.id ≥ s.nextId ∧ r.stage = 0 ∧ p r
      ∧ Instr.waystationArrival 1 r.id ∈ t.events
      ∧ ∃ x parts lns, x ∈ t.w.outs ∧ x.cls = cls ∧ 0 < x.waiting ∧ r.dest = .warp s.warpId x.id parts lns
    s.w.activeLanes ≠ 0#32 → s.fab.lines = [] → s.w.held = none → Says.room s 64 → Says.calm o s → Says.unreplayed s →
    ((∀ l, act l → s.resolve (kind .read width (width == 16 && memCoh o.ext == 0) false false) (addr l) = .ok (.memory (key l) (at_ l))) →
      (uniformAddr o.a o.b = true → ∀ l m, act l → act m → key l = key m ∧ at_ l = at_ m) →
      Says.answers (.ld o) s (fun t => Says.sameMem s t ∧ ∀ l, act l → ∀ off n, (off, n) ∈ piecesOf width →
        sent t 0 (fun r => r.kind = loadKind (polFor (memCoh o.ext) (key l) (at_ l)) ∧ r.key = key l + off ∧ r.len = n ∧ r.op = 13 ∧ r.ret = true)))
    ∧ ((∀ l, act l → s.resolve (kind .write width false false false) (addr l) = .ok (.memory (key l) (at_ l))) →
      ((∀ l m, act l → act m → l ≠ m → key l + width ≤ key m ∨ key m + width ≤ key l)
        ∨ (uniformAddr o.a o.b = true ∧ (isUniformCode o.d = true ∨ o.d = 61#6) ∧ ∀ l m, act l → act m → key l = key m ∧ at_ l = at_ m)) →
      Says.answers (.st o) s (fun t => Says.sameMem s t ∧ ∀ l j, act l → j < width →
        sent t 1 (fun r => (r.kind = .wtw ∨ r.kind = .own) ∧ r.op = 14
          ∧ ((∀ m, act m → at_ m = at_ l) → r.kind = if polFor (memCoh o.ext) (key l) (at_ l) = 1 then .own else .wtw)
          ∧ (key l + j, (s.w.storeBytes o.d width l).getD j 0#8) ∈ r.cells)))
    ∧ (∀ i : Instr, (i = .atom o ∨ i = .red o) →
      (∀ l, act l → s.resolve (kind .write len false true (decide (9 ≤ o.f.toNat))) (aaddr l) = .ok (.memory (key l) (at_ l))) →
      Says.answers i s (fun t => Says.sameMem s t ∧ ∀ l, act l → sent t (if i = .red o then 1 else 0) (fun r =>
        (r.kind = if memCoh o.ext = 5 ∧ farKey (key l) = false then .acc else .atomic)
        ∧ r.key = key l ∧ r.len = len ∧ r.op = o.f.toNat ∧ r.operand = val o.d l ∧ r.ret = decide (i ≠ .red o))))
    ∧ ((∀ l, act l → s.resolve (kind .write len false true false) (aaddr l) = .ok (.memory (key l) (at_ l))) → memCoh o.ext ≠ 5 →
      Says.answers (.cas o) s (fun t => Says.sameMem s t ∧ ∀ l, act l → sent t 0 (fun r => r.kind = .atomic ∧ r.key = key l ∧ r.len = len
        ∧ r.op = 15 ∧ r.operand = val o.d l ∧ r.newval = val (o.d + (if len = 8 then 2#6 else 1#6)) l ∧ r.ret = true)))

/-- R155: PREF completes whatever its addresses: no register, allotment byte or outstanding operation changes and no exception is taken; with
`F` 0 it asks for the grains of the lines its lanes name. With `F` 1, which would bring a line into the home's slice, it asks for nothing:
the model's choice, which has no such slice (log 116). It waits only for request entries of its core (R150) and for page tables whose homes
must be asked (R309). -/
def Obligations.PrefetchCommitsNothing : Prop :=
  ∀ (o : Ops) (s : State), (o.f = 0#4 → Says.room s 512) →
    (∀ l, l < 32 → s.w.activeLanes.getLsbD l = true →
      s.resolve { acc := .read, width := 1, line := false, atomic := false, f32Atomic := false, align := false }
        (s.w.laneAddr o.ext o.a o.b 1 (memOfs o.ext) l) ≠ .error (0, .walkWait)) →
    Says.does (.pref o) o s (fun u =>
      u.w.outs = s.w.outs ∧ u.w.trap = s.w.trap ∧ u.w.frame = s.w.frame ∧ u.w.wait = s.w.wait ∧ u.w.preds = s.w.preds
      ∧ (∀ k, (∀ n l, n ∈ Says.released (.pref o) o → l < 32 → k ≠ vkey n l) → u.w.readKey k = s.w.readKey k)
      ∧ u.g.pad = s.g.pad ∧ Says.sameMem s u ∧ u.fab.lines = s.fab.lines ∧ u.fab.dir = s.fab.dir
      ∧ (o.f ≠ 0#4 → u.fab.reqs = s.fab.reqs)
      ∧ (o.f = 0#4 → s.fab.lines = [] → ∀ l key a, l < 32 → s.w.activeLanes.getLsbD l = true →
          s.resolve { acc := .read, width := 1, line := false, atomic := false, f32Atomic := false, align := false }
            (s.w.laneAddr o.ext o.a o.b 1 (memOfs o.ext) l) = .ok (.memory key a) →
          polFor (memCoh o.ext) key a ≠ 2 →
          ∃ r, r ∈ u.fab.reqs ∧ r.key = key - key % a.grain ∧ r.dest = .prefetch ∧ Instr.waystationArrival 1 r.id ∈ u.events))

/-- R145, R146, R300: the checks of a load, store or atomic come in their order over all active lanes: an address above 57 bits raises
PROTECTION and then a misaligned one MISALIGNED, for the lanes that fail the check, with `taddr` the lowest one's; nothing else happens
but the charge. Before them come page tables whose homes must first be asked (R309). -/
def Obligations.AccessChecksRaiseInOrder : Prop :=
  ∀ (i : Instr) (o : Ops) (s : State) (l0 : Nat),
    let width := if i = .ld o ∨ i = .st o then memWidth o.f else atomWidth o.ext
    let addr := if i = .ld o ∨ i = .st o then s.w.laneAddr o.ext o.a o.b (if memScale o.ext then width else 1) (memOfs o.ext)
      else s.w.laneAddr o.ext o.a o.b width (atomOfs o.ext)
    let once := uniformAddr o.a o.b && (i == .ld o || isUniformCode o.d || o.d == 61#6)
    let n := s.w.activeLanes.count
    let bytes := if s.w.activeLanes = 0#32 then 0 else if i = .ld o ∨ i = .st o then (if once then width else width * n) else 2 * width * n
    let high := maskOf (fun l => s.w.activeLanes.getLsbD l && decide (2 ^ 57 ≤ (addr l).toNat))
    let odd := maskOf (fun l => s.w.activeLanes.getLsbD l && decide ((addr l).toNat % width ≠ 0))
    (i = .ld o ∨ i = .st o ∨ i = .atom o ∨ i = .red o ∨ i = .cas o) → s.w.held = none → Says.unreplayed s →
    (∀ l k, l < 32 → s.w.activeLanes.getLsbD l = true → s.resolve k (addr l) ≠ .error (0, .walkWait)) →
    (high.lowest = some l0 → exec i s = .next ((s.charge 1 bytes).raise .protection high (addr l0)))
    ∧ (high = 0#32 → odd.lowest = some l0 → exec i s = .next ((s.charge 1 bytes).raise .misaligned odd (addr l0)))

/-- R161 to R164: with request entries for the dirty sectors it writes back, MAP leaves the window named by `D` with the range, offset,
policy and scope it gives and no valid sector, or raises what R162 says (where several of its rows hold, in the order of log 28, the
model's choice); UNMAP leaves it unmapped; FLUSH leaves no dirty byte and the valid sectors, CLEAN and INV neither; without the entries they
wait (R150). On an unmapped window, and without an active lane, they do nothing but their charge. -/
def Obligations.StashInstructionsKeepTheirWindow : Prop :=
  ∀ (o : Ops) (s : State),
    let n := o.d.toNat
    let kb := (s.w.usrc o.ext o.b).toNat
    let w : Window := { base := s.w.upair o.a + BitVec.ofInt 64 (memOfs o.ext), len := kb / 2 ^ 16, off := kb % 2 ^ 16,
                        pol := memCoh o.ext, scope := memScope o.ext, valid := [], dirty := [] }
    let room := ∀ x, FMap.find s.g.windows n = some x → s.fits (s.windowNeeds s.g x) = true
    let meets := fun (x : Window) => overlap x.off x.len w.off w.len = true ∨ overlap x.base.toNat (x.len * 32) w.base.toNat (w.len * 32) = true
    let low := w.base.toNat < 2 ^ 57 ∧ w.base.toNat % 32 = 0
    let forms := [Instr.stashUnmap o, .stashFlush o, .stashClean o, .stashInv o]
    (s.w.activeLanes ≠ 0#32 →
      (s.g.mapCheck n w = none → room →
        Says.does (.stashMap o) o s (fun u => FMap.find u.g.windows n = some w))
      ∧ (∀ c, s.g.mapCheck n w = some c → c ≠ .illegalOperand →
          exec (.stashMap o) s = .next ((s.charge 1 0).raise c s.w.activeLanes w.base))
      ∧ (s.g.mapCheck n w = some .illegalOperand →
          exec (.stashMap o) s = .next ((s.charge 1 0).raise .illegalOperand s.w.activeLanes (pairOf (Ops.toWord 0x36#7 o) o.ext)))
      ∧ (2 ^ 57 ≤ w.base.toNat → s.g.mapCheck n w = some .protection)
      ∧ (w.base.toNat < 2 ^ 57 → w.base.toNat % 32 ≠ 0 → s.g.mapCheck n w = some .misaligned)
      ∧ (low → w.len = 0 ∨ 12288 < w.len → s.g.mapCheck n w = some .illegalOperand)
      ∧ (low → 1 ≤ w.len → w.len ≤ 12288 → (s.g.padUnits * 128 < w.off + w.len ∨ ∃ m x, (m, x) ∈ s.g.windows ∧ m ≠ n ∧ meets x) →
          s.g.mapCheck n w = some .protection)
      ∧ (low → 1 ≤ w.len → w.len ≤ 12288 → w.off + w.len ≤ s.g.padUnits * 128 → (∀ m x, (m, x) ∈ s.g.windows → m ≠ n → ¬meets x) →
          s.g.mapCheck n w = none)
      ∧ (∀ x, FMap.find s.g.windows n = some x → s.fits (s.windowNeeds s.g x) = false →
          ∀ i ∈ [Instr.stashUnmap o, .stashFlush o, .stashClean o],
            exec i s = .next ((s.charge 1 0).stall (.entries (s.windowNeeds s.g x))))
      ∧ (room → Says.does (.stashUnmap o) o s (fun u => FMap.find u.g.windows n = none))
      ∧ (∀ x, FMap.find s.g.windows n = some x →
          (room → Says.does (.stashFlush o) o s (fun u => FMap.find u.g.windows n = some { x with dirty := [], failed := [] })
            ∧ Says.does (.stashClean o) o s (fun u => FMap.find u.g.windows n = some { x with dirty := [], failed := [], valid := [] }))
          ∧ Says.does (.stashInv o) o s (fun u => FMap.find u.g.windows n = some { x with dirty := [], failed := [], valid := [] }))
      ∧ (FMap.find s.g.windows n = none → ∀ i ∈ forms, exec i s = .next ((s.charge 1 0).retire i o)))
    ∧ (s.w.activeLanes = 0#32 → ∀ i ∈ .stashMap o :: forms, exec i s = .next ((s.charge 1 0).retire i o))

/-- R165, R166: a WAITA whose word in the allotment meets its condition writes the word to its destination and passes; one whose word does
not, with the purse not exhausted, parks on the word. One whose word lies in memory parks and asks the word's home for it, and takes it
when the answer meets its condition, and stays parked when it does not. A parked one that a write or the periodic wake finds true takes its
word; a WAITA that has been told so passes. -/
def Obligations.WaitaCompletesWhenItsConditionHolds : Prop :=
  (∀ (o : Ops) (s : State) (off : Nat),
    let addr := s.w.upair o.a + BitVec.ofInt 64 (memOfs o.ext)
    let x : Word := BitVec.ofNat 32 (Says.padNat s off 4)
    let cmp := s.w.usrc 0#32 o.b
    let holds := match o.f.toNat with | 0 => x ≠ cmp | 1 => x = cmp | 2 => cmp.toNat ≤ x.toNat | _ => cmp.toInt ≤ x.toInt
    s.w.activeLanes ≠ 0#32 → Says.unreplayed s → s.g.windows = [] → s.g.padPoison = [] → s.told = false → s.w.awaits (fun y => y.cls == 0) = false →
    addr = BitVec.ofNat 64 (0x01FFFF0000000000 + off) → off % 4 = 0 → off + 4 ≤ s.g.padUnits * 4096 → off + 4 ≤ 0x60000 →
    (holds → Says.does (.waita o) o s (fun u => Says.dest s u o.d (fun _ => x) ∧ Says.sameMem s u))
    ∧ (¬holds → (s.charge 1 4).g.latch = false →
        Says.answers (.waita o) s (fun t =>
          t.w.wait = .word addr (2 ^ 70 + off) o.f cmp (memScope o.ext) o.d 0 ∧ t.w.active = false)))
  ∧ (∀ (o : Ops) (s : State) (key : Nat) (a : Attr),
    let addr := s.w.upair o.a + BitVec.ofInt 64 (memOfs o.ext)
    s.w.activeLanes ≠ 0#32 → Says.unreplayed s → s.told = false → s.w.awaits (fun y => y.cls == 0) = false → Says.room s 1 →
    s.resolve waitaKind addr = .ok (.memory key a) →
    Says.answers (.waita o) s (fun t => t.w.wait = .word addr key o.f (s.w.usrc 0#32 o.b) (memScope o.ext) o.d s.nextId ∧ t.w.active = false
      ∧ Says.sameMem s t ∧ ∃ r, r ∈ t.fab.reqs ∧ r.key = key ∧ r.len = 4 ∧ r.kind = .wtr ∧ r.dest = .waita s.warpId s.nextId false
          ∧ Instr.waystationArrival 1 r.id ∈ t.events))
  ∧ (∀ (s : State) (id : WarpId) (r : Req) (rep : Reply) (bs : List Byte) (addr : DWord) (key num : Nat) (woken : Bool) (cond : BitVec 4)
      (cmp : Word) (scope : Nat) (d : BitVec 6),
      let x : Word := BitVec.ofNat 32 (leNat bs)
      s.isWarp id = true → s.g.serial = id.wg → s.g.place = .running → s.w.wait = .word addr key cond cmp scope d num → s.w.cl.isSome = true →
      s.findReq r.id = some r → r.dest = .waita id num woken → r.replyRead rep = .ok bs →
      (waitaCond cond x cmp = true → Says.answers (.memoryReply r.id rep) s (fun t => t.w.wait = .none ∧ t.told = true ∧ Says.dest s t d (fun _ => x)))
      ∧ (waitaCond cond x cmp = false → s.g.latch = false → woken = false → Says.answers (.memoryReply r.id rep) s (fun t => t.w = s.w)))
  ∧ (∀ (o : Ops) (s : State), s.w.activeLanes ≠ 0#32 → s.told = true →
    Says.does (.waita o) o s (fun u => Says.sameMem s u ∧ u.w.outs = s.w.outs ∧ u.w.wait = s.w.wait))
  ∧ (∀ (s : State) (id : WarpId) (addr : DWord) (off num : Nat) (cond : BitVec 4) (cmp : Word) (scope : Nat) (d : BitVec 6) (i : Instr),
      (i = .waitaWake id ∨ i = .waitaPeriodicWake id) →
      let x : Word := BitVec.ofNat 32 (Says.padNat s off 4)
      s.isWarp id = true → s.g.serial = id.wg → s.g.place = .running → s.w.wait = .word addr (2 ^ 70 + off) cond cmp scope d num →
      s.g.windows = [] → s.g.padPoison = [] → s.w.cl.isSome = true → addr = BitVec.ofNat 64 (0x01FFFF0000000000 + off) → off % 4 = 0 →
      off + 4 ≤ s.g.padUnits * 4096 → off + 4 ≤ 0x60000 → waitaCond cond x cmp = true →
      Says.answers i s (fun t => t.w.wait = .none ∧ t.told = true ∧ Says.dest s t d (fun _ => x)))

/-- R134, R136, R168 to R170, R230: a fence with nothing to wait for passes: an acquire drops the core's self-invalidated copies, in L1 and in
stash windows, at tile scope or wider, a release is held by the warp, a full fence leaves held what is wider than it; PFENCE, QFENCE, TFENCE
and ISYNC just pass, ISYNC with an empty loop buffer. With something to wait for, a fence waits for it: loads, a release, own stores, the
commands joined, arithmetic, stores. Without an active lane they make their charge and pass. -/
def Obligations.FencesPassOrWait : Prop :=
  (∀ (o : Ops) (s : State), s.w.activeLanes ≠ 0#32 →
    let f := o.f.toNat
    let s1 := s.charge 1 0
    let loads := s.w.awaits (fun x => x.cls == 0)
    let wider := some (match s.w.held with | some h => max h f | none => f)
    let kept := match s.w.held with | some h => if f < h then some h else none | none => none
    let dropped := fun (u : State) => 2 ≤ f → (∀ l ∈ u.fab.lines, ¬(l.who = l1Of s.g.core ∧ l.st = .s))
      ∧ (s.g.place = .running → ∀ p ∈ u.g.windows, ∀ sec ∈ p.2.valid, ∀ key a, s.sectorKey s.g p.2 .read sec = .ok (key, a) → polFor p.2.pol key a ≠ 3)
    let ids := if s.charged = false then s1.queued s.g.serial o.ext.toNat else s.awaitIds
    let left := ids.filter (fun n => (s1.commandIds s.g.serial).contains n)
    (o.d = 0#6 → loads = false → Says.does (.fence o) o s (fun u => dropped u ∧ u.w.held = s.w.held))
    ∧ (o.d = 1#6 → Says.does (.fence o) o s (fun u => u.w.held = wider ∧ u.fab = s.fab))
    ∧ (o.d = 2#6 → loads = false → Says.does (.fence o) o s (fun u => dropped u ∧ u.w.held = wider))
    ∧ (3 ≤ o.d.toNat → (∀ x ∈ s.w.outs, x.cls ≤ 1 → x.waiting = 0 ∧ x.fail = none) → s.w.observed = [] → s.ownUnderWay s.warpId = false →
        Says.does (.fence o) o s (fun u => dropped u ∧ u.w.held = kept))
    ∧ (o.d ≠ 1#6 → loads = true → exec (.fence o) s = .next (s1.stall .loads))
    ∧ (3 ≤ o.d.toNat → loads = false → s.heldDone s.w f = false → exec (.fence o) s = .next (s1.stall (.release f)))
    ∧ ((∀ r ∈ s.leafReqs, r.kind = .own → r.op = 14 → ∀ out parts lns, r.dest ≠ .warp s.warpId out parts lns) →
        exec (.pfence o) s = .next (s1.retire (.pfence o) o))
    ∧ ((∃ r ∈ s.leafReqs, r.kind = .own ∧ r.op = 14 ∧ ∃ out parts lns, r.dest = .warp s.warpId out parts lns) →
        exec (.pfence o) s = .next (s1.stall .stores))
    ∧ (loads = false → left = [] → exec (.qfence o) s = .next (s1.retire (.qfence o) o))
    ∧ (left ≠ [] → exec (.qfence o) s = .next ((s1.stall (.commands left)).setAwaits left))
    ∧ (loads = true → left = [] → exec (.qfence o) s = .next ((s1.stall .loads).setAwaits []))
    ∧ (s.w.awaits (fun x => x.cls == 4) = false → s.w.aflags &&& s.w.amask = 0#32 → exec (.tfence o) s = .next (s1.retire (.tfence o) o))
    ∧ (s.w.awaits (fun x => x.cls == 4) = true → exec (.tfence o) s = .next (s1.stall .arith))
    ∧ (s.w.awaits (fun x => x.cls == 1) = true → exec (.isync o) s = .next (s1.stall (.classes 2#6)))
    ∧ ((∀ x ∈ s.w.outs, x.cls = 1 → x.waiting = 0 ∧ x.fail = none) → Says.does (.isync o) o s (fun u =>
        u.w.loopLo = 0 ∧ u.w.loopHi = 0 ∧ u.w.loopWords = [] ∧ u.fab = s.fab)))
  ∧ (∀ (o : Ops) (s : State), s.w.activeLanes = 0#32 → ∀ i ∈ [Instr.fence o, .pfence o, .qfence o, .tfence o, .isync o],
      exec i s = .next ((s.charge 1 0).retire i o))

/-- R171 to R173, R25: an arrival of the warp's active lanes below the count is counted, and BAR.SYNC waits for the phase; the arrival that reaches
the count flips the phase, empties the barrier and lets the warps that wait go on. A count that differs from the one in force or is
exceeded raises BARRIER_CONFLICT, and a count of 0 or above the workgroup's size ILLEGAL_OPERAND. An arrival, a release, waits for the warp's
loads and its stores to be visible in L1; a warp that the phase has let go passes. -/
def Obligations.BarriersCountAndRelease : Prop :=
  ∀ (o : Ops) (s : State) (i : Instr),
    let n := o.d.toNat
    let cnt := (s.w.usrc o.ext o.a).toNat
    let b := FMap.get s.g.bars Barrier.idle n
    let k := s.w.activeLanes.count
    let s1 := s.charge 1 0
    (i = .barArrive o ∨ i = .barSync o ∨ i = .barSyncPath o) →
    s.w.activeLanes ≠ 0#32 →
    (s.told = true → exec i s = .next (s1.retire i o))
    ∧ (s.told = false → s.heldDone s.w 1 = false → exec i s = .next (s1.stall (.held 1)))
    ∧ (s.told = false → s.heldDone s.w 1 = true →
    (1 ≤ cnt → cnt ≤ s.g.size → (b.count = 0 ∨ b.count = cnt) → b.arrivals + k < cnt →
      Says.answers i s (fun t => FMap.get t.g.bars Barrier.idle n = { phase := b.phase, count := cnt, arrivals := b.arrivals + k }
        ∧ (i = .barSync o → t.w.wait = .barrier n b.phase false) ∧ (i = .barSyncPath o → t.w.wait = .barrier n b.phase true)))
    ∧ (1 ≤ cnt → cnt ≤ s.g.size → (b.count = 0 ∨ b.count = cnt) → b.arrivals + k = cnt →
      Says.answers i s (fun t => FMap.get t.g.bars Barrier.idle n = { phase := !b.phase, count := 0, arrivals := 0 }
        ∧ ∀ w p, w ∈ s.warps → w.present = true → w.wg = s.g.serial → w.wait = .barrier n b.phase p →
            ∃ w', w' ∈ t.warps ∧ w'.wid = w.wid ∧ w'.wg = w.wg ∧ w'.wait = .none))
    ∧ (1 ≤ cnt → cnt ≤ s.g.size → ((b.count ≠ 0 ∧ b.count ≠ cnt) ∨ cnt < b.arrivals + k) →
      exec i s = .next (s1.raise .barrierConflict s.w.activeLanes (BitVec.ofNat 64 (b.count * 2 ^ 21 + cnt * 2 ^ 10 + n))))
    ∧ (cnt = 0 ∨ s.g.size < cnt → exec i s = .next (s1.raise .illegalOperand s.w.activeLanes (operandAddr i))))

/-- R174 to R177: RINGW configures a ring of `D`[2:0] + 1 slots, all at the phase it gives; it sets the phase of one slot, and the warps that wait
for that phase are told; RINGA passes when the slot's phase is the one it names and else waits, and goes on when told. RINGW, a release,
waits for the warp's loads and its stores to be visible in L1, and configuring for the commands that name the ring. -/
def Obligations.RingsConfigureFlipAndWait : Prop :=
  ∀ (o : Ops) (s : State),
    let r := o.d.toNat / 8
    let j := o.d.toNat % 8
    let v := (s.w.usrc o.ext o.a).toNat
    let s1 := s.charge 1 0
    let ready := s.w.activeLanes ≠ 0#32 ∧ s.heldDone s.w 1 = true
    let asks := s.w.activeLanes ≠ 0#32 ∧ s.w.awaits (fun x => x.cls == 0) = false ∧ s.told = false
    let fits := v % 2 ^ 16 ≠ 0 ∧ v / 2 ^ 16 + (j + 1) * (v % 2 ^ 16) ≤ s.g.padUnits * 128
    (s.w.activeLanes ≠ 0#32 → s.heldDone s.w 1 = false → exec (.ringw o) s = .next (s1.stall (.held 1)))
    ∧ (s.w.activeLanes ≠ 0#32 → fits → s.g.namesRing r = true → exec (.ringwCfg o) s = .next (s1.stall (.ringFree r)))
    ∧ (s.w.activeLanes ≠ 0#32 → fits → s.g.namesRing r = false → s.heldDone s.w 1 = false → exec (.ringwCfg o) s = .next (s1.stall (.held 1)))
    ∧ (ready → v % 2 ^ 16 ≠ 0 → v / 2 ^ 16 + (j + 1) * (v % 2 ^ 16) ≤ s.g.padUnits * 128 → s.g.namesRing r = false →
      Says.answers (.ringwCfg o) s (fun t => (∀ i, i < j + 1 → t.g.slotFull r i = some (o.f == 1#4))
        ∧ ∃ q, FMap.find t.g.rings r = some q ∧ q.n = j + 1 ∧ q.base = v / 2 ^ 16 ∧ q.stride = v % 2 ^ 16))
    ∧ (ready → (s.g.slotFull r j).isSome = true →
      Says.answers (.ringw o) s (fun t => t.g.slotFull r j = some (o.f == 1#4)
        ∧ ∀ w, w ∈ s.warps → w.present = true → w.wg = s.g.serial → (∃ m, w.wait = .ring r j (o.f == 1#4) m) →
            Instr.ringaComplete ⟨w.wg, w.wid⟩ ∈ t.events))
    ∧ (ready → s.g.slotFull r j = none → exec (.ringw o) s = .next (s1.raise .illegalOperand s.w.activeLanes (operandAddr (.ringw o))))
    ∧ (asks → s.g.slotFull r j = some (o.f == 0#4) → exec (.ringa o) s = .next (s1.retire (.ringa o) o))
    ∧ (asks → s.g.slotFull r j = some (!(o.f == 0#4)) → Says.answers (.ringa o) s (fun t => t.w.wait = .ring r j (o.f == 0#4) false))
    ∧ (∀ id r' j' full met, s.isWarp id = true → s.g.serial = id.wg → s.w.wait = .ring r' j' full met →
      (met = true ∨ s.g.slotFull r' j' = some full) → s.w.cl.isSome = true →
      Says.answers (.ringaComplete id) s (fun t => t.w.wait = .none ∧ t.told = true ∧ t.g = s.g ∧ Says.sameMem s t))
    ∧ (s.w.activeLanes ≠ 0#32 → s.told = true → s.w.awaits (fun x => x.cls == 0) = false → exec (.ringa o) s = .next (s1.retire (.ringa o) o))

/-! ## Control -/

/-- R12, R31, R181: a header that is in order starts the clause at the least `lpc` of the selectable lanes, with the lanes that stand there as
its executing lanes, the charge of an MX clause set aside (how R181 is held to, log 33); with an operation of its `WAIT` classes outstanding it waits for them instead,
and an MX clause whose charge the purses do not cover does not start. R12, R35: passing an instruction in the middle of a clause moves the
warp to the next index and offset, and passing the last one ends the clause. NOP and LPAD make their charge and pass; YIELD's active
lanes rest from the end of its clause. -/
def Obligations.ClauseIssueSelectsTheLowestLanes : Prop :=
  (∀ (h : Header) (s : State) (p : Word), let r := s.unreserve
    r.boundaryStop = none → r.w.issueOffset = some p → h.ok = true →
    let due := if h.eng = 2#3 then (r.modW (fun w => w.leaveSpan p)).clauseCharge h.n.toNat (p + 4#32) else (0, 0)
    (∀ l, l < 32 → s.w.selectable.getLsbD l = true → p.toNat ≤ (s.w.lpcOf l).toNat)
    ∧ (∃ l, l < 32 ∧ s.w.selectable.getLsbD l = true ∧ s.w.lpcOf l = p)
    ∧ (r.g.covers due.1 due.2 = true →
      ((∀ x ∈ s.w.outs, h.wait.getLsbD x.cls = true → x.waiting = 0 ∧ x.fail = none) →
        Says.answers (.clauseIssue h) s (fun t => ∃ c, t.w.cl = some c ∧ c.base = p ∧ c.hdr = h ∧ c.idx = 0 ∧ c.off = 4
          ∧ (∀ l, l < 32 → c.exec.getLsbD l = (s.w.selectable.getLsbD l && s.w.lpcOf l == p))
          ∧ t.w.lpc = s.w.lpc ∧ Says.sameMem s t ∧ t.w.res = (if due = (0, 0) then none else some (r.g.resting, due))
          ∧ (due = (0, 0) → t.g = r.g)
          ∧ (r.g.resting = false → t.g.ipurse = r.g.ipurse - due.1 ∧ t.g.mpurse = r.g.mpurse - due.2)))
      ∧ ((∃ x ∈ s.w.outs, h.wait.getLsbD x.cls = true ∧ x.waiting ≠ 0) →
        Says.answers (.clauseIssue h) s (fun t => t.w.wait = .classes h.wait ∧ t.w.cl = s.w.cl ∧ t.w.lpc = s.w.lpc)))
    ∧ (r.g.covers due.1 due.2 = false → Says.answers (.clauseIssue h) s (fun t => t.w.cl = s.w.cl ∧ t.w.lpc = s.w.lpc
        ∧ t.g.ipurse = r.g.ipurse ∧ t.g.mpurse = r.g.mpurse ∧ (t.g.latch = true ∨ t.g.forced = true))))
  ∧ (∀ (i : Instr) (o : Ops) (s : State) (c : Clause), s.w.cl = some c → c.idx + 1 < c.hdr.n.toNat → s.w.mac = none → o.s = false →
      s.retire i o = { s with w := { s.w with cl := some { c with
        idx := c.idx + 1, off := c.off + i.lenBytes, charged := false, awaits := [], addrs := []
        split := if i.isSplit = true then c.split else none } } })
  ∧ (∀ (i : Instr) (o : Ops) (s : State) (c : Clause), Says.atEnd o s c → Says.lands i s (s.retire i o) c (fun _ => none))
  ∧ (∀ (o : Ops) (s : State), exec (.nop o) s = .next ((s.charge 1 0).retire (.nop o) o)
      ∧ exec (.lpad o) s = .next ((s.charge 1 0).retire (.lpad o) o))
  ∧ (∀ (o : Ops) (s : State) (c : Clause), Says.atEnd o s c →
      Says.answers (.yieldOp o) s (fun t => Says.lands (.yieldOp o) s t c (fun _ => none)
        ∧ t.w.resting = s.w.resting ||| c.yields ||| s.w.activeLanes))

/-- R111, R113, R114, R119, R122: branches, CALL and EXIT end their clause with each lane where they say: BRA.LANE sends every active lane whose
condition holds, BRA.LEAD all active lanes on the lowest one's condition, CALL all active lanes, with the next header's offset in `D`,
and EXIT retires the active lanes (its stores acknowledged, when it leaves no live lane). -/
def Obligations.BranchesCallsAndExitSendTheirLanes : Prop :=
  ∀ (o : Ops) (s : State) (c : Clause), Says.atEnd o s c →
    let tgt := lpcWritten (c.base + o.ext)
    let cond := fun (l : Nat) => s.w.pred (o.a.toNat % 8) l ^^ o.a.getLsbD 5
    Says.answers (.braLane o) s (fun t =>
      Says.lands (.braLane o) s t c (fun l => if s.w.activeLanes.getLsbD l && cond l then some tgt else none))
    ∧ (∀ j, s.w.activeLanes.lowest = some j → Says.answers (.braLead o) s (fun t =>
        (cond j = true → Says.lands (.braLead o) s t c (fun l => if s.w.activeLanes.getLsbD l then some tgt else none))
        ∧ (cond j = false → Says.lands (.braLead o) s t c (fun _ => none))))
    ∧ (s.w.activeLanes = 0#32 → Says.answers (.braLead o) s (fun t => Says.lands (.braLead o) s t c (fun _ => none)))
    ∧ Says.answers (.call o) s (fun t =>
        Says.lands (.call o) s t c (fun l => if s.w.activeLanes.getLsbD l then some tgt else none)
        ∧ (o.d.toNat < 48 → Says.dest s t o.d (fun _ => Says.nextOf (.call o) c)))
    ∧ ((∀ x ∈ s.w.outs, x.cls = 1 → x.waiting = 0 ∧ x.fail = none) →
      Says.answers (.exit o) s (fun t =>
        Says.lands (.exit o) s t c (fun l => if s.w.activeLanes.getLsbD l then some lpcExited else none)))

/-- R112, R115: where some executing lanes take a BRA.SPLIT and some do not, the smaller side (the taken one on a tie) leaves the warp: its lanes'
`lpc` says so, and spawn memory gains a record of each with its thread, its target, its predicates, the registers of the live set, and
`amask` (that the record holds it is log 19: R115 lists none); the other side goes on. A split waits for the warp's results, and as a
release (R225) for its loads and its stores to be visible in L1. Without a split it is a branch. -/
def Obligations.SplitRecordsTheLeavingThreads : Prop :=
  ∀ (o : Ops) (s : State) (c : Clause) (mask : Nat), Says.atEnd o s c →
    let s1 := s.charge 1 0
    let tgt := lpcWritten (c.base + o.ext)
    let t_ := maskOf (fun l => s.w.activeLanes.getLsbD l && (s.w.pred (o.a.toNat % 8) l ^^ o.a.getLsbD 5))
    let f := c.exec &&& ~~~t_
    let small := t_.count ≤ f.count
    let leave := if small then t_ else f
    (t_ = 0#32 ∨ f = 0#32 → Says.answers (.braSplit o) s (fun t =>
      Says.lands (.braSplit o) s t c (fun l => if t_.getLsbD l then some tgt else none)))
    ∧ (t_ ≠ 0#32 → f ≠ 0#32 → s1.liveSet o.d.toNat = .ok mask → mask.testBit 48 = false → mask < 2 ^ 56 →
      (s.w.awaits (fun x => x.hasDest) = true → exec (.braSplit o) s = .next (s1.stall (.classes 0x31#6)))
      ∧ (s.w.awaits (fun x => x.hasDest) = false → s.heldDone s.w 1 = false → exec (.braSplit o) s = .next (s1.stall (.held 1))))
    ∧ (t_ ≠ 0#32 → f ≠ 0#32 → s1.liveSet o.d.toNat = .ok mask → mask.testBit 48 = false → mask < 2 ^ 56 →
      s.w.awaits (fun x => x.hasDest) = false → s.heldDone s.w 1 = true →
      Says.answers (.braSplit o) s (fun t =>
        Says.lands (.braSplit o) s t c (fun l =>
          if leave.getLsbD l then some lpcLeft else if t_.getLsbD l then some tgt else none)
        ∧ (∀ r, r ∈ s.g.spawn → r ∈ t.g.spawn) ∧ t.g.spawn.length = s.g.spawn.length + leave.count
        ∧ ∀ l, l < 32 → leave.getLsbD l = true → ∃ r, r ∈ t.g.spawn ∧ r.tid = FMap.get s.w.tids 0 l
          ∧ r.target = (if small then tgt else Says.nextOf (.braSplit o) c) ∧ r.aflags = s.w.aflags ∧ r.origin = s.w.wid ∧ r.amask = s.w.amask
          ∧ (∀ n, n < 48 → mask.testBit n = true → FMap.get r.regs 0#32 n = Says.installed s (vkey n l))
          ∧ (∀ n, 1 ≤ n → n < 8 → r.preds.getLsbD n = (s.w.commit (fun x => x.hasDest)).1.pred n l)))

/-- R119 to R121: JMPX, CALLX and RET send each active lane to the offset its register holds when every target is a landing pad with their tag
(0 for RET), their own clause, or no offset, which retires the lane; CALLX also leaves the next header's offset in `D`. A lane whose
target is no such pad raises LANDING_PAD, and no lane jumps; a target that cannot be fetched raises the fault of the lowest such lane, with
every lane whose target fails alike (the model's choice, log 50). -/
def Obligations.IndirectJumpsLandOnPads : Prop :=
  ∀ (o : Ops) (s : State) (c : Clause) (i : Instr),
    let s1 := s.charge 1 0
    let tag := if i = .ret o then 0 else o.ext.toNat % 4096
    let tgt := fun (l : Nat) => s.w.src 0#32 o.a l
    let pad := fun (l : Nat) => s1.landingPad (tgt l &&& 0xFFFFFFFC#32) tag
    let free := fun (l : Nat) => isOffset (tgt l) = false ∨ tgt l &&& 0xFFFFFFFC#32 = c.base
    let act := fun (l : Nat) => l < 32 ∧ s.w.activeLanes.getLsbD l = true
    (i = .jmpx o ∨ i = .callx o ∨ i = .ret o) →
    (Says.atEnd o s c → (∀ l, act l → free l ∨ pad l = .ok true) →
      Says.answers i s (fun t => Says.lands i s t c (fun l => if s.w.activeLanes.getLsbD l then some (lpcWritten (tgt l)) else none)
        ∧ (i = .callx o → o.d.toNat < 48 → Says.dest s t o.d (fun _ => Says.nextOf i c))))
    ∧ (∀ l0, s.w.cl = some c → (∀ l, act l → free l ∨ pad l = .ok true ∨ pad l = .ok false) → act l0 → ¬free l0 → pad l0 = .ok false →
      (∀ l, act l → l < l0 → free l ∨ pad l = .ok true) →
      ∃ bad, (∀ l, l < 32 → (bad.getLsbD l = true ↔ act l ∧ ¬free l ∧ pad l = .ok false)) ∧ exec i s = .next (s1.raise .landingPad bad (pairOf (tgt l0) 0#32)))
    ∧ (∀ l0 e, s.w.cl = some c → act l0 → ¬free l0 → pad l0 = .error e → (∀ l, act l → l < l0 → free l ∨ ∃ b, pad l = .ok b) →
      ∃ same, (∀ l, l < 32 → (same.getLsbD l = true ↔ act l ∧ ¬free l ∧ pad l = .error e))
        ∧ exec i s = .next (s1.raise e same (s.g.code + (tgt l0 &&& 0xFFFFFFFC#32).setWidth 64)))

/-- R125, R133: MACRO starts the macro of its index with the fields of the call, its operations still to come, and an index without an image raises
MACRO_TRAP; WAITKIDS passes, as a switch marker, once the workgroup has no child, else waits for its children; in a macro it is NOP. R46, R128: MCLOAD reads an image's header and operations and keeps it under its index; an index above 63, a bad header or an image that breaks
a rule raises MACRO_TRAP, a bad address PROTECTION or MISALIGNED. -/
def Obligations.MacrosStartAndChildrenAreAwaited : Prop :=
  (∀ (o : Ops) (s : State), s.w.activeLanes ≠ 0#32 →
    let n := o.ext.toNat % 64
    let s1 := s.charge 1 0
    (∀ ops, FMap.find s.g.macros n = some ops → Says.answers (.macroRun o) s (fun t => ∃ m, t.w.mac = some m ∧ m.index = n ∧ m.ops = ops ∧ m.j = 0
        ∧ m.imm = BitVec.ofNat 32 (o.ext.toNat / 256 % 256) ∧ m.d = o.d ∧ m.a = o.a ∧ m.b = o.b ∧ m.la = o.la ∧ m.lb = o.lb ∧ m.s = o.s))
    ∧ (FMap.find s.g.macros n = none → exec (.macroRun o) s = .next (s1.raise .macroTrap s.w.activeLanes (BitVec.ofNat 64 n)))
    ∧ (s.w.mac = none → s.g.kids = [] → exec (.waitkids o) s = .next (s1.retire (.waitkids o) { o with s := true }))
    ∧ (s.w.mac = none → s.g.kids ≠ [] → Says.answers (.waitkids o) s (fun t => t.w.wait = .kids))
    ∧ (s.w.mac ≠ none → exec (.waitkids o) s = .next (s1.retire (.waitkids o) o)))
  ∧ (∀ (o : Ops) (s : State), s.w.activeLanes ≠ 0#32 →
    let s1 := s.charge 1 0
    let n := (s.w.usrc o.ext o.b).toNat
    let at_ := s.w.upair o.a
    (63 < n → exec (.mcload o) s = .next (s1.raise .macroTrap s.w.activeLanes (BitVec.ofNat 64 n)))
    ∧ (n ≤ 63 → 2 ^ 57 ≤ at_.toNat → exec (.mcload o) s = .next (s1.raise .protection s.w.activeLanes at_))
    ∧ (n ≤ 63 → at_.toNat < 2 ^ 57 → at_.toNat % 4 ≠ 0 → exec (.mcload o) s = .next (s1.raise .misaligned s.w.activeLanes at_))
    ∧ (∀ s2 hb, n ≤ 63 → at_.toNat < 2 ^ 57 → at_.toNat % 4 = 0 → s1.readVa at_ 4 .read = .ok s2 hb → (leNat hb = 0 ∨ 32 < leNat hb) → leNat hb < 2 ^ 32 →
      exec (.mcload o) s = .next (s2.raise .macroTrap s.w.activeLanes (BitVec.ofNat 64 n)))
    ∧ (∀ s2 s3 hb bs, n ≤ 63 → at_.toNat < 2 ^ 57 → at_.toNat % 4 = 0 → s1.readVa at_ 4 .read = .ok s2 hb →
      1 ≤ leNat hb → leNat hb ≤ 32 → s2.readVa (at_ + 4#64) (12 * leNat hb) .read = .ok s3 bs →
      let ops := imageOps bs (leNat hb)
      (∀ img, macroImage (BitVec.ofNat 32 (leNat hb)) ops.1 ops.2 = some img →
        Says.answers (.mcload o) s (fun t => FMap.find t.g.macros n = some img))
      ∧ (macroImage (BitVec.ofNat 32 (leNat hb)) ops.1 ops.2 = none →
        exec (.mcload o) s = .next (s3.raise .macroTrap s.w.activeLanes (BitVec.ofNat 64 n)))))

/-- R130 to R132: LAUNCH, a release at package scope, launches one child grid for the packet of each active lane: the workgroup's purses give what
the unfunded packets ask, each child has the workgroup as parent and the next depth, and the identifiers come back in `D`. More than the
purses hold raises LAUNCH_REFUSED, and depth 10 NESTING_DEPTH. -/
def Obligations.LaunchStartsAChildForEachLane : Prop :=
  ∀ (o : Ops) (s s3 : State) (ps : List (Nat × DWord × List Byte)) (l0 : Nat),
    let act := s.w.activeLanes
    let at_ := s.w.packetAddr o
    let kept := match s.w.held with | some h => if 3 < h then some h else none | none => none
    let s2 : State := { (s.charge 1 0) with w := { s.w with held := kept, observed := [] } }
    let due := ps.filter (laneDebited ps)
    let ti := due.foldl (fun n p => n + pktIpurse p.2.2) 0
    let tm := due.foldl (fun n p => n + pktMpurse p.2.2) 0
    act.lowest = some l0 → Says.unreplayed s →
    (10 ≤ s.g.depth → exec (.launch o) s = .next ((s.charge 1 0).raise .nestingDepth act 0#64))
    ∧ (s.g.depth < 10 → s.w.outs = [] → s.w.observed = [] → s.ownUnderWay s.warpId = false →
      (s.w.res = none ∧ ∀ f, s.w.frame = some f → f.res = none) →
      (∀ l, l < 32 → act.getLsbD l = true → ∃ tgt, s2.resolve packetAccess (at_ l) = .ok tgt) →
      s2.readLanePackets at_ act.toList [] = .ok s3 ps → (∀ p ∈ ps, gridFieldsOk p.2.2 = true) →
      (ti ≤ s3.g.ipurse → tm ≤ s3.g.mpurse →
        Says.answers (.launch o) s (fun t => t.g.ipurse = s3.g.ipurse - ti ∧ (s3.fab.lines = [] → t.g.mpurse = s3.g.mpurse - tm)
          ∧ ∃ ids, ids.length = act.count ∧ t.g.kids = s3.g.kids ++ ids
            ∧ (∀ id ∈ ids, ∃ gr, gr ∈ t.grids ∧ gr.id = id ∧ gr.parent = s3.g.grid ∧ gr.parentWg = s3.g.serial ∧ gr.depth = s3.g.depth + 1)
            ∧ (o.d ≠ 61#6 → Says.comes t (destWrites o.d act (fun l => (ids.getD ((act.toList).idxOf l) 0#32))))))
      ∧ (s3.g.ipurse < ti ∨ s3.g.mpurse < tm → exec (.launch o) s = .next (s3.raise .launchRefused act (at_ l0))))

/-! ## Exceptions -/

/-- R300, R302, R304 to R308: an exception at the instruction the warp has reached. One that goes to the warp's handler enters it, with that
instruction as the restart point, once every result has returned, which it waits for (lanes that rest stay resting, the model's choice, log
96); without a handler, or inside it, it is fatal: the warp stops but for requests that drain with their results discarded, its grid is
aborted with status FAULTED. R137: TRAP and BKPT take the exceptions SOFTWARE and BREAKPOINT with the instruction after them as the restart point, TRAP with its
value in `taddr`; TFENCE takes ARITH with the enabled flags that stand in `aflags` (R134). -/
def Obligations.ExceptionsGoToTheHandlerOrAreFatal : Prop :=
  (∀ (s : State) (cause : Cause) (lns : LaneMask) (addr : DWord) (c : Clause), cause.toHost = false → s.w.cl = some c →
    let t := s.raise cause lns addr
    let saved : Clause := { c with charged := false, awaits := [], addrs := [] }
    (Says.canTrap s → Says.entered s t cause.code false (some saved) c.idx lns addr)
    ∧ (s.g.tvec ≠ lpcExited → s.w.frame = none → s.w.awaits (fun x => x.hasDest) = true →
        t.w.wait = .drain ∧ t.w.trap.isSome = true ∧ Instr.handlerEntry s.warpId ∈ t.events ∧ t.w.frame = none)
    ∧ ((s.g.tvec = lpcExited ∨ s.w.frame.isSome = true) →
        t.w.live = 0#32 ∧ (∀ x ∈ t.w.outs, x.discard = true ∧ x.hasDest = false ∧ x.keys = [] ∧ x.fail = none ∧ x.waiting ≠ 0) ∧ (s.g.place ≠ .complete → 3 ≤ t.g.status) ∧ ∀ g ∈ t.grids, g.id = s.g.grid → g.aborted = true))
  ∧ (∀ (o : Ops) (s : State) (c : Clause), s.w.activeLanes ≠ 0#32 → s.w.cl = some c → Says.canTrap s →
    let next := fun (i : Instr) => some { c with idx := c.idx + 1, off := c.off + i.lenBytes, charged := false, awaits := [], addrs := [], split := none }
    let act := s.w.activeLanes
    Says.answers (.trap o) s (fun t =>
      Says.entered s t 0x30 false (next (.trap o)) (c.idx + 1) act (pairOf (s.w.usrc o.ext o.a) 0#32))
    ∧ Says.answers (.bkpt o) s (fun t => Says.entered s t 0x31 false (next (.bkpt o)) (c.idx + 1) act 0#64)
    ∧ (s.w.awaits (fun x => x.cls == 4) = false → s.w.aflags &&& s.w.amask ≠ 0#32 →
      Says.answers (.tfence o) s (fun t =>
        Says.entered s t 0x20 false (next (.tfence o)) (c.idx + 1) act (pairOf (s.w.aflags &&& s.w.amask) 0#32))))

/-- R304, R310 to R312: a cause that goes to the host parks the warp on a token with a fault-buffer entry, which keeps the lane addresses, and a
record of kind 1; with the fault buffer full both wait for an entry. An answer frees the entry, which a fault that waits takes: with REPLAY the
warp's access is made again with its addresses, with DELIVER its trap goes to its handler, with ABORT it is fatal; a parked itinerary goes
on, or stops with MEMORY or ABORTED. One to a cancelled token, or to an unknown one (log 90), is ignored and counted. -/
def Obligations.HostDestinedCausesParkUntilAnswered : Prop :=
  (∀ (s : State) (cause : Cause) (lns : LaneMask) (addr : DWord) (addrs : FMap DWord), cause.toHost = true →
    let t := s.raise cause lns addr addrs
    let entry : FaultEntry := { token := s.host.nextToken, what := Parked.warp s.warpId, cancelled := false, addrs := addrs }
    (s.host.faults.length < 4096 → s.host.faultWait = [] → s.host.fqBuffer.length < 256 →
      t.w.wait = .token s.host.nextToken ∧ t.host.nextToken = s.host.nextToken + 1
      ∧ entry ∈ t.host.faults
      ∧ t.host.fqSeq = (s.host.fqSeq + 1) % 2 ^ 20
      ∧ ∃ bs, t.host.fqBuffer = s.host.fqBuffer ++ [bs] ∧ field bs 0 4 / 2 ^ 28 = 1 ∧ field bs 0 4 / 2 ^ 20 % 256 = cause.code
          ∧ field bs 0x38 8 = s.host.nextToken % 2 ^ 64)
    ∧ ((4096 ≤ s.host.faults.length ∨ s.host.faultWait ≠ []) → t.w.wait = .token s.host.nextToken ∧ t.host.faults = s.host.faults
      ∧ t.host.fqBuffer = s.host.fqBuffer ∧ ∃ r, t.host.faultWait = s.host.faultWait ++ [(entry, r)] ∧ r.token = s.host.nextToken))
  ∧ (∀ (s : State) (c : Cmd) (token : DWord), Says.may c s →
    let found := s.host.faults.find? (fun f => f.token == token.toNat)
    let gone := fun (u : State) (f : FaultEntry) => (∀ g ∈ u.host.faults, g.token ≠ f.token) ∧ Says.sameMem s u
    let answers := fun (i : Instr) => i = .answerReplay c token ∨ i = .answerDeliver c token ∨ i = .answerAbort c token
    (found = none → ∀ i, answers i → Says.completes i c s 0 (fun u =>
      u.host.ignoredAnswers = s.host.ignoredAnswers + 1 ∧ u.host.faults = s.host.faults ∧ u.w = s.w ∧ Says.sameMem s u))
    ∧ (∀ f, found = some f → f.cancelled = true → ∀ i, answers i → Says.completes i c s 0 (fun u =>
      u.host.ignoredAnswers = s.host.ignoredAnswers + 1 ∧ u.w = s.w ∧ Says.sameMem s u
      ∧ (s.host.faultWait = [] → gone u f)
      ∧ ∀ f2 r2 rest, s.host.faultWait = (f2, r2) :: rest → s.host.faults.length ≤ 4096 → u.host.faultWait = rest ∧ f2 ∈ u.host.faults
          ∧ u.host.fqSeq = (s.host.fqSeq + 1) % 2 ^ 20))
    ∧ (s.host.faultWait = [] → ∀ f r, found = some f → f.cancelled = false → f.what = .warp s.warpId → s.w.present = true → s.g.serial = s.w.wg →
      s.w.wait = .token f.token → s.w.trap = some r →
      Says.completes (.answerReplay c token) c s 0 (fun u => gone u f ∧ u.w.wait = .header ∧ u.w.trap = none ∧ u.w.lpc = s.w.lpc
        ∧ ∀ x, s.w.cl = some x → x.hdr.n ≠ 0#4 → u.w.cl = some { x with addrs := f.addrs })
      ∧ (Says.canTrap s → Says.completes (.answerDeliver c token) c s 0 (fun u => gone u f
        ∧ u.w.frame = some { lpc := s.w.lpc, preds := (s.w.commit (fun x => x.hasDest)).1.preds, mac := none, res := s.w.res
                             cl := if r.deferred = true then s.w.cl else s.w.cl.map (fun x => { x with charged := false, awaits := [], addrs := [] }) }
        ∧ u.w.cl = none ∧ u.w.wait = .none ∧ u.w.trap = none ∧ u.w.tb.tclause = r.clause ∧ u.w.tb.tlanes = r.lanes
        ∧ u.w.tb.tindex = BitVec.ofNat 32 r.index ∧ u.w.tb.taddrLo = loWord r.addr ∧ u.w.tb.taddrHi = hiWord r.addr
        ∧ ∀ l, l < 32 → u.w.lpcOf l = if isOffset (s.w.lpcOf l) = true then s.g.tvec else s.w.lpcOf l))
      ∧ Says.completes (.answerAbort c token) c s 0 (fun u => gone u f ∧ u.w.live = 0#32 ∧ u.w.wait = .none
        ∧ (s.g.place ≠ .complete → 4 ≤ u.g.status) ∧ ∀ g ∈ u.grids, g.id = s.g.grid → g.aborted = true))
    ∧ (s.host.faultWait = [] → ∀ f n, found = some f → f.cancelled = false → f.what = .ctx n → (s.ctx n).st = 1 → (s.ctx n).ending = none →
      Says.completes (.answerReplay c token) c s 0 (fun u => gone u f ∧ (u.ctx n).parked = 0 ∧ (u.ctx n).st = 1)
      ∧ Says.completes (.answerDeliver c token) c s 0 (fun u => gone u f ∧ Says.stops u n (s.ctx n) 4)
      ∧ Says.completes (.answerAbort c token) c s 0 (fun u => gone u f ∧ Says.stops u n (s.ctx n) 7)))

/-- R138, R307: TRET gives every live lane its `lpc` and the warp its predicates back from the frame, clears the trap block, and resumes the saved
lanes that are still live at the clause and index of the frame, or selects the clause again when nothing of it had issued. Outside a
handler it raises ILLEGAL_OPCODE. -/
def Obligations.TretReturnsFromTheHandler : Prop :=
  ∀ (o : Ops) (s : State), s.w.activeLanes ≠ 0#32 →
    (s.w.frame = none → exec (.tret o) s = .next ((s.charge 1 0).raise .illegalOpcode s.w.activeLanes (operandAddr (.tret o))))
    ∧ (∀ fr, s.w.frame = some fr → fr.pend = [] → s.w.outs = [] → s.w.res = none → fr.res = none → s.w.live ≠ 0#32 → (∀ c, fr.cl = some c → c.idx ≠ c.hdr.n.toNat) →
      Says.answers (.tret o) s (fun t =>
        t.w.frame = none ∧ t.w.tb = {} ∧ t.w.preds = fr.preds ∧ t.w.wait = .none
        ∧ (∀ l, l < 32 → s.w.live.getLsbD l = true → t.w.lpcOf l = FMap.get fr.lpc lpcExited l)
        ∧ (∀ l, l < 32 → s.w.live.getLsbD l = false → t.w.lpcOf l = s.w.lpcOf l)
        ∧ t.w.cl = (match fr.cl with
            | none => none
            | some c => if c.idx = 0 ∧ fr.mac = none then none else some { c with exec := c.exec &&& s.w.live })
        ∧ t.g = (s.charge 1 0).g ∧ Says.sameMem s t))

/-! ## System registers, purses and macro images -/

/-- R17 to R20, R139, R140: SRD returns the register's value before its own charge as a result of class W5, and PURSE.GET a purse after it; what a
clause of matrix instructions has set aside and not spent still counts in a purse (the model's choice, log 33). SWR sets a register: the purses take 48 bits, offsets lose their low two bits, `aflags` loses the bits written, `amask` and `scopechk` keep the
bits that exist. PURSE.SETREST sets `rest`. -/
def Obligations.SystemRegistersReadAndWrite : Prop :=
  ∀ (o : Ops) (s : State), s.w.activeLanes ≠ 0#32 →
    let act := s.w.activeLanes
    let s1 := s.charge 1 0
    let v32 := s.w.usrc 0#32 o.a
    let v64 := s.w.upair o.a
    let one := fun (n : Nat) (v : Word) => o.ext = BitVec.ofNat 32 n → Says.answers (.srd o) s (fun t => Says.comes t (destWrites o.d act (fun _ => v)))
    let two := fun (n : Nat) (v : DWord) => o.ext = BitVec.ofNat 32 n → Says.answers (.srd o) s (fun t => Says.comes t (destPairWrites o.d act (fun _ => v)))
    let sets := fun (n : Nat) (p : State → Prop) => o.ext = BitVec.ofNat 32 n → Says.answers (.swr o) s p
    two 0x000 (BitVec.ofNat 64 (s.purses s.g).1) ∧ two 0x001 (BitVec.ofNat 64 (s.purses s.g).2) ∧ one 0x002 s.g.rest ∧ two 0x003 s.g.grace
    ∧ one 0x010 s.g.tvec ∧ one 0x011 s.w.tb.tcause ∧ one 0x012 s.w.tb.tclause ∧ one 0x013 s.w.tb.tindex ∧ one 0x014 s.w.tb.tlanes
    ∧ one 0x015 s.w.tb.taddrLo ∧ one 0x016 s.w.tb.taddrHi ∧ one 0x020 s.w.wident
    ∧ (s.w.awaits (fun x => x.cls == 4) = false → one 0x030 s.w.aflags) ∧ one 0x031 s.w.amask ∧ one 0x040 s.g.scopechk
    ∧ one 0x050 (BitVec.ofNat 32 s.g.level)
    ∧ Says.answers (.purseGet o) s (fun t => Says.comes t (destPairWrites o.d act
        (fun _ => BitVec.ofNat 64 (if o.a = 0#6 then (s1.purses s1.g).1 else (s1.purses s1.g).2))))
    ∧ (o.ext = 0x000#32 → Says.does (.swr o) o s (fun u => (u.purses u.g).1 = v64.toNat % 2 ^ 48))
    ∧ (o.ext = 0x001#32 → Says.does (.swr o) o s (fun u => (u.purses u.g).2 = v64.toNat % 2 ^ 48))
    ∧ sets 0x002 (fun t => t.g.rest = v32 &&& 0xFFFFFFFC#32) ∧ sets 0x003 (fun t => t.g.grace = v64)
    ∧ sets 0x010 (fun t => t.g.tvec = v32 &&& 0xFFFFFFFC#32)
    ∧ (s.w.awaits (fun x => x.cls == 4) = false → sets 0x030 (fun t => t.w.aflags = s.w.aflags &&& ~~~v32))
    ∧ sets 0x031 (fun t => t.w.amask = v32 &&& 0x3F#32) ∧ sets 0x040 (fun t => t.g.scopechk = v32 &&& 1#32)
    ∧ Says.answers (.purseSetrest o) s (fun t => t.g.rest = s.w.usrc o.ext o.a &&& 0xFFFFFFFC#32)

/-- R141, R142: PURSE.SPLIT moves amounts from the purses into a packet's purse fields and sets its FUNDED bit; it raises LAUNCH_REFUSED, changing
no purse, when an amount exceeds its purse or a sum 2^48 - 1, MISALIGNED at a packet that is not 64-byte aligned, PROTECTION at one above
2^57, and before these ILLEGAL_OPERAND for an amount above 2^48 - 1 (that order is the model's choice, log 58). PURSE.ADD adds amounts to the
purses, saturating at 2^48 - 1, for a workgroup with the TOPUP grant, and raises PRIVILEGE without it. The purses that SPLIT takes from
are less what a clause of matrix instructions has set aside (the model's choice, log 33). -/
def Obligations.PurseAmountsMove : Prop :=
  ∀ (o : Ops) (s : State), s.w.activeLanes ≠ 0#32 →
    let s1 := s.charge 1 0
    let ai := (s.w.upair o.d).toNat
    let am := (s.w.upair (o.d + 2#6)).toNat
    let pkt := s.w.upair o.a
    let act := s.w.activeLanes
    let top := 2 ^ 48 - 1
    (ai ≤ top → am ≤ top → pkt.toNat < 2 ^ 57 → pkt.toNat % 64 = 0 →
      (∀ r s2 bs, s1.heldRelease = .free r → r.readVa (pkt + 0x20#64) 16 .write = .ok s2 bs → ai ≤ s2.g.ipurse → am ≤ s2.g.mpurse →
        field bs 0 8 % 2 ^ 48 + ai ≤ top → field bs 8 8 % 2 ^ 48 + am ≤ top →
        Says.does (.purseSplit o) o s (fun u => u.g.ipurse = s2.g.ipurse - ai ∧ (s2.fab.lines = [] → u.g.mpurse = s2.g.mpurse - am)))
      ∧ (∀ r s2 bs, s1.heldRelease = .free r → r.readVa (pkt + 0x20#64) 16 .write = .ok s2 bs →
        s2.g.ipurse < ai ∨ s2.g.mpurse < am ∨ top < field bs 0 8 % 2 ^ 48 + ai ∨ top < field bs 8 8 % 2 ^ 48 + am →
        exec (.purseSplit o) s = .next (s2.raise .launchRefused act pkt))
      ∧ (∀ off, s.g.windows = [] → s.g.padPoison = [] → s.w.held = none → pkt = BitVec.ofNat 64 (0x01FFFF0000000000 + off) → off + 64 ≤ s.g.padUnits * 4096 → off + 64 ≤ 0x60000 →
        let q0 := Says.padNat s (off + 0x20) 8
        let q1 := Says.padNat s (off + 0x28) 8
        ai ≤ s1.g.ipurse → am ≤ s1.g.mpurse → q0 % 2 ^ 48 + ai ≤ top → q1 % 2 ^ 48 + am ≤ top →
        Says.answers (.purseSplit o) s (fun t =>
          Says.padNat t (off + 0x20) 8 = q0 + ai ∧ Says.padNat t (off + 0x28) 6 = q1 % 2 ^ 48 + am
          ∧ (Says.padNat t (off + 0x2E) 2) = (q1 / 2 ^ 48 ||| 1)
          ∧ Says.sameMem s t ∧ ∀ p, (p < off + 0x20 ∨ off + 0x30 ≤ p) → FMap.get t.g.pad 0#8 p = FMap.get s.g.pad 0#8 p)))
    ∧ (top < ai ∨ top < am → exec (.purseSplit o) s = .next (s1.raise .illegalOperand act (operandAddr (.purseSplit o))))
    ∧ (ai ≤ top → am ≤ top → 2 ^ 57 ≤ pkt.toNat → exec (.purseSplit o) s = .next (s1.raise .protection act pkt))
    ∧ (ai ≤ top → am ≤ top → pkt.toNat < 2 ^ 57 → pkt.toNat % 64 ≠ 0 → exec (.purseSplit o) s = .next (s1.raise .misaligned act pkt))
    ∧ (s.g.topup = true → ai ≤ top → am ≤ top → s.g.heldPurses = none → Says.does (.purseAdd o) o s (fun u =>
        (u.purses u.g).1 = min top ((s1.purses s1.g).1 + ai) ∧ (u.purses u.g).2 = min top ((s1.purses s1.g).2 + am)))
    ∧ (s.g.topup = true → (top < ai ∨ top < am) →
        exec (.purseAdd o) s = .next (s1.raise .illegalOperand act (operandAddr (.purseAdd o))))
    ∧ (s.g.topup = false → exec (.purseAdd o) s
        = .next (s1.raise .privilege s.w.activeLanes (pairOf (loWord (operandAddr (.purseAdd o))) 0#32)))

/-! ## The matrix pair -/

/-- R178 to R185, R190, R191: a matrix instruction that passes its checks joins its workgroup's matrix queue with its tile and operands, at the
charge of R180, taken from what its clause set aside where it did (R181; that it is held in the warp, apart from the purses, is the model's
choice, log 33), and the warp's W2 awaits it. -/
def Obligations.MatrixInstructionsJoinTheQueue : Prop :=
  ∀ (o : Ops) (s : State), s.w.activeLanes ≠ 0#32 → s.tasksUsed s.g.core < 32 → Says.calm o s →
    let s1 := if s.charged = true then s else s.spend 1 0
    let x := o.ext.toNat
    let n := bitsNat x 24 21 + 1
    let queued := fun (s' t : State) (acc : Nat) (op : MxOp) => ∃ e, t.g.mx = s'.g.mx ++ [e] ∧ e.acc = acc ∧ e.op = op ∧ e.step = 0
      ∧ e.released = false ∧ e.wid = s.w.wid ∧ Says.awaited t 2 e.out
    let mma := fun (i : Instr) (fmt : Nat) (ni : Bool) =>
      let ka := bitsNat x 27 25 + 2
      let kb := bitsNat x 30 28 + 2
      let at_ := s.w.upair o.d
      let bytes := (if bitNat x 6 = true then 64 * operandRow fmt ka * n else 0) + (if bitNat x 7 = true then 64 * operandRow fmt kb * n else 0)
      ∀ s2 s3 a b at2 at3, (bitNat x 6 = true ∨ bitNat x 7 = true → at_.toNat % 32 = 0) →
        Says.operandAt s1 s2 (bitNat x 6) (bitsNat x 10 8) (bitsNat x 13 11) (operandRow fmt ka) n at_ at2 a →
        Says.operandAt s2 s3 (bitNat x 7) (bitsNat x 16 14) (bitsNat x 19 17) (operandRow fmt kb) n at2 at3 b →
        Says.does i o s (fun t => queued s3 t (x % 64)
          (.mma fmt ka kb (ni && o.f.getLsbD 1) (ni && o.f.getLsbD 0) (bitsNat x 20 20) n a b
            (if ni then s3.w.scaleRegs o.a (bitsNat x 20 20) n else []) (if ni then s3.w.scaleRegs o.b (bitsNat x 20 20) n else []))
          ∧ (s3.w.res = none → s3.g.resting = false → t.g.ipurse = s3.g.ipurse - n ∧ t.g.mpurse = s3.g.mpurse - bytes)
          ∧ (∀ gr u v, s3.w.res = some (gr, u, v) → n ≤ u → bytes ≤ v → t.w.res = some (gr, u - n, v - bytes)
              ∧ t.g.ipurse = s3.g.ipurse ∧ t.g.mpurse = s3.g.mpurse))
    let row := fun (half ni : Bool) => if ni then 64 else if half then 128 else 256
    let addr := s.w.upair o.a + BitVec.ofInt 64 (memOfs o.ext)
    let pitch := fun (r : Nat) => if o.b = 61#6 then r else (s.w.usrc 0#32 o.b).toNat
    mma (.mmaBf16 o) 0 false ∧ mma (.mmaF16 o) 1 false ∧ mma (.mmaNi o) 2 true
    ∧ Says.answers (.accz o) s (fun t => queued s1 t (x % 64) .accz)
    ∧ (∀ xl s2, let r := row (o.f == 1#4) false
        addr.toNat % 32 = 0 → pitch r % 32 = 0 → r ≤ pitch r →
        s1.checkPieces .read true true false (accPieces addr (pitch r) r false) [] = .ok xl →
        s1.fillAll (s1.g.padsOf (accPieces addr (pitch r) r false)) = .ok s2 →
        Says.answers (.accld o) s (fun t => queued s2 t (x % 64) (.accld (o.f == 1#4) addr (pitch r) xl)))
    ∧ (∀ xl s2 flip, let form := o.f.toNat
        let ni := form == 4
        let r := row (form == 1 || form == 3) ni
        addr.toNat % 32 = 0 → pitch r % 32 = 0 → r ≤ pitch r →
        s1.g.flipOf (if o.d = 61#6 then 0 else (s.w.usrc 0#32 o.d).toNat) = some flip →
        s1.checkPieces .write true true (form == 2 || form == 3) (accPieces addr (pitch r) r ni) [] = .ok xl →
        s1.fillAll (s1.g.padsOf (accPieces addr (pitch r) r ni)) = .ok s2 → (FMap.get s2.g.marks 0 (x % 64)).testBit 0 = false →
        Says.answers (.accst o) s (fun t => queued s2 t (x % 64) (.accst form addr (pitch r) xl flip)))

/-- R186, R192, R195: the release of an MMA at the head of its queue marks it released and asks the governor for leave; a step adds the products of
the operands' step to the tile in place and is counted; ACCZ's turn clears the tile and its marks, ACCLD's loads it; a passed clove
pattern forgets the tiles written since the last one, and a failed one fences the sub-arrays it names and marks those tiles suspect. -/
def Obligations.MatrixEngineActsOnTiles : Prop :=
  (∀ (s : State) (e : MxEntry), s.g.mxHead = some e → s.releaseDue s.g = true →
    Says.answers (.mmaRelease s.g.serial) s (fun t => (∃ e', e' ∈ t.g.mx ∧ e'.id = e.id ∧ e'.released = true ∧ e'.relTime = s.clock.toNat)
      ∧ (s.g.serial, e.id) ∈ (t.gov s.g.tile).queue ∧ t.g.acc = s.g.acc))
  ∧ (∀ (s : State) (pair fmt ka kb bsel steps ra sa rb sb : Nat) (ga gb : Bool) (scA scB : FMap Word) (e : MxEntry) (as bs : List (List Byte)),
    s.arrayNext pair = some (s.g.serial, e) → e.op = .mma fmt ka kb ga gb bsel steps (.ring ra sa) (.ring rb sb) scA scB →
    (s.pair pair).dead = false → s.g.windows = [] → s.g.padPoison = [] → s.g.place = .running →
    s.rowsBytes [] (s.g.operandRows (.ring ra sa) (operandRow fmt ka) e.step) = .ok as →
    s.rowsBytes [] (s.g.operandRows (.ring rb sb) (operandRow fmt kb) e.step) = .ok bs →
    Says.answers (.mmaStep pair) s (fun t =>
      (∀ i, i < 4096 → FMap.get t.g.acc 0#32 (4096 * e.acc + i)
        = BitVec.ofNat 32 ((stepTile fmt ka kb ga gb bsel e.step scA scB (s.g.tileOf e.acc) as bs).getD i 0))
      ∧ (∀ k, k < 4096 * e.acc ∨ 4096 * (e.acc + 1) ≤ k → FMap.get t.g.acc 0#32 k = FMap.get s.g.acc 0#32 k)
      ∧ (t.pair pair).steps = (s.pair pair).steps + 1 ∧ (s.g.serial, e.acc) ∈ (t.pair pair).written
      ∧ (e.step + 1 = steps → ∀ x ∈ t.g.mx, x.id ≠ e.id)))
  ∧ (∀ (s : State) (e : MxEntry), s.g.mxHead = some e → e.op = .accz → s.accDue s.g = true →
    Says.answers (.accTurn s.g.serial) s (fun t => (∀ i, i < 4096 → FMap.get t.g.acc 0#32 (4096 * e.acc + i) = 0#32)
      ∧ (∀ k, k < 4096 * e.acc ∨ 4096 * (e.acc + 1) ≤ k → FMap.get t.g.acc 0#32 k = FMap.get s.g.acc 0#32 k)
      ∧ FMap.get t.g.marks 0 e.acc = 0 ∧ ∀ x ∈ t.g.mx, x.id ≠ e.id))
  ∧ (∀ (s s1 : State) (e : MxEntry) (bf : Bool) (addr : DWord) (pitch : Nat) (xl : FMap Nat) (bs : List Byte),
    s.g.mxHead = some e → e.op = .accld bf addr pitch xl → s.accDue s.g = true →
    let ps := farPieces addr pitch 0 (if bf then 128 else 256)
    ({ s with acting := e.id }).prepare xl ps = .ok s1 → s1.piecesBytes xl ps = .ok bs →
    Says.answers (.accTurn s.g.serial) s (fun t => ∀ i, i < 4096 →
      FMap.get t.g.acc 0#32 (4096 * e.acc + i) = BitVec.ofNat 32 (if bf then (fconvert fmtBF16 fmtF32 .rn (field bs (2 * i) 2)).val else field bs (4 * i) 4)))
  ∧ (∀ (s : State) (pair : Nat) (failed : BitVec 8),
    Says.answers (.clovePattern pair failed) s (fun t => (t.pair pair).steps = 0 ∧ (t.pair pair).interval = s.pkg.clove
      ∧ (t.pair pair).fenced = (s.pair pair).fenced ||| failed
      ∧ (failed &&& ~~~(s.pair pair).fenced = 0#8 → (t.pair pair).written = [] ∧ t.g = s.g)
      ∧ (failed &&& ~~~(s.pair pair).fenced ≠ 0#8 → ∀ n, (s.g.serial, n) ∈ (s.pair pair).written → (FMap.get t.g.marks 0 n).testBit 0 = true)))

/-! ## The engines -/

/-- R180, R196, R197, R199, R201, R203: a Porter instruction whose record is in order queues its command, which W3 awaits. The command at the
head of its queue starts when its charge is covered, which debits it whole, and is held when it is not. The charge is twice the bytes of a
transfer, three times with a reduction, for each rank that it goes to, and 4 bytes for each index; a transfer to ranks performs no
reduction and is charged twice its bytes even where its record names one (the model's choice, log 63). A walk reads its arrays first, and
then writes its output and its completion word and ends. A TCOPY of one row of the allotment moves its bytes. -/
def Obligations.PorterCommandsQueueAndComplete : Prop :=
  (∀ (i : Instr) (o : Ops) (kind : Nat) (s s2 : State) (r : List Byte) (ts : List (Nat × Nat)),
    (i, kind) ∈ [(Instr.tcopy o, 0), (.tgath o, 1), (.tscat o, 2), (.twalk o, if o.f = 0#4 then 3 else 4)] →
    s.w.activeLanes ≠ 0#32 → Says.calm o s → (s.w.upair o.a).toNat % 32 = 0 →
    (s.charge 1 0).readVa (s.w.upair o.a) 128 .read = .ok s2 r → s2.g.recOk kind r = true →
    ((kind = 0 ∧ recRank r = true) → (s2.ctx (recCtx r)).st = 1 ∧ rankTargets (s2.ctx (recCtx r)) r = some ts) →
    (¬(kind = 0 ∧ recRank r = true) → ts = []) →
    Says.answers i s (fun t => ∃ c, t.g.porter = s2.g.porter ++ [c] ∧ c.queue = o.ext.toNat / 64 % 4 ∧ c.kind = kind ∧ c.record = r
      ∧ c.wid = s.w.wid ∧ c.started = false ∧ c.held = none ∧ c.targets = ts ∧ Says.awaited t 3 c.out))
  ∧ (∀ (s : State) (q : Nat) (c : PorterCmd), s.porterStartDue s.g q = true → s.g.porterHead q = some c → c.kind < 3 →
      let r := c.record
      let n := if c.kind = 0 then field r 0x10 4 * field r 0x14 4 * field r 0x18 4 * field r 0x1C 4 else field r 0x10 4 * field r 0x14 4
      let bytes := n * 2 ^ (field r 0x50 4 % 8)
      let cost := if c.kind = 0 then (if recRed r = 0 ∨ recRank r = true then 2 * bytes else 3 * bytes) * max 1 c.targets.length
        else 4 * field r 0x14 4 + (if recRed r = 0 ∨ recRank r = true then 2 * bytes else 3 * bytes)
      (s.g.coversNow c.held.isSome cost = true → Says.answers (.porterCommandStart s.g.serial q) s (fun t =>
        (∃ c', c' ∈ t.g.porter ∧ c'.id = c.id ∧ c'.started = true ∧ c'.held = none ∧ c'.granted = decide (bytes ≤ 65536))
        ∧ (s.g.resting = false → t.g.mpurse = s.g.mpurse - cost)))
      ∧ (s.g.coversNow c.held.isSome cost = false → Says.answers (.porterCommandStart s.g.serial q) s (fun t =>
        (∃ c', c' ∈ t.g.porter ∧ c'.id = c.id ∧ c'.started = c.started ∧ c'.held = some cost) ∧ t.g.mpurse = s.g.mpurse)))
  ∧ (∀ (s s1 : State) (q : Nat) (c : PorterCmd) (rows cols : List Nat), s.porterStartDue s.g q = true → s.g.porterHead q = some c → 3 ≤ c.kind →
      ({ s with acting := c.id }).walkRead c.kind c.record (field c.record 0x14 4) 0 [] [] = .ok s1 rows cols →
      let cost := walkCharge c.kind c.record rows cols
      (∀ s2, s1.g.coversNow c.held.isSome cost = true → s1.walkWrite (walkOut c.record rows cols) = .ok s2 () →
        Says.answers (.porterCommandStart s.g.serial q) s (fun t => Says.sameMem s2 t
          ∧ (recCompl c.record = true → s2.g.padPoison = [] → Says.padNat t (field c.record 0x60 4) 4 = field c.record 0x64 4)
          ∧ (s2.g.resting = false → (recCompl c.record = false ∨ s2.g.windows = []) → t.g.mpurse = s2.g.mpurse - cost) ∧ ∀ c', c' ∈ t.g.porter → c'.id ≠ c.id))
      ∧ (s1.g.coversNow c.held.isSome cost = false → c ∈ s1.g.porter → Says.answers (.porterCommandStart s.g.serial q) s (fun t =>
          (∃ c', c' ∈ t.g.porter ∧ c'.id = c.id ∧ c'.started = c.started ∧ c'.held = some cost) ∧ t.g.mpurse = s1.g.mpurse)))
  ∧ (∀ (s : State) (q so dof : Nat) (c : PorterCmd), s.porterGoes s.g q = true → s.g.porterHead q = some c → c.kind = 0 →
      let r := c.record
      let n := field r 0x10 4
      let size := 2 ^ (field r 0x50 4 % 8)
      let base := 0x01FFFF0000000000
      field r 0x50 4 < 5 → n ≠ 0 → field r 0x14 4 = 1 → field r 0x18 4 = 1 → field r 0x1C 4 = 1 → c.elem = 0 →
      s.g.windows = [] → s.g.padPoison = [] → field r 0 8 = base + so → field r 8 8 = base + dof → so % size = 0 → dof % size = 0 →
      so + n * size ≤ s.g.padUnits * 4096 → so + n * size ≤ 0x60000 → dof + n * size ≤ s.g.padUnits * 4096 → dof + n * size ≤ 0x60000 →
      (so + n * size ≤ dof ∨ dof + n * size ≤ so) →
      Says.answers (.porterCommandComplete s.g.serial q) s (fun t =>
        (∀ j, j < n * size → FMap.get t.g.pad 0#8 (dof + j) = FMap.get s.g.pad 0#8 (so + j))
        ∧ (∀ p, (p < dof ∨ dof + n * size ≤ p) → FMap.get t.g.pad 0#8 p = FMap.get s.g.pad 0#8 p)
        ∧ Says.sameMem s t ∧ ∀ c', c' ∈ t.g.porter → c'.id ≠ c.id))

/-- R196, R205, R206, R212: ITIN binds an idle context whose descriptor and rank map are in order: running, at the itinerary's first word, c0 the
value given and the other registers 0, in the workgroup's space and at its level; W3 awaits it, and it waits for the governor's leave.
A context that is not idle raises LAUNCH_REFUSED, a misaligned itinerary or descriptor MISALIGNED. That the context keeps the rank map as it
was at its start, and that LAUNCH_REFUSED reports the descriptor's address, are the model's choices (logs 60 and 61). -/
def Obligations.ItinBindsAnIdleContext : Prop :=
  ∀ (o : Ops) (s : State), s.w.activeLanes ≠ 0#32 →
    let s1 := s.charge 1 0
    let n := o.ext.toNat % 64
    let itin := s.w.upair o.d
    let desc := s.w.upair o.a
    (∀ s2 s3 d m, Says.calm o s → itin.toNat % 8 = 0 → desc.toNat % 256 = 0 → (s.ctx n).st = 0 → (s.ctx n).quarantined = false →
      s1.readVa desc 256 .read = .ok s2 d → descOk (s.ctx n).gen d = true →
      s2.readVa (BitVec.ofNat 64 (field d 8 8)) (4 * field d 2 2) .read = .ok s3 m → mapOk m (field d 2 2) = true →
      Says.answers (.itin o) s (fun t =>
        let x := t.ctx n
        x.st = 1 ∧ x.pc = itin ∧ x.desc = d ++ m ∧ x.reg 0 = s.w.usrc o.ext o.b ∧ (∀ k, k ≠ 0 → x.reg k = 0#32)
        ∧ x.space = s.g.space ∧ x.level = s.g.level ∧ x.wg = s.g.serial ∧ x.wid = s.w.wid ∧ x.wait = .power ∧ x.loops = []
        ∧ x.todo = [(BitVec.ofNat 64 (field d 0x20 8), leBytes 4 1 ++ List.replicate 252 0#8)] ∧ Says.awaited t 3 x.out))
    ∧ (itin.toNat % 8 ≠ 0 → exec (.itin o) s = .next (s1.raise .misaligned s.w.activeLanes itin))
    ∧ (itin.toNat % 8 = 0 → desc.toNat % 256 ≠ 0 → exec (.itin o) s = .next (s1.raise .misaligned s.w.activeLanes desc))
    ∧ (itin.toNat % 8 = 0 → desc.toNat % 256 = 0 → ((s.ctx n).st ≠ 0 ∨ (s.ctx n).quarantined = true) →
        exec (.itin o) s = .next (s1.raise .launchRefused s.w.activeLanes desc))

/-- R213: the itinerary words that set registers, loop, branch, join, mark, wait for sends and end, in a running context; and R222's stops:
of a word that may not be executed (ILLEGAL), a loop fault, a mark out of range and the watchdog. -/
def Obligations.ItineraryControlWordsActOnTheirContext : Prop :=
  ∀ (w : Itin) (s : State), s.cur.st = 1 →
    let x := s.cur
    let n := s.courier.cur
    let imm := w.imm.toNat
    let sets := fun (i : Instr) (v : Word) => Says.answers i s (fun t => Says.passes s t ∧ Says.sameMem s t ∧ t.w = s.w ∧ t.g = s.g
      ∧ ∀ k, t.cur.reg k = if k = w.cr.toNat then v else x.reg k)
    let loops := fun (i : Instr) (count : Int) =>
      (1 ≤ count → x.loops.length < 4 → Says.answers i s (fun t => Says.passes s t ∧ t.cur.loops = (x.pc + 8#64, count.toNat) :: x.loops))
      ∧ (x.ending = none → (count < 1 ∨ 4 ≤ x.loops.length) → Says.answers i s (fun t => Says.stops t n x 5))
    let branches := fun (i : Instr) (k : Nat) =>
      let r := (x.reg w.cr.toNat).toNat
      let taken := match w.flags.toNat % 4 with | 0 => r = k | 1 => r ≠ k | 2 => r < k | _ => k ≤ r
      (taken → Says.answers i s (fun t => t.cur.pc = x.pc + BitVec.ofInt 64 (8 * (w.imm.extractLsb' 16 16).toInt) ∧ t.cur.wait = .none
        ∧ Says.sameMem s t))
      ∧ (¬taken → Says.answers i s (fun t => Says.passes s t ∧ Says.sameMem s t))
    let j := (x.reg w.cr.toNat).toNat
    let set := addNat j x.final
    sets (.setc w) w.imm ∧ sets (.setcRank w) (BitVec.ofInt 32 (((x.rank : Int) + w.imm.toInt) % (x.nrank : Int)))
    ∧ sets (.setcCopy w) (x.reg w.sa.toNat + w.imm)
    ∧ sets (.addc w) (BitVec.ofInt 32 (((j : Int) + (w.imm.extractLsb' 0 16).toInt)
        % (((if imm / 65536 = 0 then x.nrank else imm / 65536) : Nat) : Int)))
    ∧ sets (.addcWrap w) (x.reg w.cr.toNat + w.imm)
    ∧ loops (.loop w) (imm : Int) ∧ loops (.loopGrp w) ((x.nrank : Int) + w.imm.toInt)
    ∧ (∀ start k rest, x.loops = (start, k) :: rest → k ≠ 1 → 0 < k → Says.answers (.endl w) s (fun t =>
        t.cur.pc = start ∧ t.cur.loops = (start, k - 1) :: rest))
    ∧ (∀ start rest, x.loops = (start, 1) :: rest → Says.answers (.endl w) s (fun t => Says.passes s t ∧ t.cur.loops = rest))
    ∧ (x.loops = [] → x.ending = none → Says.answers (.endl w) s (fun t => Says.stops t n x 5))
    ∧ branches (.brc w) (imm % 65536) ∧ branches (.brcRank w) x.rank
    ∧ (x.wait = .none → (x.wg = 0 ∨ s.queued x.wg (imm % 32) = []) → Says.answers (.joinq w) s (fun t => Says.passes s t ∧ Says.sameMem s t
        ∧ t.cur.cover = if x.wg = 0 then [] else s.storeIds x.wg))
    ∧ (∀ id, x.wait = .none → x.wg ≠ 0 → id ∈ s.queued x.wg (imm % 32) → id ∈ s.commandIds x.wg →
        Says.answers (.joinq w) s (fun t => ∃ ids, t.cur.wait = .join ids ∧ id ∈ ids ∧ t.cur.pc = x.pc))
    ∧ (∀ (byte : Nat) (s1 : State), j < 1024 → byte < 256 → (∀ i, i < 8 → (byte.testBit i = true ↔ (j / 8 * 8 + i = j ∨ j / 8 * 8 + i ∈ x.final))) →
        s.ctxWrite x (x.status.toNat + 0x40 + j / 8) (leBytes 1 byte) = .ok s1 [] →
        Says.answers (.markNocompl w) s (fun t => Says.passes s t ∧ t.cur.final = set ∧ Says.sameMem s1 t)
        ∧ (∀ s3, let s2 := s1.modCur (fun c => { c with final := set })
            s2.ctxWriteWord s2.cur x.compl.toNat (leBytes 4 imm) = .ok s3 [] →
            Says.answers (.mark w) s (fun t => t.cur.pc = x.pc + 8#64 ∧ t.cur.final = set ∧ Says.sameMem s3 t ∧ t.g = s3.g)))
    ∧ (∀ i, (i = .mark w ∨ i = .markNocompl w) → 1024 ≤ j → x.ending = none → Says.answers i s (fun t => Says.stops t n x 2))
    ∧ (x.sends = [] → Says.answers (.waitSent w) s (fun t => Says.passes s t ∧ Says.sameMem s t))
    ∧ (x.sends = [] → Says.answers (.halt w) s (fun t => t.cur.ending = some 0 ∧ t.cur.wait = .none
        ∧ t.cur.todo = [(x.status, leBytes 4 2 ++ leBytes 4 x.ops ++ leBytes 8 0)]))
    ∧ (x.sends ≠ [] → ∀ i, (i = .waitSent w ∨ i = .halt w) → Says.answers i s (fun t => t.cur.wait = .sent ∧ t.cur.pc = x.pc))
    ∧ (x.ending = none → ∀ bits, Says.answers (.itineraryFault bits) s (fun t => Says.stops t n x 1))
    ∧ (∀ m, (s.ctx m).st = 1 → (s.ctx m).ending = none → (s.ctx m).parked = 0 →
        Says.answers (.watchdog m) s (fun t => Says.stops t m (s.ctx m) 3))

/-- R211, R213, R214, R215: the words that send, receive, reduce, copy, wait and signal, in a running context. -/
def Obligations.ItineraryTransferWordsActOnTheirContext : Prop :=
  ∀ (w : Itin) (s : State) (p : Nat), s.cur.st = 1 → Says.peer s.cur w p →
    let x := s.cur
    let j := (x.reg w.cr.toNat).toNat
    let flag := field x.desc 0x18 8 + 4 * w.sa.toNat
    let q := x.peer p
    (∀ a len, Says.chunk x w.sa.toNat j a len → x.wait ≠ .limit →
      (x.sends.length < 8 → Says.answers (.send w) s (fun t => Says.passes s t ∧ Says.sameMem s t ∧ (t.cur.peer p).sends = q.sends + 1
        ∧ t.cur.sends = x.sends ++ [{ rank := p, seq := q.sends, slot := w.sa.toNat, chunk := j, granted := q.grants.contains q.sends
                                      paid := false, sent := false }]))
      ∧ (8 ≤ x.sends.length → Says.answers (.send w) s (fun t => t.cur.wait = .limit ∧ t.cur.mcast = [p] ∧ t.cur.pc = x.pc ∧ t.cur.sends = x.sends))
      ∧ (let ps := ((List.range 16).filter (fun i => w.imm.getLsbD i)).map (fun i => (p + i) % x.nrank)
        x.sends.length + ps.length ≤ 8 → Says.answers (.mcast w) s (fun t => Says.passes s t
          ∧ t.cur.sends.map (fun y => (y.rank, y.slot, y.chunk)) = x.sends.map (fun y => (y.rank, y.slot, y.chunk))
            ++ ps.map (fun r => (r, w.sa.toNat, j)))))
    ∧ (∀ b len, Says.chunk x w.sb.toNat j b len → Says.answers (.recv w) s (fun t =>
        t.cur.wait = .chunk p q.recvs w.sb.toNat j 0 0 ∧ (t.cur.peer p).recvs = q.recvs + 1 ∧ t.cur.pc = x.pc
        ∧ Says.sendsTo s t x p q.recvs Instr.grant OutMsg.grant))
    ∧ (∀ a b len, Says.chunk x w.sa.toNat j a len → Says.chunk x w.sb.toNat j b len → (w.red.toNat = 0 ∨ len % redSize w.red.toNat = 0) →
        (∀ s1, s.ctxPay s.courier.cur (2 * x.chunk) = .paid s1 → Says.answers (.recvred w) s (fun t =>
          t.cur.wait = .chunk p q.recvs w.sb.toNat j w.red.toNat w.sa.toNat ∧ (t.cur.peer p).recvs = q.recvs + 1
          ∧ Says.sendsTo s t x p q.recvs Instr.grant OutMsg.grant))
        ∧ Says.answers (.reduce w) s (fun t => t.cur.wait = .path w.sa.toNat w.sb.toNat j w.red.toNat false ∧ t.cur.pc = x.pc))
    ∧ (∀ a b len, Says.chunk x w.sa.toNat j a len → Says.chunk x w.sb.toNat j b len →
        Says.answers (.copy w) s (fun t => t.cur.wait = .path w.sa.toNat w.sb.toNat j 0 false ∧ t.cur.pc = x.pc))
    ∧ (q.signals ≠ 0 → Says.answers (.waitSig w) s (fun t => Says.passes s t ∧ Says.sameMem s t ∧ (t.cur.peer p).signals = q.signals - 1))
    ∧ (q.signals = 0 → Says.answers (.waitSig w) s (fun t => t.cur.wait = .signal p ∧ t.cur.pc = x.pc))
    ∧ Says.answers (.signalPeer w) s (fun t => Says.passes s t ∧ Says.sameMem s t ∧ Says.sendsTo s t x p 0 Instr.signalArrival OutMsg.signal)
    ∧ (∀ s1 bs, s.ctxRead x flag 4 = .ok s1 bs →
        ((x.reg w.cr.toNat).toNat ≤ leNat bs → Says.answers (.waitFlag w) s (fun t => Says.passes s t ∧ Says.sameMem s t))
        ∧ (leNat bs < (x.reg w.cr.toNat).toNat → Says.answers (.waitFlag w) s (fun t => t.cur.wait = .flag ∧ t.cur.pc = x.pc)))
    ∧ (∀ s1, s.ctxWrite x flag (leBytes 4 w.imm.toNat) = .ok s1 [] → Says.answers (.signalSet w) s (fun t => Says.passes s t ∧ Says.sameMem s1 t))
    ∧ (∀ k, s.ctxKeys x .write [(flag, 4)] = .ok [(k, 4)] →
        (∀ bs s1, s.direct true k 4 = true → s.fab.asks = [] → s.homeRead k 4 = .ok bs →
          s.homeWrite (cellsAt k (leBytes 4 (leNat bs + w.imm.toNat))) = .ok s1 →
          Says.answers (.signalAdd w) s (fun t => Says.passes s t ∧ Says.sameMem s1 t))
        ∧ (∀ s1, s.homeAtomic pkgParty x.id k 4 0 w.imm.toNat (fun old => (old + w.imm.toNat) % 2 ^ 32) = .ok s1 →
          Says.answers (.signalAdd w) s (fun t => Says.passes s t ∧ Says.sameMem s1 t)))

/-- R209, R214 to R216, R220, R222: the data path performs the op on it (a copy's bytes, a reduction's, a send's message) and takes the first ready
one; a context takes a grant, a chunk, an acknowledgement, a signal, and drops and counts one of another generation; the target of a rank
transfer answers a reservation, and a granted piece, of this package or another, is written and acknowledged. That a piece's bytes and their
acknowledgement are events of the names CHUNK_DATA and CHUNK_ACKNOWLEDGEMENT is the model's choice (log 37). -/
def Obligations.CourierEventsMoveChunks : Prop :=
  (∀ (s : State) (n sa sb j red a b len : Nat) (pd : Bool) (nm : Nat), (s.ctx n).st = 1 → (s.ctx n).ending = none →
    (s.ctx n).wait = .path sa sb j red pd →
    Says.chunk (s.ctx n) sa j a len → Says.chunk (s.ctx n) sb j b len → (red = 0 ∨ len % redSize red = 0) →
    s.courier.path = some (n, if red = 0 then 1 else 2, nm) →
    (∀ s1 s2 s3 xa xb, s.ctxRead (s.ctx n).onPath a len = .ok s1 xa → (if red = 0 then s2 = s1 else s1.ctxRead (s.ctx n).onPath b len = .ok s2 xb) →
      s2.ctxWrite (s.ctx n).onPath b (if red = 0 then xa else combineBytes red xb xa) = .ok s3 [] →
      ∃ u : State, exec .chunkOpComplete s = .next (u.pickOp u.chunkOps) ∧ Says.sameMem s3 u ∧ u.courier.path = none
        ∧ (u.ctx n).pc = (s.ctx n).pc + 8#64 ∧ (u.ctx n).ops = (s.ctx n).ops + 1 ∧ (u.ctx n).wait = .none))
  ∧ (∀ (s s1 : State) (n a len : Nat) (y : CSend) (bs : List Byte), (s.ctx n).st = 1 → (s.ctx n).ending = none →
    (s.ctx n).sends.find? (fun z => z.name == y.name) = some y → Says.chunk (s.ctx n) y.slot y.chunk a len →
    s.courier.path = some (n, 0, y.name) → s.ctxRead (s.ctx n).onPath a len = .ok s1 bs →
    ∃ u : State, exec .chunkOpComplete s = .next (u.pickOp u.chunkOps) ∧ Says.sameMem s u ∧ (u.ctx n).ops = (s.ctx n).ops + 1 ∧ u.courier.path = none
      ∧ Says.sendsTo s u (s.ctx n) y.rank y.seq (fun m => .chunkData m bs) (fun p m => .chunk p m bs))
  ∧ (∀ (s s1 : State) (o : ChunkOp) (os : List ChunkOp), s.courier.path = none → s.chunkOps = o :: os →
    (o.paid = true ∨ s.ctxPay o.ctx o.cost = .paid s1) →
    Says.answers .chunkOpComplete s (fun t => t.courier.path = some (o.ctx, o.kind, o.name) ∧ t.courier.last = o.ctx))
  ∧ (∀ (s : State) (m : CtxMsg), m.posted = none → let c := s.ctx m.ctx
    (c.gen ≠ m.gen → ∀ i, (i = .grant m ∨ i = .signalArrival m ∨ (∃ bs, i = .chunkData m bs) ∨ (∃ ok, i = .chunkAcknowledgement m ok)) →
      exec i s = .next (s.dropMessage m.ctx) ∧ ((s.dropMessage m.ctx).ctx m.ctx).drops = c.drops + 1
        ∧ FMap.get (s.dropMessage m.ctx).fab.counters 0#32 7 = FMap.get s.fab.counters 0#32 7 + 1#32 ∧ Says.sameMem s (s.dropMessage m.ctx))
    ∧ (c.gen = m.gen →
      Says.answers (.grant m) s (fun t =>
        ((∃ y ∈ c.sends, y.rank = m.rank ∧ y.seq = m.seq) → ∀ y ∈ (t.ctx m.ctx).sends, y.rank = m.rank → y.seq = m.seq → y.granted = true)
        ∧ ((∀ y ∈ c.sends, ¬(y.rank = m.rank ∧ y.seq = m.seq)) → m.seq ∈ ((t.ctx m.ctx).peer m.rank).grants))
      ∧ Says.answers (.signalArrival m) s (fun t => ((t.ctx m.ctx).peer m.rank).signals = (c.peer m.rank).signals + 1)
      ∧ ((∃ y ∈ c.sends, y.rank = m.rank ∧ y.seq = m.seq ∧ y.sent = true) →
        Says.answers (.chunkAcknowledgement m true) s (fun t =>
          (t.ctx m.ctx).sends = c.sends.filter (fun y => !(y.rank == m.rank && y.seq == m.seq)))
        ∧ (c.st = 1 → c.ending = none → Says.answers (.chunkAcknowledgement m false) s (fun t => Says.stops t m.ctx c 9)))
      ∧ (∀ (slot j red src a b len : Nat) (bs xa : List Byte) (s1 s2 : State), c.st = 1 → c.wait = .chunk m.rank m.seq slot j red src →
        Says.chunk c slot j b len → bs.length = len → (if red = 0 then s1 = s else Says.chunk c src j a len ∧ s.ctxRead c a len = .ok s1 xa) →
        s1.ctxWrite c b (if red = 0 then bs else combineBytes red xa bs) = .ok s2 [] →
        Says.answers (.chunkData m bs) s (fun t => Says.sameMem s2 t ∧ (t.ctx m.ctx).pc = c.pc + 8#64 ∧ (t.ctx m.ctx).wait = .none
          ∧ Says.sendsTo s t c m.rank m.seq (fun a => .chunkAcknowledgement a true) (fun p a => .chunkAck p a true)))))
  ∧ (∀ (s : State) (m : PostedReq), let c := s.ctx m.ctx
    let ok := decide (c.st = 1 ∧ m.buf < 8 ∧ m.first ≤ m.last ∧ m.last < c.slotLen m.buf)
    (c.gen ≠ m.gen → exec (.postedReservationRequest m) s = .next (s.dropMessage m.ctx))
    ∧ (c.gen = m.gen → m.srcPkg = Config.pkgid → Says.answers (.postedReservationRequest m) s (fun t => Instr.postedGrant m.piece ok ∈ t.events
        ∧ Says.sameMem s t))
    ∧ (c.gen = m.gen → m.srcPkg ≠ Config.pkgid → s.routed m.srcPkg = true → Says.answers (.postedReservationRequest m) s (fun t =>
        OutMsg.postedAnswer m.srcPkg m.piece ok ∈ t.outbox ∧ (ok = true → m ∈ t.courier.posted) ∧ Says.sameMem s t)))
  ∧ (∀ (s s1 : State) (m : CtxMsg) (d : PostedReq) (offs : List Nat) (bs : List Byte), m.posted = some (d, offs) →
    ((s.ctx m.ctx).gen = m.gen → d ∈ s.courier.posted → s.postedWrite (s.ctx m.ctx) d.buf (offs.zip bs) = .ok s1 [] → s1.routed d.srcPkg = true →
      Says.answers (.chunkData m bs) s (fun t => Says.sameMem s1 t ∧ OutMsg.postedAck d.srcPkg d true ∈ t.outbox ∧ d ∉ t.courier.posted))
    ∧ (∀ p, s.courier.pieces.find? (fun q => q.id == d.piece) = some p → Says.answers (.chunkAcknowledgement m true) s (fun t =>
        Says.sameMem s t ∧ ∀ q ∈ t.courier.pieces, q.id ≠ p.id)))
  ∧ (∀ (s s1 : State) (p : Piece) (pages ks : List (Nat × Nat)), let c := s.ctx p.ctx
    s.courier.pieces.find? (fun q => q.id == p.id) = some p → p.pkg = Config.pkgid → c.st = 1 → c.gen = p.gen →
    pages = (p.cells.foldl (fun l k => addNat ((c.slotBase p.buf + k.1) / 65536) l) []).map (fun n => (n * 65536, 1)) →
    s.ctxKeys c .write pages = .ok ks →
    let xl : FMap Nat := (pages.zip ks).foldl (fun m q => FMap.insert m (q.1.1 / 65536) q.2.1) []
    let cells := p.cells.map (fun k => (FMap.get xl 0 ((c.slotBase p.buf + k.1) / 65536) + (c.slotBase p.buf + k.1) % 65536, k.2))
    ({ s with acting := c.id } : State).homePut pkgParty c.id cells = .ok s1 →
    Says.answers (.postedGrant p.id true) s (fun t => Says.sameMem s1 t ∧ ∀ q ∈ t.courier.pieces, q.id ≠ p.id))

/-! ## Results, warps and workgroups -/

/-- R14, R19, R149, R215, R243, R302, R306: a returning result is counted, its flags merged, and no register changes; a reply brings its bytes to the
operation it answers, or its failure with the lanes and address of its request, and the request is outstanding no more; a store's
acknowledgement takes its bytes out of the pending-store buffer. When the last result of a warp that waits for its handler is in, the
handler is entered with the trap that waited; what the trapped clause has set aside waits in its frame (the model's choice, log 33). -/
def Obligations.ResultsAndRepliesReturn : Prop :=
  (∀ (s : State) (o : Out), s.w.present = true → s.w.outs.find? (fun x => x.id == o.id) = some o → o.hasDest = true →
    Says.answers (.variableResultReturn s.warpId o.id) s (fun t =>
      (∃ x, x ∈ t.w.outs ∧ x.id = o.id ∧ x.waiting = o.waiting - 1 ∧ x.vals = o.vals ∧ x.keys = o.keys ∧ x.fail = o.fail)
      ∧ t.w.aflags = s.w.aflags ||| (o.flags &&& 0x3F#32) ∧ (∀ k, t.w.readKey k = s.w.readKey k) ∧ Says.sameMem s t))
  ∧ (∀ (s : State) (r : Req) (o : Out) (parts : List Part) (lns : LaneMask), s.w.present = true → s.findReq r.id = some r →
    r.dest = .warp s.warpId o.id parts lns → s.w.outs.find? (fun x => x.id == o.id) = some o → o.hasDest = true →
    let gone := fun (t : State) => ∀ q ∈ t.fab.reqs, q.id ≠ r.id
    let got := fun (t : State) (p : Out → Prop) => gone t ∧ (∀ k, t.w.readKey k = s.w.readKey k) ∧ Says.sameMem s t
      ∧ ∃ x, x ∈ t.w.outs ∧ x.id = o.id ∧ x.waiting = o.waiting - 1 ∧ p x
    (∀ v, Says.answers (.memoryReply r.id (.value v)) s (fun t => got t (fun x => x.fail = o.fail
      ∧ x.vals = o.vals ++ parts.map (fun p => (p.key, p.value (leBytes r.len v.toNat))))))
    ∧ (∀ cells g ver,
      Says.answers (.memoryReply r.id (.fill cells g ver)) s (fun t => got t (fun x => x.fail = o.fail
        ∧ x.vals = o.vals ++ parts.map (fun p => (p.key, p.value ((List.range r.len).map (fun i => FMap.get cells 0#8 (r.key + i))))))))
    ∧ Says.answers (.memoryReply r.id .ack) s (fun t => got t (fun x => x.fail = o.fail ∧ x.vals = o.vals)
      ∧ ∀ p ∈ t.fab.pend, p.req ≠ r.id)
    ∧ (∀ c, o.fail = none → Says.answers (.memoryReply r.id (.failed c)) s (fun t => got t (fun x =>
        x.fail = some { cause := c, lanes := lns, addr := r.vaddr }))))
  ∧ (∀ (s : State) (id : Nat) (rep : Reply), s.findReq id = none → (∀ p ∈ s.courier.pieces, p.id ≠ id) →
    exec (.memoryReply id rep) s = .next { s with fab := { s.fab with
      counters := FMap.put s.fab.counters 0#32 6 (FMap.get s.fab.counters 0#32 6 + 1#32) } })
  ∧ (∀ (s : State) (r : TrapRec), s.isWarp s.warpId = true → s.g.serial = s.w.wg → s.w.wait = .drain → s.w.trap = some r →
    s.g.tvec ≠ lpcExited → s.w.frame = none → s.w.mac = none → s.w.pendFails = [] → (∀ x ∈ s.w.outs, x.hasDest = true → x.waiting = 0 ∧ x.fail = none) →
    Says.answers (.handlerEntry s.warpId) s (fun t => t.w.frame = some { lpc := s.w.lpc, preds := (s.w.commit (fun x => x.hasDest)).1.preds, cl := s.w.cl, mac := none, res := s.w.res }
      ∧ t.w.cl = none ∧ t.w.wait = .none ∧ t.w.trap = none ∧ t.w.tb.tclause = r.clause ∧ t.w.tb.tlanes = r.lanes
      ∧ t.w.tb.tindex = BitVec.ofNat 32 r.index ∧ t.w.tb.taddrLo = loWord r.addr ∧ t.w.tb.taddrHi = hiWord r.addr
      ∧ (∀ k, t.w.readKey k = Says.installed s k)
      ∧ ∀ l, l < 32 → t.w.lpcOf l = if isOffset (s.w.lpcOf l) = true then s.g.tvec else s.w.lpcOf l))

/-- R27, R117, R118, R287, R291 to R296, R299, R315: the oldest ready pending warp of a partition takes a free place of its active set; the former
makes a warp of the waiting threads of a due target; a timeout makes a target due; empty grace counters and a forced yield stop the warps
that stand at a boundary; a workgroup is saved with its registers and allotment, placed at its launch values or, with its warps' registers
and `lpc`, its engines' entries and its threads, as it was, and completes; a warp's record in an image has R315's size and places. Whether a
write to the image of a forced yield fails is a free value, and the model completes such a workgroup FAULTED (its choice, log 35). -/
def Obligations.WarpAndWorkgroupEventsAct : Prop :=
  (∀ (s : State) (core part : Nat) (x : Warp), let ws := s.inPartition core part
    (ws.filter (fun w => w.active)).length < 8 → x ∈ ws → x.active = false → s.warpReady x = true →
    (∀ y ∈ ws, y.active = false → s.warpReady y = true → y = x ∨ x.age < y.age) →
    Says.answers (.activeSetSwap core part) s (fun t => ({ x with active := true } : Warp) ∈ t.allWarps ∧ t.g = s.g ∧ Says.sameMem s t))
  ∧ (∀ (s : State) (target : Word), s.targetDue s.g target = true →
    let due := (s.g.spawn.filter (fun r => r.target == target)).take 32
    Says.answers (.formedWarpEmit s.g.serial target) s (fun t =>
      (∀ r, r.target ≠ target → (r ∈ t.g.spawn ↔ r ∈ s.g.spawn)) ∧ t.g.spawn.length + due.length = s.g.spawn.length
      ∧ ∃ w, w ∈ t.warps ∧ w.present = true ∧ w.wg = s.g.serial ∧ w.formed = true ∧ w.cl = none
        ∧ (∀ l r, due[l]? = some r → w.lpcOf l = target ∧ FMap.get w.tids 0 l = r.tid ∧ (∀ n, 1 ≤ n → n < 8 → w.pred n l = r.preds.getLsbD n)
          ∧ (FMap.wf 0#32 r.regs = true → ∀ n, n < 48 → FMap.get w.vregs 0#32 (vkey n l) = FMap.get r.regs 0#32 n))
        ∧ (∀ l, due.length ≤ l → w.lpcOf l = lpcExited)
        ∧ FMap.get w.kregs 0#32 0 = loWord s.g.arg ∧ FMap.get w.kregs 0#32 1 = hiWord s.g.arg))
  ∧ (∀ (s : State) (target : Word), s.g.place = .running → (∃ r ∈ s.g.spawn, r.target = target) →
    Says.answers (.formerTimeout s.g.serial target) s (fun t => target ∈ t.g.due ∧ Says.sameMem s t))
  ∧ (∀ s : State, s.g.place = .running → s.g.resting = true → s.noFunds s.g = true →
    Says.answers (.graceExhaustion s.g.serial) s (fun t => t.g.forced = true ∧ Says.sameMem s t))
  ∧ (∀ s : State, s.g.place = .running → s.g.forced = true → Says.answers (.forcedYield s.g.serial) s (fun t => t.g.forced = true
      ∧ ∀ x ∈ s.allWarps, x.present = true → x.wg = s.g.serial → x.cl = none → (x.wait = .none ∨ ∃ m, x.wait = .classes m) → x.live ≠ 0#32 →
          ({ x with wait := .none, stopped := true, active := false } : Warp) ∈ t.allWarps))
  ∧ (∀ s : State, s.saveDue s.g = true → s.g.windows = [] → (∀ x ∈ s.warpsOf s.g.serial, x.res = none) →
    (s.g.savedByForce = true ∧ Config.imageFails s.freeCount = true → Says.answers (.workgroupSave s.g.serial) s (fun t =>
      t.g.place = .complete ∧ t.g.status = max s.g.status 3 ∧ t.w.present = false ∧ ∀ w ∈ t.warps, w.wg ≠ s.g.serial))
    ∧ (s.g.savedByForce = false ∨ Config.imageFails s.freeCount = false → Says.answers (.workgroupSave s.g.serial) s (fun t =>
      t.g.place = .saved ∧ t.g.saveCause = s.g.causeOfSave ∧ t.g.pad = s.g.pad ∧ t.g.acc = s.g.acc ∧ t.g.ipurse = s.g.ipurse ∧ t.g.mpurse = s.g.mpurse
      ∧ (s.w.present = true → s.w.wg = s.g.serial → t.w.active = false ∧ t.w.lpc = s.w.lpc ∧ ∀ k, t.w.readKey k = Says.installed s k))))
  ∧ (∀ (s : State) (core : Nat), (s.headOf s.g.queue).map (fun h => h.serial) = some s.g.serial → s.g.place = .unstarted →
    s.roomOn core s.g 0 = true →
    Says.answers (.workgroupPlace s.g.serial core) s (fun t => t.g.place = .running ∧ t.g.core = core ∧ t.g.ipurse = s.g.ipurse ∧ t.g.mpurse = s.g.mpurse
      ∧ ∀ wid, wid < warpsFor s.g.size → ∃ w, w ∈ t.warps ∧ w.present = true ∧ w.wg = s.g.serial ∧ w.wid = wid ∧ w.cl = none ∧ w.vregs = [] ∧ w.preds = []
        ∧ w.wident = BitVec.ofNat 32 (256 * wid + wid) ∧ w.aflags = 0#32 ∧ w.amask = 0#32
        ∧ (∀ l, l < 32 → w.lpcOf l = if 32 * wid + l < s.g.size then 0#32 else lpcExited)
        ∧ (∀ l, l < 32 → 32 * wid + l < s.g.size → FMap.get w.tids 0 l = 32 * wid + l)
        ∧ FMap.get w.kregs 0#32 0 = loWord s.g.arg ∧ FMap.get w.kregs 0#32 1 = hiWord s.g.arg ∧ ∀ n, 1 < n → FMap.get w.kregs 0#32 n = 0#32))
  ∧ (∀ (s : State) (core : Nat), (s.headOf s.g.queue).map (fun h => h.serial) = some s.g.serial → s.g.place = .saved →
    s.endsBudget s.g = false → s.roomOn core s.g 0 = true → s.g.saveCause ≠ .exhaustion →
    (∀ x ∈ s.warpsOf s.g.serial, ∀ a k c v sc d n, x.wait ≠ .word a k c v sc d n) →
    Says.answers (.workgroupPlace s.g.serial core) s (fun t => t.g.place = .running ∧ t.g.core = core ∧ t.g.pad = s.g.pad ∧ t.g.forced = false
      ∧ t.g.resting = false ∧ t.g.latch = false ∧ t.g.acc = s.g.acc ∧ t.g.rings = s.g.rings ∧ t.g.bars = s.g.bars ∧ t.g.macros = s.g.macros
      ∧ t.g.mx = s.g.mx ∧ t.g.porter = s.g.porter ∧ t.g.spawn = s.g.spawn ∧ t.g.rest = s.g.rest ∧ t.g.tvec = s.g.tvec
      ∧ (∀ x ∈ s.warpsOf s.g.serial, x.present = true → ∃ y, y ∈ t.allWarps ∧ y.present = true ∧ y.wg = x.wg ∧ y.wid = x.wid ∧ y.lpc = x.lpc
          ∧ y.vregs = x.vregs ∧ y.kregs = x.kregs ∧ y.preds = x.preds ∧ y.outs = x.outs ∧ y.tids = x.tids ∧ y.wident = x.wident
          ∧ y.aflags = x.aflags ∧ y.amask = x.amask ∧ y.tb = x.tb ∧ y.clockHi = x.clockHi ∧ y.res = x.res
          ∧ (∀ c, y.cl = some c → ∃ d, x.cl = some d ∧ c.base = d.base ∧ c.idx = d.idx ∧ c.exec = d.exec ∧ c.targets = d.targets))
      ∧ (∀ i m, s.g.saveCause = .displaced → s.g.heldPurses = some (i, m) → t.g.ipurse = i ∧ t.g.mpurse = m)
      ∧ (s.g.saveCause ≠ .displaced → t.g.ipurse = s.g.ipurse ∧ t.g.mpurse = s.g.mpurse)))
  ∧ (∀ s : State, s.completeDue s.g = true → s.g.windows = [] → Says.answers (.workgroupComplete s.g.serial) s (fun t =>
      t.g.place = .complete ∧ t.g.status = s.g.status ∧ (∀ w ∈ t.warps, w.wg ≠ s.g.serial) ∧ t.w.present = false
      ∧ ∀ gr ∈ s.grids, gr.id = s.g.grid → ∃ h ∈ t.grids, h.id = gr.id ∧ h.done = gr.done + 1 ∧ h.status = max gr.status s.g.status))
  ∧ (∀ x : Warp, let r := Image.warpRecord x
    r.length = 6656
    ∧ (∀ n l, n < 48 → l < 32 → field r (128 * n + 4 * l) 4 = (FMap.get x.vregs 0#32 (vkey n l)).toNat)
    ∧ (∀ l, l < 32 → field r (0x1800 + 4 * l) 4 = (x.lpcOf l).toNat) ∧ (∀ n, n < 12 → field r (0x1880 + 4 * n) 4 = (FMap.get x.kregs 0#32 n).toNat)
    ∧ (∀ n l, 0 < n → n < 8 → l < 32 → (field r (0x18B0 + 4 * (n - 1)) 4).testBit l = x.pred n l)
    ∧ field r 0x18CC 4 = x.aflags.toNat ∧ field r 0x18D0 4 = x.amask.toNat ∧ field r 0x18D4 4 = x.wident.toNat)

/-! ## The homes -/

/-- R157, R245, R249, R251, R256: a request served where nobody holds its grain. WTR and SI answer the bytes of memory, WI makes the requester a
tracked sharer, OWN its owner at a new version with its store written into the line, WTW writes its bytes, AT answers the old value and
leaves the new one, ACC makes the requester a holder of a partial. POISON and a refused scope are answered as failures, and nothing is
written. -/
def Obligations.HomeServesRequestsOnUnheldGrains : Prop :=
  ∀ (s : State) (r : Req), Says.ready s r → (s.entry r.base).st = 0 →
    let bad := ∃ i, i < r.len ∧ s.poisoned (r.key + i) = true
    let answered := fun (t : State) (rep : Reply) => Instr.memoryReply r.id rep ∈ t.events
    let filled := fun (t : State) (g : Grant) => ∃ cells ver, answered t (.fill cells g ver)
      ∧ ∀ i, i < r.len → FMap.find cells (r.key + i) = some (s.memByte (r.key + i))
    let here := ∃ core, r.who = .core Config.pkgid core
    (r.kind = .wtr → r.op ≠ 14 → ¬bad → Says.answers (.wtr r.id) s (fun t => filled t .none ∧ Says.sameMem s t))
    ∧ (r.kind = .si → r.op ≠ 14 → ¬bad → Says.answers (.si r.id) s (fun t => filled t .untracked ∧ Says.sameMem s t
        ∧ (here → ∃ l, t.lineOf r.who r.base = some l ∧ l.st = .s)))
    ∧ (r.kind = .wi → r.op ≠ 14 → ¬bad → Says.answers (.wi r.id) s (fun t => filled t .tracked ∧ Says.sameMem s t ∧ (t.entry r.base).st = 1
        ∧ (here → r.who ∈ t.trackedBy r.base (t.entry r.base) ∧ ∃ l, t.lineOf r.who r.base = some l ∧ l.st = .t)))
    ∧ (r.kind = .own → r.op ≠ 14 → ¬bad → Says.answers (.own r.id) s (fun t => filled t .owned ∧ Says.sameMem s t ∧ (t.entry r.base).st = 2
        ∧ (t.entry r.base).owner = some r.who ∧ (t.entry r.base).ver = (s.entry r.base).ver + 1))
    ∧ (r.kind = .own → r.op = 14 → here → (∀ c ∈ r.cells, s.poisoned c.1 = false) → Says.oneEach r.cells →
        Says.answers (.own r.id) s (fun t => answered t .ack ∧ Says.sameMem s t ∧ (t.entry r.base).owner = some r.who
          ∧ ∃ l, t.lineOf r.who r.base = some l ∧ l.st = .x ∧ ∀ c ∈ r.cells, FMap.find l.cells c.1 = some c.2 ∧ c.1 ∈ l.dirty))
    ∧ (r.kind = .wtw → (∀ c ∈ r.cells, s.poisoned c.1 = false) →
        Says.answers (.wtw r.id) s (fun t => answered t .ack ∧ Says.stored s t r.cells))
    ∧ (r.kind = .atomic → r.op ≠ 14 → ¬bad →
        let old := Says.memNat s r.key r.len
        let new := if 64 ≤ r.op then accAdd (r.op - 64) old r.operand else if 32 ≤ r.op then redOp (r.op - 32) old r.operand
          else if r.op = 15 then (if old = r.operand % 2 ^ (8 * r.len) then r.newval else old) else atomicOp r.op (r.len == 8) old r.operand
        Says.answers (.atHome r.id) s (fun t => answered t (if r.ret = true then .value (BitVec.ofNat 64 old) else .ack)
          ∧ Says.memNat t r.key r.len = new % 2 ^ (8 * r.len)
          ∧ ∀ k, (k < r.key ∨ r.key + r.len ≤ k) → (∀ i, i < r.len → Says.oneCipher (r.key + i) k) → t.memByte k = s.memByte k))
    ∧ (r.kind = .acc → r.op ≠ 14 → ¬bad → Says.answers (.acc r.id) s (fun t => answered t .ack ∧ Says.sameMem s t ∧ (t.entry r.base).st = 3
        ∧ (t.entry r.base).aop = (if r.len = 8 then 16 else 0) + r.op
        ∧ (here → s.lineOf r.who r.base = none → ∃ l, t.lineOf r.who r.base = some l ∧ l.st = .p
            ∧ FMap.find l.words r.key = some (atomicOp r.op (r.len == 8) (atomicIdentity r.op (r.len == 8)) r.operand))))
    ∧ (bad → r.op ≠ 14 → ∀ i, (i, r.kind) ∈ [(Instr.wtr r.id, ReqKind.wtr), (.si r.id, .si), (.wi r.id, .wi), (.own r.id, .own), (.atHome r.id, .atomic),
        (.acc r.id, .acc)] → Says.answers i s (fun t => answered t (.failed .poison) ∧ Says.sameMem s t))

/-- R235, R236, R248 to R250, R328: a request that the scope check refuses is answered SCOPE_MISMATCH; one that needs a grain that others hold puts the grain in
its transient state and asks them, sharers to invalidate, an owner to give its bytes; a package that has no forward-buffer entry left is
asked when one is free (R328); one behind a transient waits. Memory is unchanged. -/
def Obligations.HomeAsksTheHolders : Prop :=
  ∀ (s : State) (r : Req) (i : Instr),
    (i, r.kind) ∈ [(Instr.wtr r.id, ReqKind.wtr), (.si r.id, .si), (.wi r.id, .wi), (.own r.id, .own), (.wtw r.id, .wtw), (.atHome r.id, .atomic),
      (.acc r.id, .acc)] →
    s.findReq r.id = some r → s.stale r.who r.inc = false → (∃ w out parts lns, r.dest = .warp w out parts lns) →
    (∀ p ∈ s.fab.dir, overlap p.1 p.2.size r.base r.grain = true → p.2.size = r.grain) →
    let e := s.entry r.base
    let takes := r.kind = .own ∨ r.kind = .wtw ∨ r.kind = .atomic ∨ r.kind = .acc
    let quiet := ∀ q ∈ s.fab.trans, overlap q.grain (s.entry q.grain).size r.base r.grain = false
    let check := scopeCheck { e with size := r.grain } r false
    let far := fun (t : State) (n : Nat) (p : Party) (m : OutMsg) => ownParty p = false → s.routed p.pkg = true →
      (p.pkg = domCommon ∨ FMap.get s.host.forwards 0 p.pkg + n ≤ 4 → m ∈ t.outbox)
      ∧ (p.pkg ≠ domCommon → 4 ≤ FMap.get s.host.forwards 0 p.pkg → (p.pkg, m) ∈ t.host.forwardWait)
    let waits := fun (t : State) (of : List Party) => ∃ q, q ∈ t.fab.trans ∧ q.grain = r.base ∧ q.head = r.id ∧ q.await = of ∧ q.was = e.st
    (∀ q, s.fab.trans = [q] → overlap q.grain (s.entry q.grain).size r.base r.grain = true →
      Says.answers i s (fun t => Says.sameMem s t ∧ t.fab.trans = [{ q with waiting := q.waiting ++ [r.id] }]))
    ∧ (quiet → check = .refuse → Says.answers i s (fun t => Instr.memoryReply r.id (.failed .scopeMismatch) ∈ t.events ∧ Says.sameMem s t))
    ∧ (quiet → check = .accept → e.st = 1 → takes →
      let of := (s.trackedBy r.base e).filter (fun p => r.kind != .own || p != r.who)
      of ≠ [] → Says.answers i s (fun t => waits t of ∧ (t.entry r.base).st = 4 ∧ Says.sameMem s t
        ∧ ∀ p ∈ of, (ownParty p = true → Instr.invalidation r.base p ∈ t.events)
            ∧ far t of.length p (.invalidate r.base p s.ownInc)))
    ∧ (∀ o, quiet → check = .accept → e.st = 2 → e.owner = some o → (takes ∨ r.kind = .wi) →
      Says.answers i s (fun t => waits t [o] ∧ (t.entry r.base).st = 5 ∧ Says.sameMem s t
        ∧ (ownParty o = true → Instr.recallHeld r.base o (decide (r.kind = .wi)) ∈ t.events)
        ∧ far t 1 o (.recallHeld r.base o (decide (r.kind = .wi)) s.ownInc)))

/-- R243, R244, R246, R247, R250, R252, R253, R255: answers at the home, and what the agents do when they are asked or evict. The last
acknowledgement lets the head request complete; a recalled owner's bytes are merged and its grain passes on; a write-back is accepted
from the owner at its version, and else cancelled; a partial is combined with memory. A message of a stale incarnation is dropped and
counted. A timeout reports the agents that have not answered. -/
def Obligations.AnswersAndEvictionsMoveGrains : Prop :=
  (∀ (s : State) (g : Nat) (p : Party) (inc : Byte), s.stale p inc = true → ∀ i, (i = .invalidationAcknowledgement g p inc
      ∨ (∃ h bs, i = .recallAnswer g p h bs inc) ∨ (∃ v bs, i = .writeBack g p v bs inc) ∨ (∃ ws, i = .partialReturn g p ws inc)
      ∨ i = .cleanEvictionNotice g p inc) →
    exec i s = .next (s.count 8))
  ∧ (∀ (s : State) (p : Party) (inc : Byte) (r : Req) (q : Transient), s.stale p inc = false → s.findReq r.id = some r → r.len ≠ 0 →
    (∃ w out parts lns, r.dest = .warp w out parts lns) → s.fab.trans = [q] → q.grain = r.base → q.head = r.id → q.await = [p] → q.waiting = [] →
    q.mode = 0 →
    ((s.entry r.base).st = 4 → q.was = 1 → r.kind = .wtw → (∀ c ∈ r.cells, s.poisoned c.1 = false ∧ Says.unbuffered s c.1 1) →
      (∀ c ∈ r.cells, ∀ l ∈ s.fab.lines, l.grain ≤ c.1 → c.1 < l.grain + l.size → l.st = .s) →
      Says.answers (.invalidationAcknowledgement r.base p inc) s (fun t => Instr.memoryReply r.id .ack ∈ t.events ∧ Says.stored s t r.cells
        ∧ (t.entry r.base).st = 0 ∧ t.fab.trans = []))
    ∧ (∀ bytes, (s.entry r.base).st = 5 → q.was = 2 → r.kind = .own → Says.answers (.recallAnswer r.base p true bytes inc) s (fun t =>
      Says.stored s t bytes ∧ (t.entry r.base).st = 2 ∧ (t.entry r.base).owner = some r.who ∧ t.fab.trans = [])))
  ∧ (∀ (s : State) (g : Nat) (p : Party) (ver inc : Byte) (bytes : List Host.Cell), s.stale p inc = false →
    let e := s.entry g
    (e.st = 2 → e.owner = some p → e.ver = ver → Says.answers (.writeBack g p ver bytes inc) s (fun t => Says.stored s t bytes ∧ (t.entry g).st = 0
      ∧ (t.entry g).owner = none ∧ (ownParty p = true → ∀ b ∈ t.fab.wbuf, ¬(b.who = p ∧ b.grain = g))))
    ∧ (¬((e.st = 2 ∨ e.st = 5) ∧ e.owner = some p ∧ e.ver = ver) → ownParty p = true →
      exec (.writeBack g p ver bytes inc) s = .next (s.push (.cancelled g p))))
  ∧ (∀ (s : State) (g : Nat) (p : Party) (inc : Byte) (words : List (Nat × Nat)), s.stale p inc = false →
    let e := s.entry g
    let n := if 16 ≤ e.aop then 8 else 4
    (e.st = 3 → s.holder g p = true → (∀ u ∈ words, ∀ v ∈ words, u.1 = v.1 → u = v) →
      Says.answers (.partialReturn g p words inc) s (fun t => ∀ i, i < e.size / n →
        Says.memNat t (g + n * i) n = match FMap.find words (g + n * i) with
          | some v => atomicOp (e.aop % 16) (decide (16 ≤ e.aop)) (Says.memNat s (g + n * i) n) v % 2 ^ (8 * n)
          | none => Says.memNat s (g + n * i) n))
    ∧ (e.st ≠ 3 → e.st ≠ 6 → ownParty p = true → exec (.partialReturn g p words inc) s = .next (s.push (.cancelled g p)))
    ∧ (∀ c, e.st = 1 → p = .core Config.pkgid c → (∀ l, s.lineOf p g = some l → l.st = .s ∨ l.st = .p) → Says.answers (.cleanEvictionNotice g p inc) s (fun t => Says.sameMem s t
      ∧ ∀ d ∈ t.fab.tdirs, d.grain = g → d.core = c → d.l1 = false)))
  ∧ (∀ (s : State) (g core : Nat), s.askInc g = s.ownInc → (homePkg g = Config.pkgid ∨ s.routed (homePkg g) = true) → let who := l1Of core
    (∀ l, s.lineOf who g = some l →
      (l.st = .t → Says.answers (.invalidation g who) s (fun t => t.lineOf who g = none ∧ Says.sameMem s t
          ∧ Instr.invalidationAcknowledgement g who s.ownInc ∈ t.events)
        ∧ Says.answers (.coreEviction core g) s (fun t => t.lineOf who g = none ∧ Instr.cleanEvictionNotice g who s.ownInc ∈ t.events))
      ∧ (l.st = .x → Says.answers (.recallHeld g who false) s (fun t => t.lineOf who g = none ∧ Says.sameMem s t
          ∧ Instr.recallAnswer g who true (l.cells.filter (fun c => l.dirty.contains c.1)) s.ownInc ∈ t.events)
        ∧ Says.answers (.recallHeld g who true) s (fun t => (∃ m, t.lineOf who g = some m ∧ m.st = .t ∧ m.dirty = [])
          ∧ Instr.recallAnswer g who true (l.cells.filter (fun c => l.dirty.contains c.1)) s.ownInc ∈ t.events)
        ∧ Says.answers (.coreEviction core g) s (fun t => t.lineOf who g = none ∧ Says.sameMem s t
          ∧ Instr.writeBack g who l.ver (l.cells.filter (fun c => l.dirty.contains c.1)) s.ownInc ∈ t.events))
      ∧ (l.st = .p → Says.answers (.recallHeld g who false) s (fun t => t.lineOf who g = none ∧ Instr.partialReturn g who l.words s.ownInc ∈ t.events))
      ∧ (l.st = .s → Says.answers (.coreEviction core g) s (fun t => t.lineOf who g = none ∧ t.events = s.events)))
    ∧ (s.lineOf who g = none → exec (.invalidation g who) s = .next (s.pushHome g (.invalidationAcknowledgement g who s.ownInc))
        ∧ Says.answers (.invalidation g who) s (fun t => Instr.invalidationAcknowledgement g who s.ownInc ∈ t.events ∧ Says.sameMem s t))
    ∧ Says.answers (.cancelled g who) s (fun t => ∀ b ∈ t.fab.wbuf, ¬(b.who = who ∧ b.grain = g)))
  ∧ (∀ (s : State) (tile g : Nat), (s.entry g).st = 1 → (homePkg g = Config.pkgid ∨ s.routed (homePkg g) = true) → Says.answers (.tileDirectoryEviction tile g) s (fun t =>
      ∀ d ∈ s.fab.tdirs, d.grain = g → d.core / 256 = tile → d.l1 = true →
        t.lineOf (l1Of d.core) g = none ∧ Instr.cleanEvictionNotice g (l1Of d.core) s.ownInc ∈ t.events))
  ∧ (∀ (s : State) (g : Nat) (q : Transient), s.fab.trans.find? (fun u => u.grain == g) = some q → s.host.fqBuffer.length + q.await.length ≤ 256 →
    Says.answers (.recallTimeout g) s (fun t => t.host.fqBuffer.length = s.host.fqBuffer.length + q.await.length ∧ t.fab = s.fab
      ∧ ∀ bs ∈ t.host.fqBuffer.drop s.host.fqBuffer.length, field bs 0 4 / 2 ^ 28 = 5 ∧ field bs 0 4 / 2 ^ 20 % 256 = 0x50))

/-! ## The Caravan and the reduce apertures -/

/-- R257 to R263, R266, R267, R269, R340: a request that finds no earlier one for its bytes joins its stage's queue and leaves for the next; one that
may merge is combined with the last earlier one into a request that answers to a new waybill; one for a peer's memory goes to the peer,
or fails when the peer is dead. A reply to a waybill is split: the first constituent gets it, the second the value after the first. A
SPLIT answer puts both back, reissued; a timeout fails both and quarantines the waybill. -/
def Obligations.CaravanMergesAndSplits : Prop :=
  (∀ (s : State) (r : Req) (stage : Nat), s.findReq r.id = some r → (stage = 3 → peerOfKey r.key = none) →
    let earlier := s.fab.reqs.filter (fun q => q.stage == stage && q.id != r.id && sameQueue stage q r)
    let onward : Instr := if stage = 1 then .waystationArrival 2 r.id
      else if stage = 2 ∧ regionOf (keyPa r.key) ≠ 5 then .waystationArrival 3 r.id
      else homeEvent r.kind r.id
    let wideAt := fun (q : Req) => if stage = 1 then 2 ≤ r.scope else if stage = 2 then 3 ≤ r.scope else max 2 (spanOf q.unit r.unit) ≤ r.scope
    (earlier = [] → Says.answers (.waystationArrival stage r.id) s (fun t => ({ r with stage := stage } : Req) ∈ t.fab.reqs ∧ onward ∈ t.events
      ∧ Says.sameMem s t ∧ t.fab.waybills = s.fab.waybills))
    ∧ (∀ q b, earlier.getLast? = some q → q.key = r.key → q.len = r.len → q.keyid = r.keyid → q.scope = r.scope → q.mergeKind.isSome = true →
      q.mergeKind = r.mergeKind → (q.schk = false ∧ r.schk = false
        ∨ q.schk = r.schk ∧ q.off = r.off ∧ q.checked = r.checked ∧ (r.off = true ∨ wideAt q)) → s.freeWaybill r stage = some b →
      Says.answers (.waystationArrival stage r.id) s (fun t => Says.sameMem s t
        ∧ (∃ m, m ∈ t.fab.reqs ∧ m.dest = .waybill b ∧ m.key = q.key ∧ m.len = q.len ∧ m.ret = (q.ret || r.ret) ∧ m.cells = r.cells ∧ m.unit = r.unit
            ∧ (q.op ≤ 11 → m.operand = atomicOp q.op (q.len == 8) q.operand r.operand))
        ∧ ∃ w, w ∈ t.fab.waybills ∧ w.ticket = b ∧ w.first = q ∧ w.second = r ∧ w.ret1 = q.ret ∧ w.ret2 = r.ret ∧ w.quarantined = false)))
  ∧ (∀ (s : State) (r : Req) (p : Nat), s.findReq r.id = some r → (∃ w out parts lns, r.dest = .warp w out parts lns) → peerOfKey r.key = some p →
    let e := (FMap.get s.host.peers 0#64 p).toNat
    let dead := e.testBit 63 = false ∨ e.testBit 61 = true ∨ bitsNat e 11 10 = 0
    (dead → Says.answers (.waystationArrival 3 r.id) s (fun t => Instr.memoryReply r.id (.failed .remoteFailed) ∈ t.events ∧ Says.sameMem s t))
    ∧ (¬dead → Says.answers (.waystationArrival 3 r.id) s (fun t => homeEvent r.kind r.id ∈ t.events
        ∧ r.id ∈ FMap.get t.host.peerReqs [] p ∧ Says.sameMem s t)))
  ∧ (∀ (s : State) (b : Waybill), s.findWaybill b.ticket = some b → b.quarantined = false →
    (∀ r, (r = b.first ∨ r = b.second) → ∃ w out parts lns, r.dest = .warp w out parts lns) →
    let gone := fun (t : State) => Says.sameMem s t ∧ ∀ w ∈ t.fab.waybills, w.ticket ≠ b.ticket
    (∀ v, Says.answers (.replySplit b.ticket (.value v)) s (fun t => gone t
      ∧ Instr.memoryReply b.first.id (if b.ret1 = true then .value v else .ack) ∈ t.events
      ∧ Instr.memoryReply b.second.id (if b.ret2 = true then .value (if b.opf ≤ 11 then BitVec.ofNat 64 (atomicOp b.opf b.w v.toNat b.opnd1)
          else v) else .ack) ∈ t.events))
    ∧ (∀ c, Says.answers (.replySplit b.ticket (.failed c)) s (fun t => gone t
      ∧ Instr.memoryReply b.first.id (.failed c) ∈ t.events ∧ Instr.memoryReply b.second.id (.failed c) ∈ t.events))
    ∧ Says.answers (.split b.ticket) s (fun t => gone t ∧ ∀ r, (r = b.first ∨ r = b.second) →
        ({ r with stage := b.ticket.kind.toNat, reissued := true } : Req) ∈ t.fab.reqs)
    ∧ Says.answers (.waybillTimeout b.ticket) s (fun t => Says.sameMem s t ∧ (∃ w, w ∈ t.fab.waybills ∧ w.ticket = b.ticket ∧ w.quarantined = true)
      ∧ Instr.memoryReply b.first.id (.failed .remoteFailed) ∈ t.events ∧ Instr.memoryReply b.second.id (.failed .remoteFailed) ∈ t.events))
  ∧ (∀ (s : State) (r : Req) (o : Out) (parts : List Part) (lns : LaneMask), s.w.present = true → s.findReq r.id = some r →
    r.dest = .warp s.warpId o.id parts lns → s.w.outs.find? (fun x => x.id == o.id) = some o → o.hasDest = true → o.fail = none →
    Says.answers (.remoteReplyTimeout r.id) s (fun t => (∀ q ∈ t.fab.reqs, q.id ≠ r.id)
      ∧ ∃ x, x ∈ t.w.outs ∧ x.id = o.id ∧ x.waiting = o.waiting - 1 ∧ x.fail = some { cause := .remoteFailed, lanes := lns, addr := r.vaddr }))

/-- R270 to R274, R281: a line load of a group that accepts it takes a slot and starts its members' reads; a member whose tag is the load's
round has its data read next, each element as it was at the tag's read or as it is now, and is folded into the slot's values; the last one
answers the load, and another tag is read again. A timeout writes the status record and frees the
slot; unless the group tolerates it, the load fails with APERTURE_INCOMPLETE. -/
def Obligations.ReduceAperturesCollectTheirMembers : Prop :=
  (∀ (s : State) (a : ApLoad) (g : Group), s.fab.apLoads.find? (fun b => b.id == a.id) = some a → s.fab.slots.length < 64 →
    FMap.find s.fab.groups a.group = some g → s.groupOk a.group (if a.user = true then 0 else 1) = true →
    Says.answers (.apertureLoad a.id) s (fun t => Says.sameMem s t ∧ ∃ x, x ∈ t.fab.slots ∧ x.req = a.id ∧ x.group = a.group ∧ x.round = a.round
      ∧ x.off = a.off ∧ x.accepted = [] ∧ x.failed = [] ∧ x.vals = List.replicate 30 (redIdentity (entryOp g.bytes))
      ∧ ∀ m, m < x.members.length → Instr.memberReadReply x.id m ∈ t.events))
  ∧ (∀ (s : State) (x : Slot) (m : Nat) (g : Group), s.findSlot x.id = some x → m ∉ x.accepted → m ∉ x.failed →
    FMap.find s.fab.groups x.group = some g → entryGen g.bytes = entryGen x.entry →
    let each := fun (old new bs : List Byte) => ∀ k, k < 30 →
      field bs (4 * k) 4 = field new (4 * k) 4 ∨ field bs (4 * k) 4 = field old (4 * k) 4
    -- the member's read stands under a number of its own
    let s1 : State := { s with acting := x.reader m }
    (∀ tag, FMap.find x.tagged m = none → s1.readMember x m 120 8 = .bytes tag → leNat tag ≠ x.round →
      exec (.memberReadReply x.id m) s = .next (s1.push (.memberReread x.id m)))
    ∧ (∀ tag k, FMap.find x.tagged m = none → s1.readMember x m 120 8 = .bytes tag → leNat tag = x.round → s.memberKey x m 0 = some k →
      Says.answers (.memberReadReply x.id m) s (fun t => Says.sameMem s t ∧ Instr.memberReadReply x.id m ∈ t.events
        ∧ ∃ y, y ∈ t.fab.slots ∧ y.id = x.id ∧ y.accepted = x.accepted ∧ y.vals = x.vals ∧ FMap.find y.tagged m = some (s.coherent k 120)))
    ∧ (∀ old new, FMap.find x.tagged m = some old → new.length = 120 → s1.readMember x m 0 120 = .bytes new → x.accepted.length + 1 < x.members.length →
      Says.answers (.memberReadReply x.id m) s (fun t => Says.sameMem s t ∧ ∃ y, y ∈ t.fab.slots ∧ y.id = x.id
        ∧ (∀ k, k ∈ y.accepted ↔ k = m ∨ k ∈ x.accepted)
        ∧ ∃ bs, each old new bs ∧ y.vals = x.vals.zipIdx.map (fun v => redOp (entryOp x.entry) v.1 (field bs (4 * v.2) 4))))
    ∧ (∀ old new a o, FMap.find x.tagged m = some old → new.length = 120 → s1.readMember x m 0 120 = .bytes new → x.accepted.length + 1 = x.members.length →
      s.slotLoad x = some a → s.w.present = true → a.warp = s.warpId → s.g.serial = s.w.wg → s.w.outs.find? (fun z => z.id == a.out) = some o → o.hasDest = true →
      Says.answers (.memberReadReply x.id m) s (fun t => (∀ y ∈ t.fab.slots, y.id ≠ x.id) ∧ ∃ bs, each old new bs
        ∧ ∃ z, z ∈ t.w.outs ∧ z.id = a.out ∧ z.waiting = o.waiting - 1 ∧ z.vals = o.vals ++ a.parts.map (fun p => (p.key, p.value (x.accept m bs).line)))))
  ∧ (∀ (s : State) (x : Slot) (m : Nat), s.findSlot x.id = some x →
    exec (.memberReread x.id m) s = .next (s.push (.memberReadReply x.id m)))
  ∧ (∀ (s u : State) (x : Slot) (a : ApLoad) (g : Group) (o : Out) (k : Nat), s.findSlot x.id = some x → s.slotLoad x = some a →
    FMap.find s.fab.groups x.group = some g → physKey (BitVec.ofNat 64 (field x.entry 8 8)) = some k →
    s.homePut pkgParty x.id (cellsAt k (x.status a ((g.incomplete + 1) % 2 ^ 32))) = .ok u →
    s.w.present = true → a.warp = s.warpId → s.g.serial = s.w.wg → s.w.outs.find? (fun z => z.id == a.out) = some o → o.hasDest = true →
    o.fail = none →
    Says.answers (.slotTimeout x.id) s (fun t => Says.sameMem u t ∧ (∀ y ∈ t.fab.slots, y.id ≠ x.id)
      ∧ ∃ z, z ∈ t.w.outs ∧ z.id = a.out ∧ z.waiting = o.waiting - 1
        ∧ z.fail = if bitNat (field x.entry 0 4) 30 = true then none
            else some { cause := .apertureIncomplete, lanes := a.lanes, addr := a.vaddr }))

/-! ## The fabric -/

/-- R326, R330 to R335: on a link that is up a flit with a bad CRC is discarded and answered by a NAK for the first flit of its group; of the others
one out of order is ignored, one in order joins its group, unless its position or key slot is wrong, which is a NAK too. The fifth, when
the tag verifies, has the group acknowledged and its messages for this package taken out; in containment mode nothing goes on before. A
message that a hop forwarded early is taken out when that hop's verdict says that it verified there, and goes when it says not.
Acknowledged flits are forgotten; a NAK replays from its flit, and the ninth of one flit takes the link down; a group left open is filled with
null flits, ahead of what waits; a rotation clears the old slot at both ends. The first marker of a sweep begins it here, with what is
quarantined now, and places markers on every channel and at the ejection point; a marker of the round that others have not sent yet is kept;
the last one of round 4 ends the sweep here. Once it has ended at every package the quarantines it covered are over. The words of a tag's
initialisation vector are the model's choice (log 10), and so are the messages that payloads carry (log 36). -/
def Obligations.LinksDeliverVerifiedGroups : Prop :=
  (∀ (s : State) (port : Nat) (f : Flit), let l := s.link port
    let slot := match l.group with | g :: _ => g.kslot | [] => f.kslot
    let skid := if l.group.isEmpty then l.skid else l.groupSkid
    let sound := f.payload.length = 120 ∧ f.crc = flitCrc f
    let group := l.group ++ [f]
    let tag := leNat ((f.payload.drop 108).take 12)
    let rejected := Says.answers (.flitReceive port f) s (fun t =>
        (t.link port).group = [] ∧ (t.link port).expSeq = l.expSeq - BitVec.ofNat 8 l.group.length
        ∧ OutMsg.nak port (l.expSeq - BitVec.ofNat 8 l.group.length) ∈ t.outbox ∧ Says.sameMem s t)
    (l.up = false → exec (.flitReceive port f) s = .next s)
    ∧ (l.up = true → ¬sound → rejected)
    ∧ (l.up = true → sound → f.seq ≠ l.expSeq.toNat → exec (.flitReceive port f) s = .next s)
    ∧ (l.up = true → sound → f.seq = l.expSeq.toNat → (f.gpos ≠ l.group.length ∨ l.rx.use slot = none) → rejected)
    ∧ (∀ key salt counter, l.up = true → sound → f.seq = l.expSeq.toNat → f.gpos = l.group.length → l.rx.use slot = some (key, salt, counter) →
      let g := cipherFlit key salt counter l.group.length f
      let way := g.src * 2 ^ 8 + g.cls * 2 ^ 6 + g.bits 10 5
      let texts := FMap.get s.host.ejected [] way ++ [g.payload]
      (l.group.length < 4 → Says.answers (.flitReceive port f) s (fun t => (t.link port).group = group ∧ (t.link port).expSeq = l.expSeq + 1
        ∧ Says.sameMem s t ∧ t.events = s.events
        ∧ (skid = false → t.outbox = s.outbox ∧ ∃ k, (t.link port).held = l.held ++ [k] ∧ k.flit = g ∧ k.own = none ∧ k.out = none)
        ∧ (skid = true → g.ends = false → ∃ k, (t.link port).held = l.held ++ [k] ∧ k.flit = g ∧ k.own = none ∧ k.early = true ∧ k.out.isSome = true)))
      ∧ (l.group.length = 4 → tag = (groupTag key salt counter group).toNat → Says.answers (.flitReceive port f) s (fun t => (t.link port).group = []
        ∧ OutMsg.ack port l.expSeq ∈ t.outbox
        ∧ (l.held = [] → bitNat (s.route g.src) 63 = true → bitNat (s.route g.src) 62 = true → s.route g.src % 32 = port → g.dst = Config.pkgid → g.cls ≠ 3 →
            (bitNat g.header.toNat 3 = true → ∀ e ∈ Config.carried texts, msgClass e = some g.cls → e ∈ t.events)
            ∧ (bitNat g.header.toNat 3 = false → FMap.get t.host.ejected [] way = texts ∧ t.events = s.events))))
      ∧ (l.group.length = 4 → tag ≠ (groupTag key salt counter group).toNat → Says.answers (.flitReceive port f) s (fun t => (t.link port).group = []
        ∧ OutMsg.nak port (l.expSeq - 4#8) ∈ t.outbox ∧ Says.sameMem s t))))
  ∧ (∀ (s : State) (port : Nat) (seq : Byte) (xs rest : List (Flit × Flit)) (y : Flit × Flit), let l := s.link port
    l.unacked = xs ++ y :: rest → (∀ x ∈ xs, x.1.seq ≠ seq.toNat) → y.1.seq = seq.toNat →
    (l.outq = [] → Says.answers (.flitAcknowledgement port seq) s (fun t => (t.link port).unacked = rest ∧ (t.link port).replays = 0 ∧ Says.sameMem s t))
    ∧ (l.replays < 8 → Says.answers (.nak port seq) s (fun t => t.outbox = s.outbox ++ (y :: rest).map (fun p => OutMsg.flit port p.1)
        ∧ (t.link port).replays = l.replays + 1 ∧ (t.link port).unacked = l.unacked))
    ∧ (8 ≤ l.replays → s.host.fqBuffer.length < 256 → Says.answers (.nak port seq) s (fun t => (t.link port).up = false
        ∧ ∃ bs, bs ∈ t.host.fqBuffer ∧ field bs 0 4 / 2 ^ 28 = 5 ∧ field bs 0 4 / 2 ^ 20 % 256 = 0x54)))
  ∧ (∀ (s : State) (port : Nat), let l := s.link port
    let slot := match l.openGroup with | g :: _ => g.kslot | [] => l.tx.active
    let n := 5 - l.openGroup.length
    l.up = true → l.openGroup ≠ [] → l.openGroup.length < 5 → l.unacked.length + 5 ≤ 128 → (l.tx.use slot).isSome = true →
    Says.answers (.groupFillTimeout port) s (fun t => Says.sameMem s t
      ∧ (∃ xs ys, (t.link port).unacked = l.unacked ++ xs ++ ys ∧ xs.length = n ∧ ∀ x ∈ xs, x.2.cls = 3)
      ∧ (l.outq = [] → (t.link port).openGroup = [] ∧ t.outbox.length = s.outbox.length + n)))
  ∧ (∀ (s : State) (port : Nat) (k : Skid), (s.link port).held = [k] → k.need = 1 → k.own = some true → k.out = none → k.flit.ends = true →
    k.flit.cls ≠ 3 → bitNat k.flit.header.toNat 3 = true →
    let texts := FMap.get s.host.ejected [] (k.flit.src * 2 ^ 8 + k.flit.cls * 2 ^ 6 + k.flit.bits 10 5) ++ [k.flit.payload]
    Says.answers (.verdict port k.seq true) s (fun t => (t.link port).held = []
      ∧ ∀ e ∈ Config.carried texts, msgClass e = some k.flit.cls → e ∈ t.events)
    ∧ Says.answers (.verdict port k.seq false) s (fun t => (t.link port).held = [] ∧ t.outbox = s.outbox ∧ t.events = s.events))
  ∧ (∀ (s : State) (port : Nat), let l := s.link port
    (l.rotationDone = true → Says.answers (.rotationComplete port) s (fun t =>
      (t.link port).tx.use (!l.tx.active) = none ∧ (t.link port).tx.rotating = false ∧ (t.link port).tx.active = l.tx.active))
    ∧ (l.rotationDone = false → (l.rx.use (!l.rx.active)).isSome = true → Says.answers (.rotationComplete port) s (fun t =>
      (t.link port).rx.use l.rx.active = none ∧ (t.link port).rx.rotating = false ∧ (t.link port).rx.active = !l.rx.active)))
  ∧ (∀ (s : State) (port round : Nat), s.host.drainRound = none → port ≠ ejectPort →
    Says.answers (.drainMarker port round) s (fun t => t.host.drainRound = some 0 ∧ t.host.swept = s.quarantined ∧ round ∈ (t.link port).markers
      ∧ Instr.drainMarker ejectPort 0 ∈ t.events ∧ Says.sameMem s t
      ∧ ∀ p ∈ s.usedPorts, (s.link p).outq = [] → ∀ c i, c < 3 → i < 5 → OutMsg.marker p 0 c i ∈ t.outbox))
  ∧ (∀ (s : State) (port round k q : Nat), s.host.drainRound = some k → q ∈ ejectPort :: s.usedPorts → q ≠ port → k ∉ (s.link q).markers →
    Says.answers (.drainMarker port round) s (fun t => t.host.drainRound = some k ∧ round ∈ (t.link port).markers ∧ t.outbox = s.outbox ∧ Says.sameMem s t))
  ∧ (∀ (s : State) (port : Nat), s.host.drainRound = some 4 → (∀ q ∈ ejectPort :: s.usedPorts, q ≠ port → 4 ∈ (s.link q).markers) →
    Says.answers (.drainMarker port 4) s (fun t => t.host.drainRound = none ∧ OutMsg.drainDone Config.pkgid ∈ t.outbox
      ∧ Instr.drainComplete Config.pkgid ∈ t.events ∧ Says.sameMem s t))
  ∧ (∀ (s : State) (pkg q : Nat), q ∈ s.podPackages → q ≠ pkg → q ∉ s.host.drained →
    Says.answers (.drainComplete pkg) s (fun t => pkg ∈ t.host.drained ∧ t.fab = s.fab ∧ t.courier = s.courier ∧ Says.sameMem s t))
  ∧ (∀ (s : State) (pkg : Nat), (∀ q ∈ s.podPackages, q = pkg ∨ q ∈ s.host.drained) → Says.answers (.drainComplete pkg) s (fun t =>
      t.host.drained = [] ∧ (∀ n, (0, n) ∈ s.host.swept → (t.ctx n).quarantined = false)
      ∧ (∀ n g, (1, n) ∈ s.host.swept → FMap.find t.fab.groups n = some g → g.quarantined = false)
      ∧ (∀ w ∈ t.fab.waybills, w.quarantined = true → (2, ticketNat w.ticket) ∉ s.host.swept)))

/-- R255, R337 to R344: a request of a peer in use is performed at its home and answered, a read with its bytes, a write acknowledged, an atomic or
compare-and-swap with the old value; an operation outside the subset, an address that is none, a scope refusal, a write of what is read-only
and a peer not in use are answered by an error; a notify from a peer with the right acts, another write of the control window is dropped and
counted; a TRANSLATION fault parks it. The companion's access to home memory is performed as a peer's is, and a master's doorbell moves the
write index of its own ring (the way in which such an access bears its master's number is the model's choice, log 108). A timeout fails the
request that waited, the fourth in a row hangs the peer; the companion's failure advances its incarnation and poisons what it owned. -/
def Obligations.PeerRequestsArePerformedAtHome : Prop :=
  (∀ (s : State) (r : PeerReq), let e := (FMap.get s.host.peers 0#64 r.peer).toNat
    let a := r.addr.toNat
    let n := peerLen r
    let live := r.peer < 1024 ∧ e.testBit 63 = true ∧ e.testBit 61 = false
    let error := exec (.ualinkRequest r) s = .next (s.tell (.peerError r.id r.peer))
    let fails := Says.answers (.ualinkRequest r) s (fun t => Says.sameMem s t ∧ OutMsg.peerError r.id r.peer ∈ t.outbox)
    let told := fun (t : State) (x : Reply) => OutMsg.peerAnswer r.id r.peer x ∈ t.outbox
    -- the key that the request leads to, and whether it is checked
    let leads := fun (key : Nat) (checked : Bool) => peerOpOk r = true ∧ a < 2 ^ 57
      ∧ ((r.peer = 1024 ∧ checked = true ∧ regionOf a < 4 ∧ keyOfPa Config.pkgid false a = some key)
        ∨ (live ∧ r.translated = true ∧ e.testBit 62 = true ∧ regionOf a ≠ 7 ∧ checked = true
            ∧ ∃ pk, keyOfPa Config.pkgid false a = some pk ∧ key = s.sealKey (bitsNat e 48 39) pk)
        ∨ (live ∧ r.translated = false ∧ inFixedRange a = false
            ∧ ∃ at_, translate s (bitsNat e 60 49) 1 (if peerWrites r = true then .write else .read) a = .ok (key, at_) ∧ checked = at_.schk))
    let ready := fun (key : Nat) => (peerWrites r = true → s.readOnlyKey key = false) ∧ s.behindQueue r key = false ∧ s.heldOutside key n = false
    let refused := fun (key : Nat) => ∃ sec, sec ∈ sectorKeys key n ∧ s.peerRefused r.peer sec = true
    (r.peer < 1024 → (e.testBit 63 = false ∨ e.testBit 61 = true ∨ peerOpOk r = false) → error)
    ∧ (live → peerOpOk r = true → (2 ^ 57 ≤ a ∨ (r.translated = false ∧ inFixedRange a = true) ∨ (r.translated = true ∧ e.testBit 62 = false)) → error)
    ∧ (∀ key checked, leads key checked → ready key → ¬(checked = true ∧ refused key) →
      let s0 := if checked = true then (sectorKeys key n).foldl (fun (s : State) k => s.peerRecord r.peer k) s else s
      (∀ bs, r.op = .read → s0.homeRead key n = .ok bs → Says.answers (.ualinkRequest r) s (fun t => Says.sameMem s t
        ∧ told t (.fill (cellsAt 0 bs) .none 0#8)))
      ∧ (∀ u, r.op = .write → s0.homeWrite (r.bytes.map (fun c => (key + c.1, c.2))) = .ok u → Says.answers (.ualinkRequest r) s (fun t =>
        Says.sameMem u t ∧ told t .ack))
      ∧ (∀ f bs u, r.op = .atomic f → s0.homeRead key n = .ok bs →
        s0.homeWrite (cellsAt key (leBytes n (atomicOp f.toNat r.wide (leNat bs) (r.operand.toNat % 2 ^ (8 * n))))) = .ok u →
        Says.answers (.ualinkRequest r) s (fun t => Says.sameMem u t ∧ told t (.value (BitVec.ofNat 64 (leNat bs)))))
      ∧ (∀ bs, r.op = .compareSwap → s0.homeRead key n = .ok bs →
        (leNat bs ≠ r.operand.toNat % 2 ^ (8 * n) → Says.answers (.ualinkRequest r) s (fun t => Says.sameMem s t
          ∧ told t (.value (BitVec.ofNat 64 (leNat bs)))))
        ∧ (∀ u, leNat bs = r.operand.toNat % 2 ^ (8 * n) → s0.homeWrite (cellsAt key (leBytes n (r.newval.toNat % 2 ^ (8 * n)))) = .ok u →
          Says.answers (.ualinkRequest r) s (fun t => Says.sameMem u t ∧ told t (.value (BitVec.ofNat 64 (leNat bs)))))))
    ∧ (∀ key checked, leads key checked → ready key → checked = true → refused key → fails)
    ∧ (∀ key checked, leads key checked → peerWrites r = true → s.readOnlyKey key = true → fails)
    ∧ (live → peerOpOk r = true → r.translated = false → a < 2 ^ 57 → inFixedRange a = false → s.faultsFull = false → s.host.faultWait = [] →
      translate s (bitsNat e 60 49) 1 (if peerWrites r = true then .write else .read) a = .error .translation →
      Says.answers (.ualinkRequest r) s (fun t => Says.sameMem s t ∧ t.outbox = s.outbox ∧ ∃ f, f ∈ t.host.faults ∧ f.what = .peer r ∧ f.cancelled = false))
    ∧ (peerOpOk r = true → a < 2 ^ 57 → regionOf a = 7 → r.op = .write →
      let off := a % 2 ^ 54
      let dropped := Says.answers (.ualinkRequest r) s (fun t => Says.sameMem s t ∧ told t .ack ∧ t.host.controlDrops = s.host.controlDrops + 1
        ∧ t.events = s.events ∧ t.host.cmdWrite = s.host.cmdWrite)
      let byPeer := live ∧ r.translated = true ∧ e.testBit 62 = true
      (∀ bs, ((byPeer ∧ e.testBit 12 = true) ∨ r.peer = 1024) → off = 0 → r.len = 16 → writtenBytes r 16 = some bs → field bs 10 6 = 0 →
        Says.answers (.ualinkRequest r) s (fun t => Says.sameMem s t ∧ told t .ack
          ∧ Instr.notify (field bs 8 2) (BitVec.ofNat 64 (field bs 0 8)) ∈ t.events))
      ∧ (byPeer → (e.testBit 12 = false ∨ off ≠ 0) → dropped)
      ∧ (∀ m bs, r.peer = 1024 + m → m < 3 → r.len = 8 → writtenBytes r 8 = some bs →
        let read := FMap.get s.host.cmdRead 0 m
        (off = 0x100 + 16 * m → max read (FMap.get s.host.cmdWrite 0 m) ≤ field bs 0 8 → field bs 0 8 ≤ read + 64 →
          Says.answers (.ualinkRequest r) s (fun t => Says.sameMem s t ∧ told t .ack ∧ FMap.get t.host.cmdWrite 0 m = field bs 0 8
            ∧ ∀ k, k ≠ m → FMap.get t.host.cmdWrite 0 k = FMap.get s.host.cmdWrite 0 k))
        ∧ (off ≠ 0 → off ≠ 0x100 + 16 * m → dropped))))
  ∧ (∀ (s : State) (req p : Nat) (rest : List Nat), s.host.peerReqs.find? (fun q => q.2.contains req) = some (p, rest) →
    let k := FMap.get s.host.peerTimeouts 0 p + 1
    (∀ r o parts lns, s.w.present = true → s.findReq req = some r → r.id = req → r.dest = .warp s.warpId o parts lns →
      Says.answers (.peerTimeout req) s (fun t => (∀ q ∈ t.fab.reqs, q.id ≠ req)
        ∧ (k ≠ 4 → FMap.get t.host.peerTimeouts 0 p = k) ∧ (k = 4 → (FMap.get t.host.peers 0#64 p).toNat.testBit 61 = true))))
  ∧ (∀ s : State, s.fab.trans = [] → Says.answers .companionLinkFailure s (fun t => t.incarnation 1023 = s.incarnation 1023 + 1
      ∧ ∀ g e, (g, e) ∈ s.fab.dir → e.st = 2 → e.owner = some (.package 1023) → 0 < e.size → t.poisoned g = true))

/-! ## Queues, packets and the host -/

/-- R219, R282 to R288, R311, R129: an enabled queue's notify copies the packets up to its index, in order, and its read index follows; an index out of
range clears `ENABLE` and is reported. A type-1 packet in order, whose kernel passes its check, starts its grid, whose first workgroup then
awaits a core; a type-2 packet reads its words until each is set, or one says an error; a type-3 packet binds an idle context. A packet out
of order ends LAUNCH_REFUSED. A done packet writes its completion word and is gone. Records go from the buffer to the ring while it has
room, and the host is told. -/
def Obligations.QueuesAndPacketsRun : Prop :=
  (∀ (s : State) (n : Nat) (q : Queue) (i : DWord), FMap.find s.host.queues n = some q →
    let out := i.toNat < q.readIdx ∨ q.readIdx + s.queueEntries q < i.toNat
    (bitNat (s.queueCtl q) 18 = false → exec (.notify n i) s = .next s)
    ∧ (bitNat (s.queueCtl q) 18 = true → ¬out → Says.answers (.notify n i) s (fun t =>
        FMap.find t.host.queues n = some { q with readIdx := i.toNat, notified := i.toNat }
        ∧ ∃ ps, t.packets = s.packets ++ ps ∧ ps.length = i.toNat - q.readIdx
          ∧ ∀ j p, ps[j]? = some p → p.queue = n ∧ p.started = false ∧ p.finished = false ∧ p.status = 0 ∧ p.grid = 0#32
              ∧ p.bytes = s.withDefaults q (s.packetBytes q (q.readIdx + j))))
    ∧ (∀ k, bitNat (s.queueCtl q) 18 = true → out → Says.still s → physKey (q.desc + 8#64) = some k → Says.near k 4 → s.host.fqBuffer.length < 256 →
      Says.answers (.notify n i) s (fun t => t.packets = s.packets ∧ bitNat (t.queueCtl q) 18 = false
        ∧ ∃ bs, bs ∈ t.host.fqBuffer ∧ field bs 0 4 / 2 ^ 28 = 6 ∧ field bs 0 4 / 2 ^ 20 % 256 = 0x52 ∧ field bs 0x18 8 = q.desc.toNat)))
  ∧ (∀ (s : State) (p : Packet), s.findPacket p.id = some p → s.mayStart p = true →
    let code := BitVec.ofNat 64 (field p.bytes 0x10 8)
    (∀ q, s.findGrid p.grid = none → FMap.find s.host.queues p.queue = some q →
      (hostGridOk p.bytes = false → exec (.gridPacket p.id) s = .next (s.endPacket p 1))
      ∧ (∀ ms, hostGridOk p.bytes = true → s.kernelCheck q.space (s.queueLevel q) code = .ok s ms →
        Says.answers (.gridPacket p.id) s (fun t => Says.sameMem s t ∧ ∃ g, g ∈ t.grids ∧ g.started = true ∧ g.macros = ms ∧ g.queue = p.queue
          ∧ g.space = q.space ∧ g.level = s.queueLevel q ∧ g.depth = 0 ∧ g.parent = 0#32 ∧ g.topup = bitNat (s.queueCtl q) 17
          ∧ g.gx = field p.bytes 4 4 ∧ g.gy = field p.bytes 8 2 ∧ g.gz = field p.bytes 0xA 2 ∧ g.bytes = p.bytes
          ∧ ∃ x, x ∈ t.packets ∧ x.id = p.id ∧ x.started = true ∧ x.grid = g.id))
      ∧ (∀ va, hostGridOk p.bytes = true → s.kernelCheck q.space (s.queueLevel q) code = .refuse va →
        Says.answers (.gridPacket p.id) s (fun t => ∃ x, x ∈ t.packets ∧ x.id = p.id ∧ x.finished = true ∧ 1 ≤ x.status)))
    ∧ (∀ g ms, p.grid ≠ 0#32 → s.findGrid p.grid = some g → g.aborted = false → g.nextWg < g.total → s.kernelCheck g.space g.level code = .ok s ms →
      Says.answers (.gridPacket p.id) s (fun t => Says.sameMem s t ∧ (∃ h, h ∈ t.grids ∧ h.id = g.id ∧ h.started = true ∧ h.macros = ms)
        ∧ ∃ w, w ∈ t.wgs ∧ w.grid = g.id ∧ w.place = .unstarted ∧ w.x = g.nextWg % g.gx ∧ w.y = g.nextWg / g.gx % g.gy ∧ w.z = g.nextWg / g.gx / g.gy
          ∧ w.size = pktSize g.bytes ∧ w.ipurse = pktIpurse g.bytes ∧ w.mpurse = pktMpurse g.bytes ∧ w.depth = g.depth ∧ w.level = g.level
          ∧ w.space = g.space ∧ w.code = BitVec.ofNat 64 (field g.bytes 0x10 8) ∧ w.arg = BitVec.ofNat 64 (field g.bytes 0x18 8)
          ∧ w.padUnits = field g.bytes 0xF 1 ∧ w.accAllot = field g.bytes 0xE 1 ∧ w.tvec = lpcExited ∧ w.rest = lpcExited ∧ w.macros = ms))
    ∧ (barrierAndOk p.bytes = true → Says.answers (.barrierAndPacket p.id) s (fun t => Says.sameMem s t ∧ ∃ x, x ∈ t.packets ∧ x.id = p.id ∧ x.started = true
        ∧ x.deps = ((pktDeps p.bytes).filter (fun a => a != 0)).map (BitVec.ofNat 64)))
    ∧ (barrierAndOk p.bytes = false → exec (.barrierAndPacket p.id) s = .next (s.endPacket p 1))
    ∧ (let n := field p.bytes 4 4
      ((itineraryOk p.bytes = false ∨ (s.ctx n).st ≠ 0 ∨ (s.ctx n).quarantined = true) → exec (.itineraryPacket p.id) s = .next (s.endPacket p 1))
      ∧ (∀ d m, itineraryOk p.bytes = true → (s.ctx n).st = 0 → (s.ctx n).quarantined = false →
        let by_ := accessor (s.packetSpace p).1 (s.packetSpace p).2 p.id
        s.ctxRead by_ (field p.bytes 0x18 8) 256 = .ok s d → descOk (s.ctx n).gen d = true →
        s.ctxRead by_ (field d 8 8) (4 * field d 2 2) = .ok s m → mapOk m (field d 2 2) = true →
        Says.answers (.itineraryPacket p.id) s (fun t => let x := t.ctx n
          x.st = 1 ∧ x.pc = BitVec.ofNat 64 (field p.bytes 0x10 8) ∧ x.desc = d ++ m ∧ x.reg 0 = BitVec.ofNat 32 (field p.bytes 8 4)
          ∧ (∀ k, k ≠ 0 → x.reg k = 0#32) ∧ x.wg = 0 ∧ x.packet = p.id ∧ x.purse = pktMpurse p.bytes ∧ x.space = (s.packetSpace p).1
          ∧ x.level = (s.packetSpace p).2 ∧ x.todo = [(BitVec.ofNat 64 (field d 0x20 8), leBytes 4 1 ++ List.replicate 252 0#8)]))))
  ∧ (∀ (s : State) (p : Packet), s.findPacket p.id = some p → p.started = true → p.finished = false → p.token = 0 → pktType p.bytes = 2 →
    let has := fun (t : State) (f : Packet → Prop) => Says.sameMem s t ∧ ∃ x, x ∈ t.packets ∧ x.id = p.id ∧ f x
    (p.deps = [] → Says.answers (.dependencyRead p.id) s (fun t => has t (fun x => x.finished = true ∧ x.status = p.status)))
    ∧ (∀ d rest bs, p.deps = d :: rest → s.ctxRead (accessor (s.packetSpace p).1 (s.packetSpace p).2 p.id) d.toNat 4 = .ok s bs →
      (2 ^ 31 ≤ leNat bs → Says.answers (.dependencyRead p.id) s (fun t => has t (fun x => x.finished = true ∧ x.status = max p.status 5)))
      ∧ (leNat bs = 0 → Says.answers (.dependencyRead p.id) s (fun t => has t (fun x => x.deps = rest ++ [d] ∧ x.finished = false)))
      ∧ (0 < leNat bs → leNat bs < 2 ^ 31 → Says.answers (.dependencyRead p.id) s (fun t => has t (fun x => x.deps = rest ∧ x.finished = false)))))
  ∧ (∀ (s : State) (p : Packet), s.findPacket p.id = some p →
    let st := max p.status (match s.findGrid p.grid with | some g => g.status | none => 0)
    let word := if st = 0 then pktValue p.bytes else 2 ^ 31 + st
    let gone := fun (t : State) => (∀ x ∈ t.packets, x.id ≠ p.id) ∧ (p.grid ≠ 0#32 → ∀ g ∈ t.grids, g.id ≠ p.grid)
    (s.packetDone p = false → exec (.packetComplete p.id) s = .next s)
    ∧ (s.packetDone p = true → pktWord p.bytes = 0 → Says.answers (.packetComplete p.id) s (fun t => Says.sameMem s t ∧ gone t
        ∧ ∀ g, s.findGrid p.grid = some g → g.parentWg = s.g.serial → t.g.kids = s.g.kids.filter (fun k => k != p.grid)))
    ∧ (∀ u, s.packetDone p = true → pktWord p.bytes ≠ 0 → pktWord p.bytes % 4 = 0 →
      s.ctxWrite (accessor (s.packetSpace p).1 (s.packetSpace p).2 p.id) (pktWord p.bytes) (leBytes 4 word) = .ok u [] →
      Says.answers (.packetComplete p.id) s (fun t => Says.sameMem u t ∧ gone t)))
  ∧ (∀ s : State,
    (∀ r rest, s.host.fqBuffer = r :: rest → s.host.ringRoom = true → Says.answers .hostFaultRecordPost s (fun t =>
        t.host.fqWrite = s.host.fqWrite + 1 ∧ t.host.fqBuffer = rest ++ s.host.fqWaiting.take 1 ∧ t.host.fqWaiting = s.host.fqWaiting.drop 1
        ∧ OutMsg.interrupt ∈ t.outbox
        ∧ Says.wrote s t (s.host.fqBase + BitVec.ofNat 64 (s.host.fqWrite % s.host.fqSize * 64)) r))
    ∧ ((s.host.fqBuffer = [] ∨ s.host.ringRoom = false) → exec .hostFaultRecordPost s = .next s)
    ∧ (∀ i : DWord, Says.answers (.hostFaultQueueReadIndex i) s (fun t => t.host.fqRead = max s.host.fqRead (min i.toNat s.host.fqWrite)
        ∧ t.host.fqWrite = s.host.fqWrite ∧ t.host.fqBuffer = s.host.fqBuffer ∧ Says.sameMem s t
        ∧ (s.host.fqBuffer ≠ [] → Instr.hostFaultRecordPost ∈ t.events))))

/-- R282, R297, R309, R313, R341, R345, R353 and the rules of each command: a command of a master that does not own the package completes with NOT_OWNER, one
with an operand out of range with INVALID, one that may not act yet with BUSY, and has no other effect. Any other acts, and then, or when
what it waits for has happened, completes with OK. The completion word is the status over the tag's low 24 bits. -/
def Obligations.HostCommandsActAndComplete : Prop :=
  (∀ (s : State) (c : Cmd) (status : Nat), let t := s.complete c status
    t.host = { s.host with forwards := t.host.forwards, forwardWait := t.host.forwardWait, links := t.host.links }
    ∧ t.pkg = s.pkg ∧ t.courier = s.courier ∧ t.w = s.w ∧ t.warps = s.warps ∧ t.grids = s.grids
    ∧ t.packets = s.packets ∧ t.fab.groups = s.fab.groups
    ∧ (Says.still s → s.fab.pend = [] → t.g = s.g ∧ t.wgs = s.wgs ∧ t.host = s.host)
    ∧ (status < 4 → Says.wrote s t c.compl (leBytes 4 (status * 2 ^ 24 + c.tag.toNat % 2 ^ 24))))
  ∧ (∀ (s : State) (c : Cmd) (n k j : Nat) (x y : DWord) (w : Word) (b : Bool) (ag : Incarnate),
    let owned := [Instr.regq c n x k, .vacate c w x, .returnCores c w x, .answerReplay c x, .answerDeliver c x, .answerAbort c x, .icinv c,
      .tlbinv c n x y, .space c n x y, .groupwr c n x, .groupfree c n, .ctxfree c n, .abort c b w, .routewr c n x, .keyload c n k j x,
      .keyrotate c n k, .drain c, .linkmode c n, .peerwr c n x, .peerreset c n, .declare c ag, .readctr c n x true, .fqreg c x n, .tmoset c n k]
    let its := s.pkg.owner = some c.master ∨ 0 < FMap.get s.pkg.oldQueue 0 c.master
    (¬its → ∀ i, (i ∈ owned ∨ (3 ≤ n ∧ i = .readctr c n x false)) → Says.completes i c s 1 (fun u => u = s.consumeOld c))
    ∧ (its → memoryAddr c.compl = false → ∀ i, (i ∈ owned ∨ i = .readctr c n x false) → Says.completes i c s 3 (fun u => u = s.consumeOld c)))
  ∧ (∀ (s : State) (c : Cmd) (n k j : Nat) (x y : DWord) (w : Word) (b : Bool), Says.may c s →
    ∀ p ∈ ([(.regq c n x k, 65536 ≤ n ∨ 4096 ≤ k ∨ x.toNat % 64 ≠ 0 ∨ ownOrCompanion x = false), (.vacate c w x, s.findGrid w = none ∨ memoryAddr x = false),
      (.returnCores c w x, s.findGrid w = none ∨ memoryAddr x = false), (.tlbinv c n x y, 4096 ≤ n),
      (.space c n x y, 4096 ≤ n ∨ memoryAddr x = false ∨ x.toNat % 16384 ≠ 0 ∨ memoryAddr y = false), (.groupwr c n x, 1024 ≤ n),
      (.groupfree c n, 1024 ≤ n), (.ctxfree c n, 64 ≤ n), (.abort c true w, 64 ≤ w.toNat), (.abort c false w, s.findGrid w = none),
      (.routewr c n x, 1024 ≤ n), (.keyload c n k j x, 32 ≤ n ∨ 2 ≤ k ∨ 2 ≤ j), (.keyrotate c n k, 32 ≤ n ∨ 2 ≤ k), (.linkmode c n, 2 ≤ n),
      (.peerwr c n x, 1024 ≤ n), (.peerreset c n, 1024 ≤ n), (.readctr c n x b, 32 ≤ n ∨ memoryAddr x = false),
      (.fqreg c x n, memoryAddr x = false ∨ x.toNat % 64 ≠ 0 ∨ n = 0), (.tmoset c n k, 1000000 < n ∨ 1000000 < k)] : List (Instr × Prop)),
      p.2 → Says.completes p.1 c s 3 (fun u => u = s.consumeOld c))
  ∧ (∀ (s : State) (c : Cmd) (n k : Nat) (x y : DWord) (w : Word), Says.may c s →
    let ok := fun (i : Instr) (p : State → Prop) => Says.completes i c s 0 p
    let bytes := fun (len : Nat) => (s.physRead x len).getD []
    let pending := fun (t : State) (p : PendCmd → Prop) => ∃ q, q ∈ t.host.cmds ∧ q.cmd = c ∧ p q
    ok (.icinv c) (fun u => u = s.consumeOld c)
    ∧ (n < 65536 → k < 4096 → x.toNat % 64 = 0 → ownOrCompanion x = true → (bytes 64).length = 64 → queueDescOk (bytes 64) = true →
      ownOrCompanion (BitVec.ofNat 64 (field (bytes 64) 0 8)) = true →
      ok (.regq c n x k) (fun u => FMap.find u.host.queues n = some { desc := x, space := k, readIdx := 0, notified := 0 }))
    ∧ ((s.findGrid w).isSome = true → memoryAddr x = true →
      Says.answers (.vacate c w x) s (fun t => pending t (fun q => q.kind = 0 ∧ q.grid = w ∧ q.cores = s.coreList x)
        ∧ (∀ g ∈ t.grids, g.id = w → ∀ core ∈ s.coreList x, core ∈ g.barred)
        ∧ (s.wgsOn w (s.coreList x) = [s.g] → s.g.heldPurses = none → s.g.latch = false → s.g.resting = false → s.g.forced = false →
            t.g.ipurse = 0 ∧ t.g.mpurse = 0 ∧ t.g.heldPurses = some (s.g.ipurse, s.g.mpurse)))
      ∧ ok (.returnCores c w x) (fun u => Says.sameMem s u ∧ ∀ g ∈ u.grids, g.id = w → ∀ core ∈ s.coreList x, core ∉ g.barred))
    ∧ (n < 4096 → Says.answers (.tlbinv c n x y) s (fun t => Says.sameMem s t
        ∧ pending t (fun q => q.kind = 1 ∧ q.space = n ∧ q.base = x.toNat ∧ q.len = y.toNat ∧ q.old = s.inFlight n)))
    ∧ (n < 4096 → memoryAddr x = true → x.toNat % 16384 = 0 → memoryAddr y = true →
      ok (.space c n x y) (fun u => Says.sameMem s u ∧ FMap.find u.host.spaces n = some { root := x, keys := y }))
    ∧ (n < 1024 → (bytes 32).length = 32 → ok (.groupwr c n x) (fun u => Says.sameMem s u ∧ ∃ g, FMap.find u.fab.groups n = some g ∧ g.bytes = bytes 32
        ∧ g.incomplete = 0 ∧ ∀ h, FMap.find s.fab.groups n = some h → g.quarantined = h.quarantined))
    ∧ (n < 1024 → ok (.groupfree c n) (fun u => Says.sameMem s u
        ∧ let h := (FMap.find s.fab.groups n).getD { bytes := List.replicate 32 0#8, quarantined := false, incomplete := 0 }
        ∃ g, FMap.find u.fab.groups n = some g ∧ g.quarantined = true ∧ entryGen g.bytes = (entryGen h.bytes + 1) % 16 ∧ bitNat (entryWord g.bytes) 31 = false ∧ g.bytes.drop 4 = h.bytes.drop 4))
    ∧ (n < 64 → (s.ctx n).st = 0 → ok (.ctxfree c n) (fun u => Says.sameMem s u ∧ (u.ctx n).st = 0 ∧ (u.ctx n).gen = (s.ctx n).gen + 1#4
        ∧ (u.ctx n).quarantined = true ∧ ∀ p, (u.ctx n).peer p = (Ctx.idle n).peer p))
    ∧ (n < 64 → (s.ctx n).st ≠ 0 → Says.completes (.ctxfree c n) c s 2 (fun u => u = s.consumeOld c))
    ∧ (w.toNat < 64 → (s.ctx w.toNat).st = 1 → (s.ctx w.toNat).ending = none → ok (.abort c true w) (fun u => Says.stops u w.toNat (s.ctx w.toNat) 7))
    ∧ ((s.findGrid w).isSome = true → ok (.abort c false w) (fun u => Says.sameMem s u ∧ ∀ g ∈ u.grids, g.id = w → g.aborted = true))
    ∧ (n < 1024 → (n = Config.pkgid → ok (.routewr c n x) (fun u => Says.sameMem s u ∧ u.host.threshold = x.toNat ∧ u.host.routes = s.host.routes))
      ∧ (n ≠ Config.pkgid → ok (.routewr c n x) (fun u => Says.sameMem s u ∧ u.host.threshold = s.host.threshold
          ∧ FMap.get u.host.routes 0#64 n = x &&& 0xFFFF0FFFFF00001F#64)))
    ∧ (n < 1024 → ok (.peerwr c n x) (fun u => Says.sameMem s u
        ∧ FMap.get u.host.peers 0#64 n = x &&& 0xDFFFFFFFFFFFFC00#64 ||| FMap.get s.host.peers 0#64 n &&& 0x2000000000000000#64))
    ∧ (n < 1024 → ok (.peerreset c n) (fun u => Says.sameMem s u ∧ FMap.get u.host.peers 0#64 n = FMap.get s.host.peers 0#64 n &&& 0xDFFFFFFFFFFFFFFF#64
        ∧ u.incarnation (1024 + n) = s.incarnation (1024 + n) + 1#8 ∧ FMap.get u.host.peerTimeouts 0 n = 0))
    ∧ (n < 1024 → ok (.declare c (.peer n)) (fun u => u.incarnation (1024 + n) = s.incarnation (1024 + n) + 1#8))
    ∧ (n < 993 → ok (.declare c (.package n)) (fun u => u.incarnation n = s.incarnation n + 1#8))
    ∧ ok (.declare c .companion) (fun u => u.incarnation 1023 = s.incarnation 1023 + 1#8)
    ∧ (memoryAddr x = true → x.toNat % 64 = 0 → 1 ≤ n → ok (.fqreg c x n) (fun u => Says.sameMem s u ∧ u.host.fqBase = x ∧ u.host.fqSize = n
        ∧ u.host.fqWrite = 0 ∧ u.host.fqRead = 0 ∧ u.host.fqBuffer = s.host.fqBuffer ∧ (s.host.fqBuffer ≠ [] → Instr.hostFaultRecordPost ∈ u.events)))
    ∧ (n ≤ 1000000 → k ≤ 1000000 → ok (.tmoset c n k) (fun u => Says.sameMem s u ∧ u.host.recallTmo = (if n = 0 then s.host.recallTmo else n)
        ∧ u.host.replyTmo = if k = 0 then s.host.replyTmo else k))
    ∧ (n < 3 → memoryAddr x = true → let r := (s.consumeOld c).physWrite x (s.counterSet n)
      ok (.readctr c n x true) (fun u => Says.sameMem r u ∧ u.host = r.host ∧ (n = 0 → u.fab.counters = [])
        ∧ (n = 1 → u.pkg.stackErrors = [] ∧ u.pkg.tileErrors = [])))
    ∧ (∀ b, 3 ≤ n → n < 32 → memoryAddr x = true → ok (.readctr c n x b) (fun u =>
        u = (s.consumeOld c).physWrite x (s.waybillStore (n - 3)))))
  ∧ (∀ (s : State) (c : Cmd) (n : Nat) (x : DWord),
    (n < 3 → memoryAddr x = true → memoryAddr c.compl = true → Says.completes (.readctr c n x false) c s 0 (fun u =>
        u = (s.consumeOld c).physWrite x (s.counterSet n)))
    ∧ (∀ i, i < 9 → field (s.counterSet 0) (4 * i) 4 = (FMap.get s.fab.counters 0#32 i).toNat)
    ∧ (∀ i, i < 12 → field (s.counterSet 1) (4 * i) 4 = (FMap.get s.pkg.stackErrors 0#32 i).toNat)
    ∧ (∀ i, i < 16 → field (s.counterSet 1) (48 + 4 * i) 4 = (FMap.get s.pkg.tileErrors 0#32 i).toNat)
    ∧ (∀ i, i < 64 → field (s.counterSet 2) i 1 % 16 = (s.ctx i).gen.toNat
        ∧ ((s.ctx i).ending = none → field (s.counterSet 2) i 1 / 16 = (s.ctx i).st % 16)
        ∧ (∀ e, (s.ctx i).ending = some e → field (s.counterSet 2) i 1 / 16 = if e = 0 then 2 else if e = 7 then 4 else 3)))
  ∧ (∀ (s : State) (c : Cmd) (port dir slot : Nat) (x : DWord), Says.may c s → port < 32 → dir < 2 → slot < 2 →
    let l := s.link port
    let keys := fun (l : Link) => if dir = 0 then l.tx else l.rx
    let bs := (s.physRead x 36).getD []
    (bs.length = 36 → (keys l).rotating = false → l.outq = [] → Says.completes (.keyload c port dir slot x) c s 0 (fun u => Says.sameMem s u
      ∧ (keys (u.link port)).use (slot == 1) = some (field bs 0 32, field bs 32 4, 0)
      ∧ (keys (u.link port)).use (slot != 1) = (keys l).use (slot != 1) ∧ (u.link port).outq = []))
    ∧ ((keys l).rotating = true → (bs.length = 36 → Says.completes (.keyload c port dir slot x) c s 2 (fun u => u = s.consumeOld c))
      ∧ Says.completes (.keyrotate c port dir) c s 2 (fun u => u = s.consumeOld c))
    ∧ ((keys l).rotating = false → (keys l).use (!(keys l).active) = none → Says.completes (.keyrotate c port dir) c s 3 (fun u => u = s.consumeOld c))
    ∧ ((keys l).rotating = false → (keys l).use (!(keys l).active) ≠ none → Says.answers (.keyrotate c port dir) s (fun t => Says.sameMem s t
        ∧ (keys (t.link port)).rotating = true ∧ (dir = 0 → (t.link port).tx.active = !l.tx.active)
        ∧ ∃ q, q ∈ t.host.cmds ∧ q.cmd = c ∧ q.kind = 3 ∧ q.base = 2 * port + dir)))
  ∧ (∀ (s : State) (c : Cmd) (mode : Nat), Says.may c s →
    (mode < 2 → Says.completes (.linkmode c mode) c s 0 (fun u => Says.sameMem s u ∧ u.host.links.length = s.host.links.length
      ∧ ∀ p ∈ u.host.links, p.2.skid = (mode == 1)))
    ∧ Says.answers (.drain c) s (fun t => Says.sameMem s t ∧ (∃ q, q ∈ t.host.cmds ∧ q.cmd = c ∧ q.kind = 2)
      ∧ (s.host.drainRound = none → t.host.swept = s.quarantined ∧ t.host.drainRound = some 0 ∧ Instr.drainMarker ejectPort 0 ∈ t.events
        ∧ ∀ p ∈ s.usedPorts, (s.link p).outq = [] → ∀ k i, k < 3 → i < 5 → OutMsg.marker p 0 k i ∈ t.outbox)))
  ∧ (∀ (s : State) (p : PendCmd), s.findCmd p.id = some p →
    let left := fun (u : State) => Says.sameMem s u ∧ ∀ q ∈ u.host.cmds, q.id ≠ p.id
    (p.kind = 0 → (∀ g ∈ s.allWgs, ¬(g.grid = p.grid ∧ g.place = .running ∧ g.serial ≠ 0 ∧ g.core ∈ p.cores)) →
      Says.completes (.vacateComplete p.id) p.cmd s 0 left)
    ∧ (p.kind = 0 → (∃ g ∈ s.allWgs, g.grid = p.grid ∧ g.place = .running ∧ g.serial ≠ 0 ∧ g.core ∈ p.cores) → exec (.vacateComplete p.id) s = .next s)
    ∧ (p.kind = 1 → (∀ n ∈ p.old, n ∉ s.inFlight p.space) → Says.completes (.invalidationComplete p.id) p.cmd s 0 left)
    ∧ (p.kind = 1 → (∃ n ∈ p.old, n ∈ s.inFlight p.space) → exec (.invalidationComplete p.id) s = .next s))

/-- R350 to R360: a package reset repeats the stages; the election takes the highest priority, then the lowest master; ownership passes to the master that
accepts; the mailbox answers NOT_OWNER, BUSY, INVALID or STALE or acts, and answers its code alone once bring-up has failed or power is removed;
the governor gives leave in order, never while it holds; errors are counted or poison what they struck. -/
def Obligations.PackageMessagesAndEventsAct : Prop :=
  (∀ (s : State) (fs fp : List Nat),
    Says.answers (.packageReset true fs fp) s (fun t => t.pkg.stage = 4 ∧ t.pkg.windowOpen = true ∧ t.pkg.owner = none ∧ t.w.present = false ∧ t.grids = []
      ∧ t.courier = Courier.empty ∧ t.pkg.failedStacks = fs ∧ t.pkg.failedPorts = fp
      ∧ (∀ n ∈ fs, OutMsg.trainingFailure false n ∈ t.outbox) ∧ (∀ p ∈ fp, OutMsg.trainingFailure true p ∈ t.outbox)
      ∧ (∀ p, p < 32 → ((t.link p).up = true ↔ p ∉ fp ∧ Config.cabled p = true)) ∧ (∀ k, ownDram k = true → keyCipher k = 0 → t.memByte k = 0#8))
    ∧ (∀ i, (i = .packageReset false fs fp ∨ i = .powerGood false fs fp) →
        Says.answers i s (fun t => t.pkg.stage = 2 ∧ t.pkg.mailbox = 0xE1 ∧ t.pkg.owner = none ∧ Says.sameMem s t)))
  ∧ (∀ (s : State),
    (s.pkg.stage ≠ 4 → exec .claimWindowClose s = .next s)
    ∧ (s.pkg.stage = 4 → s.pkg.claims = [] → Says.answers .claimWindowClose s (fun t => t.pkg.windowOpen = false ∧ t.pkg.stage = 4
        ∧ t.pkg.owner = s.pkg.owner ∧ Says.sameMem s t))
    ∧ (s.pkg.stage = 4 → s.pkg.claims ≠ [] → Says.answers .claimWindowClose s (fun t => t.pkg.stage = 6 ∧ t.pkg.claims = []
        ∧ ∃ win, win ∈ s.pkg.claims ∧ t.pkg.owner = some win.1
          ∧ (∀ x ∈ s.pkg.claims, x.2.1 ≤ win.2.1 ∧ (x.2.1 = win.2.1 → win.1 ≤ x.1))
          ∧ ∀ x ∈ s.pkg.claims, OutMsg.ringBase x.1 (ringBase x.1) ∈ t.outbox
              ∧ OutMsg.mailboxAnswer x.1 (if x.1 = win.1 then 0 else 1) ∈ t.outbox)))
  ∧ (∀ (s : State) (m n j : Nat) (x y : DWord) (prio : Byte) (b : Bool),
    let tells := fun (i : Instr) (status : Nat) => exec i s = .next (s.tell (.mailboxAnswer m status))
    let owned := [Instr.handover m n, .keyset m n j, .setpower m n j, .setclove m n]
    let region := Instr.region m n x y b j x
    (s.pkg.mailbox ≠ 0 → ∀ i, (i ∈ owned ∨ i = region ∨ i = .claim m prio x ∨ i = .accept m ∨ i = .attest m n) → tells i s.pkg.mailbox)
    ∧ (s.pkg.mailbox = 0 → s.pkg.owner ≠ some m → (∀ i ∈ owned, tells i 1) ∧ (m ≠ 2 → tells region 1))
    ∧ (s.pkg.mailbox = 0 → (s.pkg.owner = some m ∨ m = 2) → (256 ≤ n ∨ (if b = true then 1024 ≤ j else 3 ≤ j) ∨ memoryAddr x = false) →
      tells region 3)
    ∧ (s.pkg.mailbox = 0 → s.pkg.pendingOwner ≠ some m → tells (.accept m) 1)
    ∧ (s.pkg.mailbox = 0 → claimAddrOk x = false → tells (.claim m prio x) 3)
    ∧ (s.pkg.mailbox = 0 → claimAddrOk x = true → s.pkg.stage ≠ 4 → tells (.claim m prio x) 2)
    ∧ (s.pkg.mailbox = 0 → s.pkg.owner = some m →
      (3 ≤ n → tells (.handover m n) 3)
      ∧ ((n = 0 ∨ 1024 ≤ n) → tells (.keyset m n j) 3)
      ∧ (0 < n → n < 1024 → (∃ p ∈ s.host.spaces, keyGranted s p.2 n = true) → tells (.keyset m n j) 2)
      ∧ ((16 ≤ n ∨ j < 150 ∨ 300 < j) → tells (.setpower m n j) 3)
      ∧ ((n < 256 ∨ 65536 < n) → tells (.setclove m n) 3)))
  ∧ (∀ (s : State) (m n j : Nat) (x y : DWord) (prio : Byte) (b : Bool), s.pkg.mailbox = 0 →
    let acts := fun (i : Instr) (p : State → Prop) => Says.answers i s (fun t => OutMsg.mailboxAnswer m 0 ∈ t.outbox ∧ p t)
    (claimAddrOk x = true → s.pkg.stage = 4 →
      (s.pkg.windowOpen = true → Says.answers (.claim m prio x) s (fun t => t.pkg.claims = s.pkg.claims ++ [(m, prio.toNat, x)]
        ∧ t.pkg.owner = s.pkg.owner ∧ t.outbox = s.outbox ∧ Says.sameMem s t))
      ∧ (s.pkg.windowOpen = false → s.pkg.claims = [] → acts (.claim m prio x) (fun t => t.pkg.owner = some m ∧ t.pkg.stage = 6)))
    ∧ (s.pkg.owner = some m → n < 3 → acts (.handover m n) (fun t => t.pkg.pendingOwner = some n ∧ t.pkg.owner = some m ∧ Says.sameMem s t))
    ∧ (s.pkg.pendingOwner = some m → acts (.accept m) (fun t => t.pkg.owner = some m ∧ t.pkg.pendingOwner = none ∧ Says.sameMem s t
        ∧ ∀ o, s.pkg.owner = some o → o ≠ m → FMap.get t.pkg.oldQueue 0 o = (s.events.filter (fun e => e.ring == some o)).length
            + (FMap.get s.host.cmdWrite 0 o - FMap.get s.host.cmdRead 0 o)))
    ∧ ((s.pkg.owner = some m ∨ m = 2) → n < 256 → (if b = true then j < 1024 else j < 3) → memoryAddr x = true →
      acts (.region m n y y b j x) (fun t => Says.sameMem s t
        ∧ FMap.find t.pkg.regions n = some { base := y, len := y, pubIsPeer := b, pub := j, verAddr := x, version := 0 }))
    ∧ (s.pkg.owner = some m → 0 < n → n < 1024 → (∀ p ∈ s.host.spaces, keyGranted s p.2 n = false) →
      acts (.keyset m n j) (fun t => FMap.find t.pkg.keys n = some j ∧ Says.sameMem s t))
    ∧ (s.pkg.owner = some m → n < 16 → 150 ≤ j → j ≤ 300 → acts (.setpower m n j) (fun t => (t.gov n).cap = j ∧ (t.gov n).queue = (s.gov n).queue
        ∧ Says.sameMem s t))
    ∧ (s.pkg.owner = some m → 256 ≤ n → n ≤ 65536 → acts (.setclove m n) (fun t => t.pkg.clove = n ∧ t.pkg.pairs = s.pkg.pairs ∧ Says.sameMem s t))
    ∧ acts (.attest m n) (fun t => t.pkg = s.pkg ∧ Says.sameMem s t ∧ ∃ ws sig, OutMsg.report m ws sig ∈ t.outbox ∧ ws[0]? = some n
        ∧ ws[4]? = some (match s.pkg.owner with | some o => o | none => 255) ∧ ws[5]? = some s.fencedCount))
  ∧ (∀ (s : State) (peer : Bool) (m n : Nat) (v : Word),
    let tells := fun (status : Nat) => exec (.publish peer m n v) s = .next (s.tell (.publishAnswer peer m status))
    (s.pkg.mailbox ≠ 0 → tells s.pkg.mailbox)
    ∧ (s.pkg.mailbox = 0 → FMap.find s.pkg.regions n = none → tells 3)
    ∧ (∀ r, s.pkg.mailbox = 0 → FMap.find s.pkg.regions n = some r →
      ((r.pubIsPeer ≠ peer ∨ r.pub ≠ m) → tells 1)
      ∧ (r.pubIsPeer = peer → r.pub = m → v.toNat ≤ r.version → tells 4)
      ∧ (r.pubIsPeer = peer → r.pub = m → r.version < v.toNat →
        let out := fun (t u : State) (st : Nat) => t.acting = ctlAgent ∧ Says.sameMem u t ∧ t.outbox = u.outbox ++ [OutMsg.publishAnswer peer m st]
          ∧ FMap.find t.pkg.regions n = some { r with version := v.toNat }
        (physKey r.verAddr = none → Says.answers (.publish peer m n v) s (fun t => Says.sameMem s t ∧ t.outbox = s.outbox ++ [OutMsg.publishAnswer peer m 3]
          ∧ FMap.find t.pkg.regions n = some { r with version := v.toNat }))
        ∧ (∀ k, physKey r.verAddr = some k →
          let put := s.homePut pkgParty ctlAgent (cellsAt k (leBytes 8 v.toNat))
          (∀ u, put = .ok u → Says.answers (.publish peer m n v) s (fun t => out t u 0))
          ∧ (∀ u e, put = .fail u e → Says.answers (.publish peer m n v) s (fun t => out t u 3))
          ∧ (∀ u, put = .wait u → Says.answers (.publish peer m n v) s (fun t => t.acting = ctlAgent ∧ Says.sameMem u t ∧ t.outbox = u.outbox
              ∧ t.pkg = u.pkg ∧ Instr.publish peer m n v ∈ t.events))
          ∧ (Says.still s → s.fab.asks = [] → s.fab.reqs = [] → Says.near k 8 → ∃ u, put = .ok u ∧ Says.stored s u (cellsAt k (leBytes 8 v.toNat)))))))
  ∧ (∀ (s : State) (tile celsius : Nat) (b : Bool),
    let g := s.gov tile
    Says.answers .handoverExpiry s (fun t => t.pkg.pendingOwner = none ∧ t.pkg.owner = s.pkg.owner ∧ Says.sameMem s t)
    ∧ (g.queue = [] → exec (.powerGrant tile) s = .next s)
    ∧ (∀ who id rest, g.queue = (who, id) :: rest →
      (s.wantsLeave who id = false → Says.answers (.powerGrant tile) s (fun t => (t.gov tile).queue = rest ∧ Says.sameMem s t ∧ t.courier = s.courier ∧ t.g = s.g))
      ∧ (s.wantsLeave who id = true → g.hold = true → exec (.powerGrant tile) s = .next s)
      ∧ (s.wantsLeave who id = true → g.hold = false → Says.answers (.powerGrant tile) s (fun t => Says.sameMem s t
        ∧ ((t.gov tile).queue = rest ∨ ((t.gov tile).queue = g.queue ∧ t.courier = s.courier ∧ t.g = s.g))
        ∧ ((t.gov tile).queue = rest → t.wantsLeave who id = false))))
    ∧ (s.host.fqBuffer.length < 256 → Says.answers (.thermalHold tile) s (fun t => (t.gov tile).hold = true ∧ (t.gov tile).queue = g.queue ∧ Says.sameMem s t
        ∧ ∃ bs, bs ∈ t.host.fqBuffer ∧ field bs 0 4 / 2 ^ 28 = 5 ∧ field bs 0 4 / 2 ^ 20 % 256 = 0x57))
    ∧ Says.answers (.thermalThrottle tile) s (fun t => (t.gov tile).throttled = true ∧ (t.gov tile).hold = g.hold ∧ Says.sameMem s t)
    ∧ Says.answers (.thermalTrip tile) s (fun t => t.pkg.mailbox = 0xE2 ∧ t.pkg.tripped = true ∧ (s.events = [] → step t = .fault .powerRemoved))
    ∧ Says.answers (.thermalRecovery tile celsius) s (fun t => ((t.gov tile).hold = true ↔ g.hold = true ∧ 95 ≤ celsius)
        ∧ ((t.gov tile).throttled = true ↔ g.throttled = true ∧ 100 ≤ celsius) ∧ Says.sameMem s t)
    ∧ Says.answers (.correctedError b tile) s (fun t => Says.sameMem s t ∧ t.poison = s.poison
        ∧ FMap.get t.pkg.tileErrors 0#32 tile = FMap.get s.pkg.tileErrors 0#32 tile + (if b = true then 1#32 else 0#32)
        ∧ FMap.get t.pkg.stackErrors 0#32 tile = FMap.get s.pkg.stackErrors 0#32 tile + (if b = true then 0#32 else 1#32))
    ∧ (s.host.fqBuffer.length < 256 →
      let told := fun (t : State) => ∃ bs, bs ∈ t.host.fqBuffer ∧ field bs 0 4 / 2 ^ 28 = 5 ∧ field bs 0 4 / 2 ^ 20 % 256 = 0x55
      (∀ key, Says.answers (.uncorrectableError (.sector key)) s (fun t => told t ∧ t.poisoned key = true ∧ Says.sameMem s t))
      ∧ (∀ off, Says.answers (.uncorrectableError (.pad s.g.serial off)) s (fun t => told t ∧ Says.sameMem s t ∧ off / 32 ∈ t.g.padPoison
          ∧ ∀ k, k ≠ off / 32 → (k ∈ t.g.padPoison ↔ k ∈ s.g.padPoison)))
      ∧ (∀ acc, FMap.get s.g.marks 0 acc < 4 → Says.answers (.uncorrectableError (.tile s.g.serial acc)) s (fun t => told t ∧ Says.sameMem s t
          ∧ FMap.get t.g.marks 0 acc = FMap.get s.g.marks 0 acc % 2 + 2))))
end

