-- ==== Sys2Proof/Laws/Map.lean ====
section
/-! SUPPORT. Laws of sparse maps: reading after writing, and that writing keeps the canonical form. -/

namespace Sys2Proof

variable {α : Type}

/-- A weaker bound also holds. -/
theorem FMap.wfFrom_mono [DecidableEq α] {d : α} {lo lo' : Nat} {m : FMap α} (h : FMap.wfFrom d lo m = true) (hl : lo' ≤ lo) :
    FMap.wfFrom d lo' m = true := by
  cases m with
  | nil => rfl
  | cons p m =>
    obtain ⟨k, v⟩ := p
    simp only [FMap.wfFrom, Bool.and_eq_true, decide_eq_true_eq] at h ⊢
    exact ⟨⟨by omega, h.1.2⟩, h.2⟩

/-- A key below the bound is not listed. -/
theorem FMap.find_below [DecidableEq α] {d : α} {lo : Nat} {m : FMap α} (h : FMap.wfFrom d lo m = true) {k : Nat} (hk : k < lo) :
    FMap.find m k = none := by
  induction m generalizing lo with
  | nil => rfl
  | cons p m ih =>
    obtain ⟨j, v⟩ := p
    simp only [FMap.wfFrom, Bool.and_eq_true, decide_eq_true_eq] at h
    simp only [FMap.find]
    rw [if_neg (by omega)]
    exact ih h.2 (by omega)

/-- A removed key is not listed, and the others are as before. -/
theorem FMap.find_erase (m : FMap α) (k j : Nat) :
    FMap.find (FMap.erase m k) j = if j = k then none else FMap.find m j := by
  induction m with
  | nil => simp [FMap.erase, FMap.find]
  | cons p m ih =>
    obtain ⟨i, v⟩ := p
    simp only [FMap.erase, FMap.find]
    by_cases hik : i = k
    · subst hik
      simp only [if_true, ih]
      by_cases hj : j = i
      · simp [hj]
      · simp [hj, Ne.symm hj]
    · rw [if_neg hik]
      simp only [FMap.find, ih]
      by_cases hij : i = j
      · subst hij; simp [hik]
      · simp [hij]

/-- The value listed under a key after listing one. -/
theorem FMap.find_insert (m : FMap α) (k : Nat) (v : α) (j : Nat) :
    FMap.find (FMap.insert m k v) j = if j = k then some v else FMap.find m j := by
  induction m with
  | nil => simp only [FMap.insert, FMap.find]; by_cases h : k = j <;> simp [h, eq_comm]
  | cons p m ih =>
    obtain ⟨i, u⟩ := p
    simp only [FMap.insert]
    split
    · simp only [FMap.find]
      by_cases h : k = j
      · simp [h]
      · simp [h, Ne.symm h]
    · split
      · rename_i h1 h2
        subst h2
        simp only [FMap.find]
        by_cases h : k = j
        · simp [h]
        · simp [h, Ne.symm h]
      · rename_i h1 h2
        simp only [FMap.find, ih]
        by_cases h : i = j
        · subst h; simp [Ne.symm h2]
        · simp [h]

/-- Removing a key keeps the canonical form. -/
theorem FMap.wfFrom_erase [DecidableEq α] {d : α} {lo : Nat} {m : FMap α} (h : FMap.wfFrom d lo m = true) (k : Nat) :
    FMap.wfFrom d lo (FMap.erase m k) = true := by
  induction m generalizing lo with
  | nil => rfl
  | cons p m ih =>
    obtain ⟨i, v⟩ := p
    have h' := h
    simp only [FMap.wfFrom, Bool.and_eq_true, decide_eq_true_eq] at h
    simp only [FMap.erase]
    split
    · exact FMap.wfFrom_mono (ih h.2) (by omega)
    · simp only [FMap.wfFrom, Bool.and_eq_true, decide_eq_true_eq]
      exact ⟨h.1, ih h.2⟩

/-- Listing a value that is not the default keeps the canonical form. -/
theorem FMap.wfFrom_insert [DecidableEq α] {d : α} {lo : Nat} {m : FMap α} (h : FMap.wfFrom d lo m = true) {k : Nat} {v : α}
    (hk : lo ≤ k) (hv : v ≠ d) : FMap.wfFrom d lo (FMap.insert m k v) = true := by
  induction m generalizing lo with
  | nil => simp [FMap.insert, FMap.wfFrom, hk, hv]
  | cons p m ih =>
    obtain ⟨i, u⟩ := p
    simp only [FMap.wfFrom, Bool.and_eq_true, decide_eq_true_eq] at h
    simp only [FMap.insert]
    split
    · simp only [FMap.wfFrom, Bool.and_eq_true, decide_eq_true_eq]
      exact ⟨⟨hk, hv⟩, ⟨by omega, h.1.2⟩, h.2⟩
    · split
      · rename_i h1 h2
        subst h2
        simp only [FMap.wfFrom, Bool.and_eq_true, decide_eq_true_eq]
        exact ⟨⟨hk, hv⟩, h.2⟩
      · simp only [FMap.wfFrom, Bool.and_eq_true, decide_eq_true_eq]
        exact ⟨h.1, ih h.2 (by omega)⟩

/-- Writing keeps the canonical form. -/
theorem FMap.wf_put [DecidableEq α] {d : α} {m : FMap α} (h : FMap.wf d m = true) (k : Nat) (v : α) :
    FMap.wf d (FMap.put m d k v) = true := by
  unfold FMap.put
  split
  · exact FMap.wfFrom_erase h k
  · rename_i hv
    exact FMap.wfFrom_insert h (Nat.zero_le k) hv

/-- Writing several keys keeps the canonical form. -/
theorem FMap.wf_putAll [DecidableEq α] {d : α} (ps : List (Nat × α)) {m : FMap α} (h : FMap.wf d m = true) :
    FMap.wf d (FMap.putAll m d ps) = true := by
  unfold FMap.putAll
  induction ps generalizing m with
  | nil => exact h
  | cons p ps ih => exact ih (FMap.wf_put h p.1 p.2)

/-- A read after a write to the same key gives the value written, and any other key is as before. -/
theorem FMap.get_put [DecidableEq α] (m : FMap α) (d : α) (k : Nat) (v : α) (j : Nat) :
    FMap.get (FMap.put m d k v) d j = if j = k then v else FMap.get m d j := by
  unfold FMap.put FMap.get
  split
  · rename_i hv
    rw [FMap.find_erase]
    by_cases hj : j = k <;> simp [hj, hv]
  · rw [FMap.find_insert]
    by_cases hj : j = k <;> simp [hj]

/-- A listed value is read back, whatever the map. -/
theorem FMap.get_insert (m : FMap α) (d : α) (k : Nat) (v : α) (j : Nat) :
    FMap.get (FMap.insert m k v) d j = if j = k then v else FMap.get m d j := by
  unfold FMap.get
  rw [FMap.find_insert]
  by_cases hj : j = k <;> simp [hj]

/-- Keeping some entries keeps the canonical form. -/
theorem FMap.wfFrom_filter [DecidableEq α] {d : α} {lo : Nat} {m : FMap α} (h : FMap.wfFrom d lo m = true) (p : Nat × α → Bool) :
    FMap.wfFrom d lo (m.filter p) = true := by
  induction m generalizing lo with
  | nil => rfl
  | cons x m ih =>
    obtain ⟨k, v⟩ := x
    simp only [FMap.wfFrom, Bool.and_eq_true, decide_eq_true_eq] at h
    by_cases hp : p (k, v) = true
    · simp only [List.filter, hp, FMap.wfFrom, Bool.and_eq_true, decide_eq_true_eq]
      exact ⟨h.1, ih h.2⟩
    · simp only [List.filter, hp]
      exact FMap.wfFrom_mono (ih h.2) (by omega)

/-- Two maps in canonical form that read alike are equal. -/
theorem FMap.ext_get [DecidableEq α] {d : α} {lo : Nat} {m n : FMap α} (hm : FMap.wfFrom d lo m = true) (hn : FMap.wfFrom d lo n = true)
    (h : ∀ k, FMap.get m d k = FMap.get n d k) : m = n := by
  induction m generalizing lo n with
  | nil =>
    cases n with
    | nil => rfl
    | cons q n =>
      obtain ⟨j, u⟩ := q
      simp only [FMap.wfFrom, Bool.and_eq_true, decide_eq_true_eq] at hn
      have := h j
      simp [FMap.get, FMap.find] at this
      exact absurd this.symm hn.1.2
  | cons p m ih =>
    obtain ⟨i, v⟩ := p
    have hm' := hm
    simp only [FMap.wfFrom, Bool.and_eq_true, decide_eq_true_eq] at hm
    cases n with
    | nil =>
      have := h i
      simp [FMap.get, FMap.find] at this
      exact absurd this hm.1.2
    | cons q n =>
      obtain ⟨j, u⟩ := q
      have hn' := hn
      simp only [FMap.wfFrom, Bool.and_eq_true, decide_eq_true_eq] at hn
      have hij : i = j := by
        rcases Nat.lt_trichotomy i j with hlt | heq | hgt
        · have h1 := h i
          have h2 : FMap.find n i = none := FMap.find_below hn.2 (by omega)
          simp [FMap.get, FMap.find, h2, Nat.ne_of_gt hlt] at h1
          exact absurd h1 hm.1.2
        · exact heq
        · have h1 := h j
          have h2 : FMap.find m j = none := FMap.find_below hm.2 (by omega)
          simp [FMap.get, FMap.find, h2, Nat.ne_of_gt hgt] at h1
          exact absurd h1.symm hn.1.2
      subst hij
      have hv : v = u := by
        have := h i
        simpa [FMap.get, FMap.find] using this
      subst hv
      have : m = n := by
        refine ih hm.2 hn.2 ?_
        intro k
        have hk := h k
        by_cases hki : i = k
        · subst hki
          have a : FMap.find m i = none := FMap.find_below hm.2 (by omega)
          have b : FMap.find n i = none := FMap.find_below hn.2 (by omega)
          simp [FMap.get, a, b]
        · simpa [FMap.get, FMap.find, hki] using hk
      rw [this]

end Sys2Proof
end

