-- ==== Sys2Proof/Laws/State.lean ====
section
/-! SUPPORT. What each field holds after each named update of the state and of a warp, so that no proof unfolds an update. -/

namespace Sys2Proof.Machine

/-! ## The state -/

@[simp] theorem State.modW_w (s : State) (f : Warp → Warp) : (s.modW f).w = f s.w := rfl
@[simp] theorem State.modW_g (s : State) (f : Warp → Warp) : (s.modW f).g = s.g := rfl
@[simp] theorem State.modW_warps (s : State) (f : Warp → Warp) : (s.modW f).warps = s.warps := rfl
@[simp] theorem State.modW_wgs (s : State) (f : Warp → Warp) : (s.modW f).wgs = s.wgs := rfl
@[simp] theorem State.modW_grids (s : State) (f : Warp → Warp) : (s.modW f).grids = s.grids := rfl
@[simp] theorem State.modW_packets (s : State) (f : Warp → Warp) : (s.modW f).packets = s.packets := rfl
@[simp] theorem State.modW_mem (s : State) (f : Warp → Warp) : (s.modW f).mem = s.mem := rfl
@[simp] theorem State.modW_poison (s : State) (f : Warp → Warp) : (s.modW f).poison = s.poison := rfl
@[simp] theorem State.modW_sealed (s : State) (f : Warp → Warp) : (s.modW f).sealed = s.sealed := rfl
@[simp] theorem State.modW_fab (s : State) (f : Warp → Warp) : (s.modW f).fab = s.fab := rfl
@[simp] theorem State.modW_courier (s : State) (f : Warp → Warp) : (s.modW f).courier = s.courier := rfl
@[simp] theorem State.modW_host (s : State) (f : Warp → Warp) : (s.modW f).host = s.host := rfl
@[simp] theorem State.modW_pkg (s : State) (f : Warp → Warp) : (s.modW f).pkg = s.pkg := rfl
@[simp] theorem State.modW_clock (s : State) (f : Warp → Warp) : (s.modW f).clock = s.clock := rfl
@[simp] theorem State.modW_events (s : State) (f : Warp → Warp) : (s.modW f).events = s.events := rfl
@[simp] theorem State.modW_order (s : State) (f : Warp → Warp) : (s.modW f).order = s.order := rfl
@[simp] theorem State.modW_outbox (s : State) (f : Warp → Warp) : (s.modW f).outbox = s.outbox := rfl
@[simp] theorem State.modW_nextId (s : State) (f : Warp → Warp) : (s.modW f).nextId = s.nextId := rfl
@[simp] theorem State.modW_freeCount (s : State) (f : Warp → Warp) : (s.modW f).freeCount = s.freeCount := rfl
@[simp] theorem State.modW_acting (s : State) (f : Warp → Warp) : (s.modW f).acting = s.acting := rfl

@[simp] theorem State.modG_w (s : State) (f : Workgroup → Workgroup) : (s.modG f).w = s.w := rfl
@[simp] theorem State.modG_g (s : State) (f : Workgroup → Workgroup) : (s.modG f).g = f s.g := rfl
@[simp] theorem State.modG_warps (s : State) (f : Workgroup → Workgroup) : (s.modG f).warps = s.warps := rfl
@[simp] theorem State.modG_wgs (s : State) (f : Workgroup → Workgroup) : (s.modG f).wgs = s.wgs := rfl
@[simp] theorem State.modG_grids (s : State) (f : Workgroup → Workgroup) : (s.modG f).grids = s.grids := rfl
@[simp] theorem State.modG_packets (s : State) (f : Workgroup → Workgroup) : (s.modG f).packets = s.packets := rfl
@[simp] theorem State.modG_mem (s : State) (f : Workgroup → Workgroup) : (s.modG f).mem = s.mem := rfl
@[simp] theorem State.modG_poison (s : State) (f : Workgroup → Workgroup) : (s.modG f).poison = s.poison := rfl
@[simp] theorem State.modG_sealed (s : State) (f : Workgroup → Workgroup) : (s.modG f).sealed = s.sealed := rfl
@[simp] theorem State.modG_fab (s : State) (f : Workgroup → Workgroup) : (s.modG f).fab = s.fab := rfl
@[simp] theorem State.modG_courier (s : State) (f : Workgroup → Workgroup) : (s.modG f).courier = s.courier := rfl
@[simp] theorem State.modG_host (s : State) (f : Workgroup → Workgroup) : (s.modG f).host = s.host := rfl
@[simp] theorem State.modG_pkg (s : State) (f : Workgroup → Workgroup) : (s.modG f).pkg = s.pkg := rfl
@[simp] theorem State.modG_clock (s : State) (f : Workgroup → Workgroup) : (s.modG f).clock = s.clock := rfl
@[simp] theorem State.modG_events (s : State) (f : Workgroup → Workgroup) : (s.modG f).events = s.events := rfl
@[simp] theorem State.modG_order (s : State) (f : Workgroup → Workgroup) : (s.modG f).order = s.order := rfl
@[simp] theorem State.modG_outbox (s : State) (f : Workgroup → Workgroup) : (s.modG f).outbox = s.outbox := rfl
@[simp] theorem State.modG_nextId (s : State) (f : Workgroup → Workgroup) : (s.modG f).nextId = s.nextId := rfl
@[simp] theorem State.modG_freeCount (s : State) (f : Workgroup → Workgroup) : (s.modG f).freeCount = s.freeCount := rfl
@[simp] theorem State.modG_acting (s : State) (f : Workgroup → Workgroup) : (s.modG f).acting = s.acting := rfl

@[simp] theorem State.push_w (s : State) (e : Instr) : (s.push e).w = s.w := rfl
@[simp] theorem State.push_g (s : State) (e : Instr) : (s.push e).g = s.g := rfl
@[simp] theorem State.push_warps (s : State) (e : Instr) : (s.push e).warps = s.warps := rfl
@[simp] theorem State.push_wgs (s : State) (e : Instr) : (s.push e).wgs = s.wgs := rfl
@[simp] theorem State.push_grids (s : State) (e : Instr) : (s.push e).grids = s.grids := rfl
@[simp] theorem State.push_packets (s : State) (e : Instr) : (s.push e).packets = s.packets := rfl
@[simp] theorem State.push_mem (s : State) (e : Instr) : (s.push e).mem = s.mem := rfl
@[simp] theorem State.push_poison (s : State) (e : Instr) : (s.push e).poison = s.poison := rfl
@[simp] theorem State.push_sealed (s : State) (e : Instr) : (s.push e).sealed = s.sealed := rfl
@[simp] theorem State.push_fab (s : State) (e : Instr) : (s.push e).fab = s.fab := rfl
@[simp] theorem State.push_courier (s : State) (e : Instr) : (s.push e).courier = s.courier := rfl
@[simp] theorem State.push_host (s : State) (e : Instr) : (s.push e).host = s.host := rfl
@[simp] theorem State.push_pkg (s : State) (e : Instr) : (s.push e).pkg = s.pkg := rfl
@[simp] theorem State.push_clock (s : State) (e : Instr) : (s.push e).clock = s.clock := rfl
@[simp] theorem State.push_events (s : State) (e : Instr) : (s.push e).events = s.events ++ [e] := rfl
@[simp] theorem State.push_order (s : State) (e : Instr) : (s.push e).order = s.order := rfl
@[simp] theorem State.push_outbox (s : State) (e : Instr) : (s.push e).outbox = s.outbox := rfl
@[simp] theorem State.push_nextId (s : State) (e : Instr) : (s.push e).nextId = s.nextId := rfl
@[simp] theorem State.push_freeCount (s : State) (e : Instr) : (s.push e).freeCount = s.freeCount := rfl
@[simp] theorem State.push_acting (s : State) (e : Instr) : (s.push e).acting = s.acting := rfl

@[simp] theorem State.tell_w (s : State) (m : OutMsg) : (s.tell m).w = s.w := rfl
@[simp] theorem State.tell_g (s : State) (m : OutMsg) : (s.tell m).g = s.g := rfl
@[simp] theorem State.tell_warps (s : State) (m : OutMsg) : (s.tell m).warps = s.warps := rfl
@[simp] theorem State.tell_wgs (s : State) (m : OutMsg) : (s.tell m).wgs = s.wgs := rfl
@[simp] theorem State.tell_grids (s : State) (m : OutMsg) : (s.tell m).grids = s.grids := rfl
@[simp] theorem State.tell_packets (s : State) (m : OutMsg) : (s.tell m).packets = s.packets := rfl
@[simp] theorem State.tell_mem (s : State) (m : OutMsg) : (s.tell m).mem = s.mem := rfl
@[simp] theorem State.tell_poison (s : State) (m : OutMsg) : (s.tell m).poison = s.poison := rfl
@[simp] theorem State.tell_sealed (s : State) (m : OutMsg) : (s.tell m).sealed = s.sealed := rfl
@[simp] theorem State.tell_fab (s : State) (m : OutMsg) : (s.tell m).fab = s.fab := rfl
@[simp] theorem State.tell_courier (s : State) (m : OutMsg) : (s.tell m).courier = s.courier := rfl
@[simp] theorem State.tell_host (s : State) (m : OutMsg) : (s.tell m).host = s.host := rfl
@[simp] theorem State.tell_pkg (s : State) (m : OutMsg) : (s.tell m).pkg = s.pkg := rfl
@[simp] theorem State.tell_clock (s : State) (m : OutMsg) : (s.tell m).clock = s.clock := rfl
@[simp] theorem State.tell_events (s : State) (m : OutMsg) : (s.tell m).events = s.events := rfl
@[simp] theorem State.tell_order (s : State) (m : OutMsg) : (s.tell m).order = s.order := rfl
@[simp] theorem State.tell_outbox (s : State) (m : OutMsg) : (s.tell m).outbox = s.outbox ++ [m] := rfl
@[simp] theorem State.tell_nextId (s : State) (m : OutMsg) : (s.tell m).nextId = s.nextId := rfl
@[simp] theorem State.tell_freeCount (s : State) (m : OutMsg) : (s.tell m).freeCount = s.freeCount := rfl
@[simp] theorem State.tell_acting (s : State) (m : OutMsg) : (s.tell m).acting = s.acting := rfl

@[simp] theorem State.modFab_w (s : State) (f : Fab → Fab) : (s.modFab f).w = s.w := rfl
@[simp] theorem State.modFab_g (s : State) (f : Fab → Fab) : (s.modFab f).g = s.g := rfl
@[simp] theorem State.modFab_warps (s : State) (f : Fab → Fab) : (s.modFab f).warps = s.warps := rfl
@[simp] theorem State.modFab_wgs (s : State) (f : Fab → Fab) : (s.modFab f).wgs = s.wgs := rfl
@[simp] theorem State.modFab_grids (s : State) (f : Fab → Fab) : (s.modFab f).grids = s.grids := rfl
@[simp] theorem State.modFab_packets (s : State) (f : Fab → Fab) : (s.modFab f).packets = s.packets := rfl
@[simp] theorem State.modFab_mem (s : State) (f : Fab → Fab) : (s.modFab f).mem = s.mem := rfl
@[simp] theorem State.modFab_poison (s : State) (f : Fab → Fab) : (s.modFab f).poison = s.poison := rfl
@[simp] theorem State.modFab_sealed (s : State) (f : Fab → Fab) : (s.modFab f).sealed = s.sealed := rfl
@[simp] theorem State.modFab_fab (s : State) (f : Fab → Fab) : (s.modFab f).fab = f s.fab := rfl
@[simp] theorem State.modFab_courier (s : State) (f : Fab → Fab) : (s.modFab f).courier = s.courier := rfl
@[simp] theorem State.modFab_host (s : State) (f : Fab → Fab) : (s.modFab f).host = s.host := rfl
@[simp] theorem State.modFab_pkg (s : State) (f : Fab → Fab) : (s.modFab f).pkg = s.pkg := rfl
@[simp] theorem State.modFab_clock (s : State) (f : Fab → Fab) : (s.modFab f).clock = s.clock := rfl
@[simp] theorem State.modFab_events (s : State) (f : Fab → Fab) : (s.modFab f).events = s.events := rfl
@[simp] theorem State.modFab_order (s : State) (f : Fab → Fab) : (s.modFab f).order = s.order := rfl
@[simp] theorem State.modFab_outbox (s : State) (f : Fab → Fab) : (s.modFab f).outbox = s.outbox := rfl
@[simp] theorem State.modFab_nextId (s : State) (f : Fab → Fab) : (s.modFab f).nextId = s.nextId := rfl
@[simp] theorem State.modFab_freeCount (s : State) (f : Fab → Fab) : (s.modFab f).freeCount = s.freeCount := rfl
@[simp] theorem State.modFab_acting (s : State) (f : Fab → Fab) : (s.modFab f).acting = s.acting := rfl

@[simp] theorem State.modHost_w (s : State) (f : HostPaths → HostPaths) : (s.modHost f).w = s.w := rfl
@[simp] theorem State.modHost_g (s : State) (f : HostPaths → HostPaths) : (s.modHost f).g = s.g := rfl
@[simp] theorem State.modHost_warps (s : State) (f : HostPaths → HostPaths) : (s.modHost f).warps = s.warps := rfl
@[simp] theorem State.modHost_wgs (s : State) (f : HostPaths → HostPaths) : (s.modHost f).wgs = s.wgs := rfl
@[simp] theorem State.modHost_grids (s : State) (f : HostPaths → HostPaths) : (s.modHost f).grids = s.grids := rfl
@[simp] theorem State.modHost_packets (s : State) (f : HostPaths → HostPaths) : (s.modHost f).packets = s.packets := rfl
@[simp] theorem State.modHost_mem (s : State) (f : HostPaths → HostPaths) : (s.modHost f).mem = s.mem := rfl
@[simp] theorem State.modHost_poison (s : State) (f : HostPaths → HostPaths) : (s.modHost f).poison = s.poison := rfl
@[simp] theorem State.modHost_sealed (s : State) (f : HostPaths → HostPaths) : (s.modHost f).sealed = s.sealed := rfl
@[simp] theorem State.modHost_fab (s : State) (f : HostPaths → HostPaths) : (s.modHost f).fab = s.fab := rfl
@[simp] theorem State.modHost_courier (s : State) (f : HostPaths → HostPaths) : (s.modHost f).courier = s.courier := rfl
@[simp] theorem State.modHost_host (s : State) (f : HostPaths → HostPaths) : (s.modHost f).host = f s.host := rfl
@[simp] theorem State.modHost_pkg (s : State) (f : HostPaths → HostPaths) : (s.modHost f).pkg = s.pkg := rfl
@[simp] theorem State.modHost_clock (s : State) (f : HostPaths → HostPaths) : (s.modHost f).clock = s.clock := rfl
@[simp] theorem State.modHost_events (s : State) (f : HostPaths → HostPaths) : (s.modHost f).events = s.events := rfl
@[simp] theorem State.modHost_order (s : State) (f : HostPaths → HostPaths) : (s.modHost f).order = s.order := rfl
@[simp] theorem State.modHost_outbox (s : State) (f : HostPaths → HostPaths) : (s.modHost f).outbox = s.outbox := rfl
@[simp] theorem State.modHost_nextId (s : State) (f : HostPaths → HostPaths) : (s.modHost f).nextId = s.nextId := rfl
@[simp] theorem State.modHost_freeCount (s : State) (f : HostPaths → HostPaths) : (s.modHost f).freeCount = s.freeCount := rfl
@[simp] theorem State.modHost_acting (s : State) (f : HostPaths → HostPaths) : (s.modHost f).acting = s.acting := rfl

@[simp] theorem State.fresh_w (s : State) : (s.fresh).1.w = s.w := rfl
@[simp] theorem State.fresh_g (s : State) : (s.fresh).1.g = s.g := rfl
@[simp] theorem State.fresh_warps (s : State) : (s.fresh).1.warps = s.warps := rfl
@[simp] theorem State.fresh_wgs (s : State) : (s.fresh).1.wgs = s.wgs := rfl
@[simp] theorem State.fresh_grids (s : State) : (s.fresh).1.grids = s.grids := rfl
@[simp] theorem State.fresh_packets (s : State) : (s.fresh).1.packets = s.packets := rfl
@[simp] theorem State.fresh_mem (s : State) : (s.fresh).1.mem = s.mem := rfl
@[simp] theorem State.fresh_poison (s : State) : (s.fresh).1.poison = s.poison := rfl
@[simp] theorem State.fresh_sealed (s : State) : (s.fresh).1.sealed = s.sealed := rfl
@[simp] theorem State.fresh_fab (s : State) : (s.fresh).1.fab = s.fab := rfl
@[simp] theorem State.fresh_courier (s : State) : (s.fresh).1.courier = s.courier := rfl
@[simp] theorem State.fresh_host (s : State) : (s.fresh).1.host = s.host := rfl
@[simp] theorem State.fresh_pkg (s : State) : (s.fresh).1.pkg = s.pkg := rfl
@[simp] theorem State.fresh_clock (s : State) : (s.fresh).1.clock = s.clock := rfl
@[simp] theorem State.fresh_events (s : State) : (s.fresh).1.events = s.events := rfl
@[simp] theorem State.fresh_order (s : State) : (s.fresh).1.order = s.order := rfl
@[simp] theorem State.fresh_outbox (s : State) : (s.fresh).1.outbox = s.outbox := rfl
@[simp] theorem State.fresh_nextId (s : State) : (s.fresh).1.nextId = s.nextId + 1 := rfl
@[simp] theorem State.fresh_freeCount (s : State) : (s.fresh).1.freeCount = s.freeCount := rfl
@[simp] theorem State.fresh_acting (s : State) : (s.fresh).1.acting = s.acting := rfl
@[simp] theorem State.fresh_value (s : State) : (s.fresh).2 = s.nextId := rfl

@[simp] theorem State.draw_w (s : State) : (s.draw).1.w = s.w := rfl
@[simp] theorem State.draw_g (s : State) : (s.draw).1.g = s.g := rfl
@[simp] theorem State.draw_warps (s : State) : (s.draw).1.warps = s.warps := rfl
@[simp] theorem State.draw_wgs (s : State) : (s.draw).1.wgs = s.wgs := rfl
@[simp] theorem State.draw_grids (s : State) : (s.draw).1.grids = s.grids := rfl
@[simp] theorem State.draw_packets (s : State) : (s.draw).1.packets = s.packets := rfl
@[simp] theorem State.draw_mem (s : State) : (s.draw).1.mem = s.mem := rfl
@[simp] theorem State.draw_poison (s : State) : (s.draw).1.poison = s.poison := rfl
@[simp] theorem State.draw_sealed (s : State) : (s.draw).1.sealed = s.sealed := rfl
@[simp] theorem State.draw_fab (s : State) : (s.draw).1.fab = s.fab := rfl
@[simp] theorem State.draw_courier (s : State) : (s.draw).1.courier = s.courier := rfl
@[simp] theorem State.draw_host (s : State) : (s.draw).1.host = s.host := rfl
@[simp] theorem State.draw_pkg (s : State) : (s.draw).1.pkg = s.pkg := rfl
@[simp] theorem State.draw_clock (s : State) : (s.draw).1.clock = s.clock := rfl
@[simp] theorem State.draw_events (s : State) : (s.draw).1.events = s.events := rfl
@[simp] theorem State.draw_order (s : State) : (s.draw).1.order = s.order := rfl
@[simp] theorem State.draw_outbox (s : State) : (s.draw).1.outbox = s.outbox := rfl
@[simp] theorem State.draw_nextId (s : State) : (s.draw).1.nextId = s.nextId := rfl
@[simp] theorem State.draw_freeCount (s : State) : (s.draw).1.freeCount = s.freeCount + 1 := rfl
@[simp] theorem State.draw_acting (s : State) : (s.draw).1.acting = s.acting := rfl
@[simp] theorem State.draw_value (s : State) : (s.draw).2 = s.freeCount := rfl

/-! ## Warps -/

@[simp] theorem Warp.park_present (w : Warp) (x : Wait) : (w.park x).present = w.present := rfl
@[simp] theorem Warp.park_wg (w : Warp) (x : Wait) : (w.park x).wg = w.wg := rfl
@[simp] theorem Warp.park_wid (w : Warp) (x : Wait) : (w.park x).wid = w.wid := rfl
@[simp] theorem Warp.park_role (w : Warp) (x : Wait) : (w.park x).role = w.role := rfl
@[simp] theorem Warp.park_formed (w : Warp) (x : Wait) : (w.park x).formed = w.formed := rfl
@[simp] theorem Warp.park_vregs (w : Warp) (x : Wait) : (w.park x).vregs = w.vregs := rfl
@[simp] theorem Warp.park_kregs (w : Warp) (x : Wait) : (w.park x).kregs = w.kregs := rfl
@[simp] theorem Warp.park_lpc (w : Warp) (x : Wait) : (w.park x).lpc = w.lpc := rfl
@[simp] theorem Warp.park_preds (w : Warp) (x : Wait) : (w.park x).preds = w.preds := rfl
@[simp] theorem Warp.park_tids (w : Warp) (x : Wait) : (w.park x).tids = w.tids := rfl
@[simp] theorem Warp.park_wident (w : Warp) (x : Wait) : (w.park x).wident = w.wident := rfl
@[simp] theorem Warp.park_aflags (w : Warp) (x : Wait) : (w.park x).aflags = w.aflags := rfl
@[simp] theorem Warp.park_amask (w : Warp) (x : Wait) : (w.park x).amask = w.amask := rfl
@[simp] theorem Warp.park_tb (w : Warp) (x : Wait) : (w.park x).tb = w.tb := rfl
@[simp] theorem Warp.park_frame (w : Warp) (x : Wait) : (w.park x).frame = w.frame := rfl
@[simp] theorem Warp.park_trap (w : Warp) (x : Wait) : (w.park x).trap = w.trap := rfl
@[simp] theorem Warp.park_pendFails (w : Warp) (x : Wait) : (w.park x).pendFails = w.pendFails := rfl
@[simp] theorem Warp.park_clockHi (w : Warp) (x : Wait) : (w.park x).clockHi = w.clockHi := rfl
@[simp] theorem Warp.park_resting (w : Warp) (x : Wait) : (w.park x).resting = w.resting := rfl
@[simp] theorem Warp.park_stopped (w : Warp) (x : Wait) : (w.park x).stopped = w.stopped := rfl
@[simp] theorem Warp.park_rested (w : Warp) (x : Wait) : (w.park x).rested = w.rested := rfl
@[simp] theorem Warp.park_cl (w : Warp) (x : Wait) : (w.park x).cl = w.cl := rfl
@[simp] theorem Warp.park_mac (w : Warp) (x : Wait) : (w.park x).mac = w.mac := rfl
@[simp] theorem Warp.park_outs (w : Warp) (x : Wait) : (w.park x).outs = w.outs := rfl
@[simp] theorem Warp.park_wait (w : Warp) (x : Wait) : (w.park x).wait = x := rfl
@[simp] theorem Warp.park_held (w : Warp) (x : Wait) : (w.park x).held = w.held := rfl
@[simp] theorem Warp.park_observed (w : Warp) (x : Wait) : (w.park x).observed = w.observed := rfl
@[simp] theorem Warp.park_loopLo (w : Warp) (x : Wait) : (w.park x).loopLo = 0 := rfl
@[simp] theorem Warp.park_loopHi (w : Warp) (x : Wait) : (w.park x).loopHi = 0 := rfl
@[simp] theorem Warp.park_loopWords (w : Warp) (x : Wait) : (w.park x).loopWords = [] := rfl
@[simp] theorem Warp.park_part (w : Warp) (x : Wait) : (w.park x).part = w.part := rfl
@[simp] theorem Warp.park_active (w : Warp) (x : Wait) : (w.park x).active = false := rfl
@[simp] theorem Warp.park_age (w : Warp) (x : Wait) : (w.park x).age = w.age := rfl
@[simp] theorem Warp.park_res (w : Warp) (x : Wait) : (w.park x).res = w.res := rfl

@[simp] theorem Warp.unpark_present (w : Warp) : (w.unpark).present = w.present := rfl
@[simp] theorem Warp.unpark_wg (w : Warp) : (w.unpark).wg = w.wg := rfl
@[simp] theorem Warp.unpark_wid (w : Warp) : (w.unpark).wid = w.wid := rfl
@[simp] theorem Warp.unpark_role (w : Warp) : (w.unpark).role = w.role := rfl
@[simp] theorem Warp.unpark_formed (w : Warp) : (w.unpark).formed = w.formed := rfl
@[simp] theorem Warp.unpark_vregs (w : Warp) : (w.unpark).vregs = w.vregs := rfl
@[simp] theorem Warp.unpark_kregs (w : Warp) : (w.unpark).kregs = w.kregs := rfl
@[simp] theorem Warp.unpark_lpc (w : Warp) : (w.unpark).lpc = w.lpc := rfl
@[simp] theorem Warp.unpark_preds (w : Warp) : (w.unpark).preds = w.preds := rfl
@[simp] theorem Warp.unpark_tids (w : Warp) : (w.unpark).tids = w.tids := rfl
@[simp] theorem Warp.unpark_wident (w : Warp) : (w.unpark).wident = w.wident := rfl
@[simp] theorem Warp.unpark_aflags (w : Warp) : (w.unpark).aflags = w.aflags := rfl
@[simp] theorem Warp.unpark_amask (w : Warp) : (w.unpark).amask = w.amask := rfl
@[simp] theorem Warp.unpark_tb (w : Warp) : (w.unpark).tb = w.tb := rfl
@[simp] theorem Warp.unpark_frame (w : Warp) : (w.unpark).frame = w.frame := rfl
@[simp] theorem Warp.unpark_trap (w : Warp) : (w.unpark).trap = w.trap := rfl
@[simp] theorem Warp.unpark_pendFails (w : Warp) : (w.unpark).pendFails = w.pendFails := rfl
@[simp] theorem Warp.unpark_clockHi (w : Warp) : (w.unpark).clockHi = w.clockHi := rfl
@[simp] theorem Warp.unpark_resting (w : Warp) : (w.unpark).resting = w.resting := rfl
@[simp] theorem Warp.unpark_stopped (w : Warp) : (w.unpark).stopped = w.stopped := rfl
@[simp] theorem Warp.unpark_rested (w : Warp) : (w.unpark).rested = w.rested := rfl
@[simp] theorem Warp.unpark_cl (w : Warp) : (w.unpark).cl = w.cl := rfl
@[simp] theorem Warp.unpark_mac (w : Warp) : (w.unpark).mac = w.mac := rfl
@[simp] theorem Warp.unpark_outs (w : Warp) : (w.unpark).outs = w.outs := rfl
@[simp] theorem Warp.unpark_wait (w : Warp) : (w.unpark).wait = .none := rfl
@[simp] theorem Warp.unpark_held (w : Warp) : (w.unpark).held = w.held := rfl
@[simp] theorem Warp.unpark_observed (w : Warp) : (w.unpark).observed = w.observed := rfl
@[simp] theorem Warp.unpark_loopLo (w : Warp) : (w.unpark).loopLo = w.loopLo := rfl
@[simp] theorem Warp.unpark_loopHi (w : Warp) : (w.unpark).loopHi = w.loopHi := rfl
@[simp] theorem Warp.unpark_loopWords (w : Warp) : (w.unpark).loopWords = w.loopWords := rfl
@[simp] theorem Warp.unpark_part (w : Warp) : (w.unpark).part = w.part := rfl
@[simp] theorem Warp.unpark_active (w : Warp) : (w.unpark).active = w.active := rfl
@[simp] theorem Warp.unpark_age (w : Warp) : (w.unpark).age = w.age := rfl
@[simp] theorem Warp.unpark_res (w : Warp) : (w.unpark).res = w.res := rfl

@[simp] theorem Warp.addFlags_present (w : Warp) (f : Word) : (w.addFlags f).present = w.present := rfl
@[simp] theorem Warp.addFlags_wg (w : Warp) (f : Word) : (w.addFlags f).wg = w.wg := rfl
@[simp] theorem Warp.addFlags_wid (w : Warp) (f : Word) : (w.addFlags f).wid = w.wid := rfl
@[simp] theorem Warp.addFlags_role (w : Warp) (f : Word) : (w.addFlags f).role = w.role := rfl
@[simp] theorem Warp.addFlags_formed (w : Warp) (f : Word) : (w.addFlags f).formed = w.formed := rfl
@[simp] theorem Warp.addFlags_vregs (w : Warp) (f : Word) : (w.addFlags f).vregs = w.vregs := rfl
@[simp] theorem Warp.addFlags_kregs (w : Warp) (f : Word) : (w.addFlags f).kregs = w.kregs := rfl
@[simp] theorem Warp.addFlags_lpc (w : Warp) (f : Word) : (w.addFlags f).lpc = w.lpc := rfl
@[simp] theorem Warp.addFlags_preds (w : Warp) (f : Word) : (w.addFlags f).preds = w.preds := rfl
@[simp] theorem Warp.addFlags_tids (w : Warp) (f : Word) : (w.addFlags f).tids = w.tids := rfl
@[simp] theorem Warp.addFlags_wident (w : Warp) (f : Word) : (w.addFlags f).wident = w.wident := rfl
@[simp] theorem Warp.addFlags_aflags (w : Warp) (f : Word) : (w.addFlags f).aflags = w.aflags ||| (f &&& flagBits) := rfl
@[simp] theorem Warp.addFlags_amask (w : Warp) (f : Word) : (w.addFlags f).amask = w.amask := rfl
@[simp] theorem Warp.addFlags_tb (w : Warp) (f : Word) : (w.addFlags f).tb = w.tb := rfl
@[simp] theorem Warp.addFlags_frame (w : Warp) (f : Word) : (w.addFlags f).frame = w.frame := rfl
@[simp] theorem Warp.addFlags_trap (w : Warp) (f : Word) : (w.addFlags f).trap = w.trap := rfl
@[simp] theorem Warp.addFlags_pendFails (w : Warp) (f : Word) : (w.addFlags f).pendFails = w.pendFails := rfl
@[simp] theorem Warp.addFlags_clockHi (w : Warp) (f : Word) : (w.addFlags f).clockHi = w.clockHi := rfl
@[simp] theorem Warp.addFlags_resting (w : Warp) (f : Word) : (w.addFlags f).resting = w.resting := rfl
@[simp] theorem Warp.addFlags_stopped (w : Warp) (f : Word) : (w.addFlags f).stopped = w.stopped := rfl
@[simp] theorem Warp.addFlags_rested (w : Warp) (f : Word) : (w.addFlags f).rested = w.rested := rfl
@[simp] theorem Warp.addFlags_cl (w : Warp) (f : Word) : (w.addFlags f).cl = w.cl := rfl
@[simp] theorem Warp.addFlags_mac (w : Warp) (f : Word) : (w.addFlags f).mac = w.mac := rfl
@[simp] theorem Warp.addFlags_outs (w : Warp) (f : Word) : (w.addFlags f).outs = w.outs := rfl
@[simp] theorem Warp.addFlags_wait (w : Warp) (f : Word) : (w.addFlags f).wait = w.wait := rfl
@[simp] theorem Warp.addFlags_held (w : Warp) (f : Word) : (w.addFlags f).held = w.held := rfl
@[simp] theorem Warp.addFlags_observed (w : Warp) (f : Word) : (w.addFlags f).observed = w.observed := rfl
@[simp] theorem Warp.addFlags_loopLo (w : Warp) (f : Word) : (w.addFlags f).loopLo = w.loopLo := rfl
@[simp] theorem Warp.addFlags_loopHi (w : Warp) (f : Word) : (w.addFlags f).loopHi = w.loopHi := rfl
@[simp] theorem Warp.addFlags_loopWords (w : Warp) (f : Word) : (w.addFlags f).loopWords = w.loopWords := rfl
@[simp] theorem Warp.addFlags_part (w : Warp) (f : Word) : (w.addFlags f).part = w.part := rfl
@[simp] theorem Warp.addFlags_active (w : Warp) (f : Word) : (w.addFlags f).active = w.active := rfl
@[simp] theorem Warp.addFlags_age (w : Warp) (f : Word) : (w.addFlags f).age = w.age := rfl
@[simp] theorem Warp.addFlags_res (w : Warp) (f : Word) : (w.addFlags f).res = w.res := rfl

end Sys2Proof.Machine
end

