-- ==== Sys2Proof/Laws/Ops.lean ====
section
/-! SUPPORT. What the shared operations of warps and workgroups can do, said once for each. -/

namespace Sys2Proof.Machine

/-! ## Registers -/

/-- Installing a value changes nothing but the registers and the predicates. -/
theorem Warp.setKey_frame (w : Warp) (k : Nat) (v : Word) :
    ∃ a b c, w.setKey k v = { w with vregs := a, kregs := b, preds := c } := by
  simp only [Warp.setKey]
  split
  · exact ⟨_, w.kregs, w.preds, rfl⟩
  · split
    · exact ⟨w.vregs, _, w.preds, rfl⟩
    · split
      · exact ⟨w.vregs, w.kregs, w.preds, rfl⟩
      · exact ⟨w.vregs, w.kregs, _, rfl⟩

/-- A vector element or a uniform register reads as the value installed; others keep theirs. -/
theorem Warp.readKey_setKey (w : Warp) (k j : Nat) (v : Word) (hk : k < 4096) :
    (w.setKey k v).readKey j = if j = k then v else w.readKey j := by
  by_cases h1 : k < 2048
  · simp only [Warp.setKey, h1, if_true, Warp.readKey, Warp.pred]
    by_cases h2 : j < 2048
    · simp only [h2, if_true, FMap.get_put]
    · have : j ≠ k := by omega
      simp [h2, this]
  · simp only [Warp.setKey, h1, hk, if_true, if_false, Warp.readKey, Warp.pred]
    by_cases h2 : j < 2048
    · have : j ≠ k := by omega
      simp only [h2, if_true, this, if_false]
    · by_cases h3 : j < 4096
      · simp only [h2, h3, if_true, if_false, FMap.get_put]
        by_cases h4 : j = k
        · simp [h4]
        · have : j - 2048 ≠ k - 2048 := by omega
          simp [h4, this]
      · have : j ≠ k := by omega
        simp [h2, h3, this]

/-- Installing a predicate of a lane leaves every register. -/
theorem Warp.readKey_setKey_pred (w : Warp) (k j : Nat) (v : Word) (hk : 4096 ≤ k) (hj : j < 4096) :
    (w.setKey k v).readKey j = w.readKey j := by
  obtain ⟨h1, h2⟩ : ¬ k < 2048 ∧ ¬ k < 4096 := by omega
  simp only [Warp.setKey, h1, h2, if_false]
  split
  · rfl
  · simp only [Warp.readKey, hj, if_true]

/-- p0 discards what is written to it (R9). -/
theorem Warp.setKey_p0 (w : Warp) (i : Nat) (v : Word) (hi : i < 32) : w.setKey (pkey 0 i) v = w := by
  obtain ⟨h1, h2, h3⟩ : ¬ pkey 0 i < 2048 ∧ ¬ pkey 0 i < 4096 ∧ (pkey 0 i - 4096) / 32 = 0 := by
    simp only [pkey]; omega
  simp only [Warp.setKey, h1, h2, h3, if_true, if_false]

/-- Keeping a value from before a macro changes what the macro keeps alone. -/
theorem Warp.keepOld_frame (w : Warp) (k : Nat) : ∃ d, w.keepOld k = { w with mac := d } := by
  simp only [Warp.keepOld]
  split
  · exact ⟨w.mac, rfl⟩
  · split
    · exact ⟨w.mac, rfl⟩
    · exact ⟨_, rfl⟩

/-- Writing a key changes nothing but registers, predicates, what a macro keeps and the results still to be installed. -/
theorem Warp.writeKey_frame (w : Warp) (k : Nat) (v : Word) :
    ∃ a b c d e, w.writeKey k v = { w with vregs := a, kregs := b, preds := c, mac := d, outs := e } := by
  obtain ⟨d, hd⟩ := w.keepOld_frame k
  obtain ⟨a, b, c, h⟩ := Warp.setKey_frame { w with mac := d } k v
  refine ⟨a, b, c, d, dropKey w.macroFirst k w.outs, ?_⟩
  simp only [Warp.writeKey, hd, h]

/-- Installing a returned result changes nothing but registers, predicates and what a macro keeps. -/
theorem Warp.installKey_frame (w : Warp) (early : Bool) (k : Nat) (v : Word) :
    ∃ a b c d, w.installKey early k v = { w with vregs := a, kregs := b, preds := c, mac := d } := by
  obtain ⟨a, b, c, h⟩ := w.setKey_frame k v
  obtain ⟨d, hd⟩ := w.keepOld_frame k
  obtain ⟨a', b', c', h'⟩ := Warp.setKey_frame { w with mac := d } k v
  simp only [Warp.installKey]
  split
  · exact ⟨a, b, c, w.mac, h⟩
  · split
    · exact ⟨a', b', c', d, by rw [hd, h']⟩
    · split
      · exact ⟨w.vregs, w.kregs, w.preds, _, rfl⟩
      · exact ⟨a, b, c, w.mac, h⟩

/-- The same of a list of writes. -/
theorem Warp.writeKeys_frame (w : Warp) (kvs : List (Nat × Word)) :
    ∃ a b c d e, w.writeKeys kvs = { w with vregs := a, kregs := b, preds := c, mac := d, outs := e } := by
  induction kvs generalizing w with
  | nil => exact ⟨w.vregs, w.kregs, w.preds, w.mac, w.outs, rfl⟩
  | cons p ps ih =>
    obtain ⟨a, b, c, d, e, h⟩ := w.writeKey_frame p.1 p.2
    obtain ⟨a', b', c', d', e', h'⟩ := ih (w.writeKey p.1 p.2)
    refine ⟨a', b', c', d', e', ?_⟩
    show (w.writeKey p.1 p.2).writeKeys ps = _
    rw [h', h]

/-- What a register or predicate reads after a write depends on the value installed alone. -/
theorem Warp.readKey_writeKey (w : Warp) (k j : Nat) (v : Word) : (w.writeKey k v).readKey j = (w.setKey k v).readKey j := by
  obtain ⟨d, hd⟩ := w.keepOld_frame k
  simp only [Warp.writeKey, hd, Warp.setKey]
  split
  · rfl
  · split
    · rfl
    · split <;> rfl

/-- A key that no write names keeps its value. -/
theorem Warp.readKey_writeKeys_of_not_mem (w : Warp) (kvs : List (Nat × Word)) (j : Nat) (hj : j < 4096)
    (h : ∀ p ∈ kvs, p.1 ≠ j) : (w.writeKeys kvs).readKey j = w.readKey j := by
  induction kvs generalizing w with
  | nil => rfl
  | cons p ps ih =>
    show ((w.writeKey p.1 p.2).writeKeys ps).readKey j = _
    rw [ih _ (fun q hq => h q (List.mem_cons_of_mem _ hq)), Warp.readKey_writeKey]
    have hp : p.1 ≠ j := h p (List.mem_cons_self ..)
    by_cases hk : p.1 < 4096
    · rw [Warp.readKey_setKey _ _ _ _ hk, if_neg (Ne.symm hp)]
    · exact Warp.readKey_setKey_pred _ _ _ _ (by omega) hj

/-- The last write to a key stands. -/
theorem Warp.readKey_writeKeys_append (w : Warp) (kvs rest : List (Nat × Word)) (k : Nat) (v : Word) (hk : k < 4096)
    (h : ∀ p ∈ rest, p.1 ≠ k) : (w.writeKeys (kvs ++ (k, v) :: rest)).readKey k = v := by
  have hs : w.writeKeys (kvs ++ (k, v) :: rest) = ((w.writeKeys kvs).writeKey k v).writeKeys rest := by
    simp only [Warp.writeKeys, List.foldl_append, List.foldl_cons]
  rw [hs, Warp.readKey_writeKeys_of_not_mem _ _ _ hk h, Warp.readKey_writeKey, Warp.readKey_setKey _ _ _ _ hk, if_pos rfl]

/-- `z`, `lid` and the extension word receive nothing. -/
theorem destWrites_discard (c : BitVec 6) (act : LaneMask) (f : Nat → Word) (h : 60 ≤ c.toNat) : destWrites c act f = [] := by
  obtain ⟨h1, h2⟩ : ¬ c.toNat < 48 ∧ ¬ c.toNat < 60 := by omega
  simp only [destWrites, h1, h2, if_false]

/-- A destination in no active lane is left as it is. -/
theorem Warp.writeKeys_nil (w : Warp) : w.writeKeys [] = w := rfl

/-! ## Charges (R293, R294) -/

/-- Beginning a forced yield touches the workgroup's flag and cause, and places its event. -/
theorem State.beginForced_frame (s : State) :
    ∃ f c evs, s.beginForced = { s with g := { s.g with forced := f, saveCause := c }, events := s.events ++ evs } := by
  simp only [State.beginForced]
  split
  · exact ⟨s.g.forced, s.g.saveCause, [], by simp⟩
  · exact ⟨true, .exhaustion, _, rfl⟩

/-- Setting the exhaustion latch touches the latch, and wakes the warps that wait on words. -/
theorem State.setLatch_frame (s : State) :
    ∃ l evs, s.setLatch = { s with g := { s.g with latch := l }, events := s.events ++ evs } := by
  simp only [State.setLatch]
  split
  · exact ⟨s.g.latch, [], by simp⟩
  · exact ⟨true, _, rfl⟩

/-- An exhausted purse sets the latch or begins a forced yield, and places events. -/
theorem State.exhaust_frame (s : State) :
    ∃ f c l evs, s.exhaust =
      { s with g := { s.g with forced := f, saveCause := c, latch := l }, events := s.events ++ evs } := by
  simp only [State.exhaust]
  split
  · obtain ⟨f, c, evs, h⟩ := s.beginForced_frame
    exact ⟨f, c, s.g.latch, evs, h⟩
  · obtain ⟨l, evs, h⟩ := s.setLatch_frame
    split
    · obtain ⟨f, c, evs', h'⟩ := s.setLatch.beginForced_frame
      exact ⟨f, c, l, evs ++ evs', by rw [h', h]; simp⟩
    · exact ⟨s.g.forced, s.g.saveCause, l, evs, h⟩

/-- What an emptied purse or grace counter brings about touches the latch, the forced yield, and events. -/
theorem State.runDry_frame (s : State) (grace : Bool) :
    ∃ f c l evs, s.runDry grace =
      { s with g := { s.g with forced := f, saveCause := c, latch := l }, events := s.events ++ evs } := by
  simp only [State.runDry]
  split
  · split
    · exact ⟨s.g.forced, s.g.saveCause, s.g.latch, [], by simp⟩
    · exact ⟨s.g.forced, s.g.saveCause, s.g.latch, _, rfl⟩
  · exact s.exhaust_frame

/-- A debit touches purses, grace counters and what their exhaustion sets: nothing of any warp, of memory or of another
workgroup. -/
theorem State.debit_frame (s : State) (units bytes : Nat) :
    ∃ i m u b f c l evs, s.debit units bytes =
      { s with
        g := { s.g with ipurse := i, mpurse := m, graceUnits := u, graceBytes := b, forced := f, saveCause := c, latch := l }
        events := s.events ++ evs } := by
  have key : ∀ g : Workgroup, (∃ i m u b, g = { s.g with ipurse := i, mpurse := m, graceUnits := u, graceBytes := b }) →
      ∀ (x gr : Bool), ∃ i m u b f c l evs, (if x = true then ({ s with g := g } : State).runDry gr else { s with g := g }) =
        { s with
          g := { s.g with ipurse := i, mpurse := m, graceUnits := u, graceBytes := b, forced := f, saveCause := c, latch := l }
          events := s.events ++ evs } := by
    rintro g ⟨i, m, u, b, rfl⟩ x gr
    split
    · obtain ⟨f, c, l, evs, h⟩ := State.runDry_frame
        { s with g := { s.g with ipurse := i, mpurse := m, graceUnits := u, graceBytes := b } } gr
      exact ⟨i, m, u, b, f, c, l, evs, h⟩
    · exact ⟨i, m, u, b, s.g.forced, s.g.saveCause, s.g.latch, [], by simp⟩
  refine key _ ?_ _ _
  split
  · exact ⟨s.g.ipurse, s.g.mpurse, _, _, rfl⟩
  · exact ⟨_, _, s.g.graceUnits, s.g.graceBytes, rfl⟩

/-- A charge at issue does what a debit does. -/
theorem State.charge_frame (s : State) (units bytes : Nat) :
    ∃ i m u b f c l evs, s.charge units bytes =
      { s with
        g := { s.g with ipurse := i, mpurse := m, graceUnits := u, graceBytes := b, forced := f, saveCause := c, latch := l }
        events := s.events ++ evs } := by
  simp only [State.charge]
  split
  · exact ⟨s.g.ipurse, s.g.mpurse, s.g.graceUnits, s.g.graceBytes, s.g.forced, s.g.saveCause, s.g.latch, [], by simp⟩
  · exact s.debit_frame units bytes

@[simp] theorem State.charge_w (s : State) (units bytes : Nat) : (s.charge units bytes).w = s.w := by
  obtain ⟨_, _, _, _, _, _, _, _, h⟩ := s.charge_frame units bytes
  rw [h]

@[simp] theorem State.charge_mem (s : State) (units bytes : Nat) : (s.charge units bytes).mem = s.mem := by
  obtain ⟨_, _, _, _, _, _, _, _, h⟩ := s.charge_frame units bytes
  rw [h]

/-- A purse reads with what is set aside: never less than what is not (R139, R181). -/
theorem State.le_funds (s : State) (g : Workgroup) (hr : g.resting = false) :
    g.ipurse ≤ (s.funds g).1 ∧ g.mpurse ≤ (s.funds g).2 := by
  simp only [State.funds, hr, State.purses, Bool.false_eq_true, if_false]
  split
  · exact ⟨Nat.le_refl _, Nat.le_refl _⟩
  · exact ⟨Nat.le_add_right _ _, Nat.le_add_right _ _⟩

/-- What leaves something behind empties nothing. -/
theorem runsOut_false (amount was free now : Nat) (hn : now ≠ 0) (hf : amount ≤ free) : runsOut amount was free now = false := by
  have : ¬ free < amount := by omega
  simp [runsOut, hn, this]

/-- A debit that a purse covers with something to spare sets nothing but the two purses (R294). -/
theorem State.debit_covered (s : State) (units bytes : Nat) (hr : s.g.resting = false) (hi : units < s.g.ipurse)
    (hm : bytes < s.g.mpurse) :
    s.debit units bytes = { s with g := { s.g with ipurse := s.g.ipurse - units, mpurse := s.g.mpurse - bytes } } := by
  have h := State.le_funds { s with g := { s.g with ipurse := s.g.ipurse - units, mpurse := s.g.mpurse - bytes } }
    { s.g with ipurse := s.g.ipurse - units, mpurse := s.g.mpurse - bytes } hr
  have h1 := fun was => runsOut_false units was s.g.ipurse _ (Nat.ne_of_gt (Nat.lt_of_lt_of_le (Nat.sub_pos_of_lt hi) h.1)) (Nat.le_of_lt hi)
  have h2 := fun was => runsOut_false bytes was s.g.mpurse _ (Nat.ne_of_gt (Nat.lt_of_lt_of_le (Nat.sub_pos_of_lt hm) h.2)) (Nat.le_of_lt hm)
  simp only [State.debit]
  rw [if_neg (by simp [hr] : ¬ s.g.resting = true), if_neg (by simp [hr] : ¬ s.g.resting = true)]
  exact if_neg (by rw [h1, h2]; simp)

/-- Giving back what was set aside touches purses and grace counters (R181, R297). -/
theorem Workgroup.giveBack_frame (g : Workgroup) (r : Option (Bool × Nat × Nat)) :
    ∃ i m u b h, g.giveBack r = { g with ipurse := i, mpurse := m, graceUnits := u, graceBytes := b, heldPurses := h } := by
  simp only [Workgroup.giveBack]
  split
  · exact ⟨g.ipurse, g.mpurse, g.graceUnits, g.graceBytes, g.heldPurses, rfl⟩
  · exact ⟨g.ipurse, g.mpurse, _, _, g.heldPurses, rfl⟩
  · split
    · exact ⟨g.ipurse, g.mpurse, g.graceUnits, g.graceBytes, _, rfl⟩
    · exact ⟨_, _, g.graceUnits, g.graceBytes, g.heldPurses, rfl⟩

/-- The end of a charge that was set aside touches the warp's and its frame's reservation, the purses and the grace counters. -/
theorem State.unreserve_frame (s : State) :
    ∃ f i m u b h, s.unreserve =
      { s with
        w := { s.w with res := none, frame := f }
        g := { s.g with ipurse := i, mpurse := m, graceUnits := u, graceBytes := b, heldPurses := h } } := by
  obtain ⟨i, m, u, b, h, hg⟩ := s.g.giveBack_frame s.w.res
  simp only [State.unreserve]
  split
  · obtain ⟨i', m', u', b', h', hg'⟩ := (s.g.giveBack s.w.res).giveBack_frame (s.w.frame.bind (fun f => f.res))
    exact ⟨_, i', m', u', b', h', by rw [hg', hg]⟩
  · exact ⟨s.w.frame, i, m, u, b, h, by rw [hg]⟩

/-- With nothing set aside, there is nothing to give back. -/
theorem State.unreserve_none (s : State) (h : s.w.res = none) (hf : ∀ f, s.w.frame = some f → f.res = none) : s.unreserve = s := by
  have hg : s.g.giveBack none = s.g := rfl
  have hw : ({ s.w with res := none } : Warp) = s.w := by rw [← h]
  simp only [State.unreserve, h, hg]
  split
  · cases hfr : s.w.frame with
    | none =>
      have : ({ s.w with res := none, frame := none } : Warp) = s.w := by rw [← h, ← hfr]
      simp [Option.map, Option.bind, hg, this]
    | some f =>
      have hr := hf f hfr
      have h1 : ({ f with res := none } : Frame) = f := by rw [← hr]
      have : ({ s.w with res := none, frame := some f } : Warp) = s.w := by rw [← h, ← hfr]
      simp [Option.map, Option.bind, hr, hg, h1, this]
  · rw [hw]

/-! ## Moving through a clause (R12, R35) -/

/-- Ending a clause changes `lpc`, the resting mark and the clause; a warp of which every lane rests leaves the active set (R291). -/
theorem Warp.endClause_frame (w : Warp) :
    ∃ l r c a x y z, w.endClause = { w with lpc := l, resting := r, cl := c, active := a, loopLo := x, loopHi := y, loopWords := z } := by
  simp only [Warp.endClause]
  split
  · exact ⟨w.lpc, w.resting, w.cl, w.active, w.loopLo, w.loopHi, w.loopWords, rfl⟩
  · split
    · exact ⟨_, _, none, false, 0, 0, [], rfl⟩
    · exact ⟨_, _, none, w.active, w.loopLo, w.loopHi, w.loopWords, rfl⟩

/-- Filling the loop buffer changes the buffer alone (R135). -/
theorem State.fillLoop_frame (s : State) (lo hi : Nat) :
    ∃ a b c, s.fillLoop lo hi = { s with w := { s.w with loopLo := a, loopHi := b, loopWords := c } } := by
  simp only [State.fillLoop]
  split
  · exact ⟨s.w.loopLo, s.w.loopHi, s.w.loopWords, rfl⟩
  · exact ⟨_, _, _, rfl⟩

/-- So does what a clause's transfer fills. -/
theorem State.fillDue_frame (s : State) (c : Clause) :
    ∃ x y z, s.fillDue c = { s with w := { s.w with loopLo := x, loopHi := y, loopWords := z } } := by
  simp only [State.fillDue]
  split
  · exact s.fillLoop_frame _ _
  · exact ⟨s.w.loopLo, s.w.loopHi, s.w.loopWords, rfl⟩

/-- Closing a clause changes of the warp its `lpc`, resting mark and clause, its loop buffer and place in the active set, and what is set aside;
of the workgroup, what is given back, and spawn memory, which takes the records of lanes that leave by BRA.SPLIT. Nothing of any register, and
nothing of memory. -/
theorem State.closeClause_frame (s : State) :
    ∃ l r c a x y z q f i m u b h rs, s.closeClause =
      { s with
        w := { s.w with lpc := l, resting := r, cl := c, active := a, loopLo := x, loopHi := y, loopWords := z, res := q, frame := f }
        g := { s.g with ipurse := i, mpurse := m, graceUnits := u, graceBytes := b, heldPurses := h, spawn := s.g.spawn ++ rs } } := by
  simp only [State.closeClause]
  split
  · exact ⟨s.w.lpc, s.w.resting, s.w.cl, s.w.active, s.w.loopLo, s.w.loopHi, s.w.loopWords, s.w.res, s.w.frame, s.g.ipurse, s.g.mpurse,
      s.g.graceUnits, s.g.graceBytes, s.g.heldPurses, [], by simp⟩
  · rename_i c hc
    split
    · obtain ⟨x, y, z, hs⟩ := s.fillDue_frame c
      rw [hs]
      obtain ⟨l, r, c', a, x', y', z', hw⟩ := Warp.endClause_frame { s.w with loopLo := x, loopHi := y, loopWords := z }
      rw [hw]
      split
      · obtain ⟨f, i, m, u, b, h, hu⟩ := State.unreserve_frame
          { s with
            w := { s.w with lpc := l, resting := r, cl := c', active := a, loopLo := x', loopHi := y', loopWords := z' }
            g := { s.g with spawn := s.g.spawn ++ s.w.leavers c } }
        exact ⟨l, r, c', a, x', y', z', none, f, i, m, u, b, h, s.w.leavers c, hu⟩
      · exact ⟨l, r, c', a, x', y', z', s.w.res, s.w.frame, s.g.ipurse, s.g.mpurse, s.g.graceUnits, s.g.graceBytes, s.g.heldPurses,
          s.w.leavers c, rfl⟩
    · exact ⟨s.w.lpc, s.w.resting, s.w.cl, s.w.active, s.w.loopLo, s.w.loopHi, s.w.loopWords, s.w.res, s.w.frame, s.g.ipurse, s.g.mpurse,
        s.g.graceUnits, s.g.graceBytes, s.g.heldPurses, [], by simp⟩

/-- Where no lane leaves by BRA.SPLIT and nothing is set aside, closing a clause changes the warp alone. -/
theorem State.closeClause_plain (s : State) (h : ∀ c, s.w.cl = some c → c.split = none) (hr : s.w.res = none)
    (hf : ∀ f, s.w.frame = some f → f.res = none) :
    ∃ l r c a x y z, s.closeClause =
      { s with w := { s.w with lpc := l, resting := r, cl := c, active := a, loopLo := x, loopHi := y, loopWords := z } } := by
  simp only [State.closeClause]
  split
  · exact ⟨s.w.lpc, s.w.resting, s.w.cl, s.w.active, s.w.loopLo, s.w.loopHi, s.w.loopWords, rfl⟩
  · rename_i c hc
    split
    · obtain ⟨x, y, z, hs⟩ := s.fillDue_frame c
      rw [hs]
      obtain ⟨l, r, c', a, x', y', z', hw⟩ := Warp.endClause_frame { s.w with loopLo := x, loopHi := y, loopWords := z }
      have hl : s.w.leavers c = [] := by simp [Warp.leavers, h c hc]
      rw [hw, hl, List.append_nil]
      refine ⟨l, r, c', a, x', y', z', ?_⟩
      split
      · exact State.unreserve_none _ hr hf
      · rfl
    · exact ⟨s.w.lpc, s.w.resting, s.w.cl, s.w.active, s.w.loopLo, s.w.loopHi, s.w.loopWords, rfl⟩

/-- Passing an instruction moves the clause on; after any but BRA.SPLIT no lane is about to leave. -/
theorem Warp.advance_frame (w : Warp) (len : Nat) :
    ∃ c, w.advance len = { w with cl := c } ∧ ∀ x, c = some x → x.split = none := by
  simp only [Warp.advance]
  split
  · rename_i h
    exact ⟨w.cl, rfl, by simp [h]⟩
  · exact ⟨_, rfl, by simp⟩

/-- An instruction outside a macro, with no switch marker, retires by moving through its clause: nothing else of the
machine changes, where nothing is set aside for an MX clause. -/
theorem State.retire_plain (s : State) (i : Instr) (o : Ops) (hm : s.w.mac = none) (ho : o.s = false)
    (hi : i.isSplit = false) (hr : s.w.res = none) (hf : ∀ f, s.w.frame = some f → f.res = none) :
    ∃ l r c a x y z, s.retire i o =
      { s with w := { s.w with lpc := l, resting := r, cl := c, active := a, loopLo := x, loopHi := y, loopWords := z } } := by
  obtain ⟨c, h, hc⟩ := s.w.advance_frame i.lenBytes
  unfold State.retire
  split
  · rename_i m hm'
    rw [hm] at hm'
    exact absurd hm' (by simp)
  · simp only [ho, hi, State.modW, h, Bool.false_eq_true, if_false]
    split
    · obtain ⟨l, r, c', a, x, y, z, h'⟩ := State.closeClause_plain { s with w := { s.w with cl := c } } hc hr hf
      exact ⟨l, r, c', a, x, y, z, h'⟩
    · exact ⟨s.w.lpc, s.w.resting, c, s.w.active, s.w.loopLo, s.w.loopHi, s.w.loopWords, rfl⟩

/-- Waiting changes the warp's wait, its place in the active set, its loop buffer and the mark that it was charged. -/
theorem State.stall_frame (s : State) (x : Wait) :
    ∃ c, s.stall x = { s with w := { (s.w.park x) with cl := c } } := ⟨_, rfl⟩

/-! ## Exceptions (R300 to R308) -/

/-- A walk that must first ask a home is no exception: the warp waits for the answer (R309). -/
theorem State.raiseRec_walk (s : State) (r : TrapRec) (h : r.cause = .walkWait) :
    s.raiseRec r = { s with w := s.w.park (.walk r.addr.toNat) } := by
  simp only [State.raiseRec, h, if_true]

/-- A cause that goes to the warp's handler is delivered there. -/
theorem State.raiseRec_handler (s : State) (r : TrapRec) (hw : r.cause ≠ .walkWait) (h : r.cause.toHost = false) :
    s.raiseRec r = s.deliver r := by
  simp only [State.raiseRec, h, hw]
  simp

/-- A host-destined cause parks the warp on a token, whether or not the fault buffer has a free entry (R304, R310). -/
theorem State.raiseRec_host (s : State) (r : TrapRec) (hw : r.cause ≠ .walkWait) (h : r.cause.toHost = true) :
    (s.raiseRec r).w = { s.w.park (.token (s.parkFault (.warp s.warpId) r.addrs (s.warpRecord r)).2) with trap := some r } := by
  have hp : (s.parkFault (.warp s.warpId) r.addrs (s.warpRecord r)).1.w = s.w := by
    simp only [State.parkFault]
    split <;> rfl
  simp only [State.raiseRec, h, hw, if_false, if_true]
  rw [← hp]

/-- A trap delivered to a warp with a handler, outside it and with nothing outstanding, enters it at once (R302). -/
theorem State.deliver_enters (s : State) (r : TrapRec) (ht : s.g.tvec ≠ lpcExited) (hf : s.w.frame = none)
    (ha : s.w.awaits (fun o => o.hasDest) = false) : s.deliver r = { s with w := s.w.enterHandler r s.g.tvec } := by
  simp only [State.deliver, hf, ha]
  simp [ht]

/-- A trap without a handler, or inside one, is fatal to the grid (R308). -/
theorem State.deliver_fatal (s : State) (r : TrapRec) (h : s.g.tvec = lpcExited ∨ s.w.frame.isSome = true) :
    s.deliver r = s.fatal 3 := by
  simp only [State.deliver]
  rcases h with h | h <;> simp [h]

/-- Entering the handler saves the frame and writes the trap block; the warp is in its handler. -/
theorem Warp.enterHandler_frame_isSome (w : Warp) (r : TrapRec) (tvec : Word) :
    (w.enterHandler r tvec).frame.isSome = true ∧ (w.enterHandler r tvec).trap = none ∧ (w.enterHandler r tvec).cl = none :=
  ⟨rfl, rfl, rfl⟩

/-- The return from a trap that no clause resumes and no failure follows touches the warp whose turn it is, and what is given back to its
workgroup (R181, R307). -/
theorem State.returnTrap_frame (s : State) (fr : Frame) (hf : s.w.frame = some fr) (hp : fr.pend = []) (hc : fr.cl = none) :
    ∃ w i m u b h, s.returnTrap =
      { s with w := w, g := { s.g with ipurse := i, mpurse := m, graceUnits := u, graceBytes := b, heldPurses := h } } := by
  obtain ⟨f, i, m, u, b, h, hu⟩ := s.unreserve_frame
  have hfr : ∃ r, s.unreserve.w.frame = some { fr with res := r } := by
    simp only [State.unreserve]
    split
    · exact ⟨none, by simp [hf]⟩
    · exact ⟨fr.res, hf⟩
  obtain ⟨r, hfr⟩ := hfr
  simp only [State.returnTrap]
  split
  · rename_i h0
    rw [hfr] at h0
    cases h0
  · rename_i f' h0
    rw [hfr] at h0
    cases h0
    simp only [hc, hp, Option.isSome_none, Bool.false_eq_true, if_false]
    obtain ⟨f2, i2, m2, u2, b2, h2, hu2⟩ := State.unreserve_frame { s.unreserve with w := { s.unreserve.w with
      lpc := s.unreserve.w.live.toList.foldl (fun m i => FMap.put m lpcExited i (FMap.get fr.lpc lpcExited i)) s.unreserve.w.lpc
      preds := fr.preds, cl := none, mac := none, frame := none, tb := {}, res := r
      pendFails := [], wait := .none, loopLo := 0, loopHi := 0, loopWords := [] } }
    rw [hu2, hu]
    exact ⟨_, i2, m2, u2, b2, h2, rfl⟩

/-! ## Whose turn it is -/

/-- The workgroup whose turn it is keeps it. -/
theorem State.focusWg_self (s : State) (n : Nat) (h : s.g.serial = n) : s.focusWg n = s := by
  simp only [State.focusWg, h, if_true]

/-- The warp whose turn it is keeps it. -/
theorem State.focusWarp_self (s : State) (id : WarpId) (hg : s.g.serial = id.wg) (hp : s.w.present = true) (hw : s.w.wg = id.wg)
    (hi : s.w.wid = id.wid) : s.focusWarp id = s := by
  simp only [State.focusWarp, State.focusWg_self s id.wg hg, hp, hw, hi]
  simp

/-- Changing whose turn it is touches only who holds it and the lists of the others. -/
theorem State.focusWg_frame (s : State) (n : Nat) :
    ∃ w g ws gs, s.focusWg n = { s with w := w, g := g, warps := ws, wgs := gs } := by
  simp only [State.focusWg]
  split
  · exact ⟨s.w, s.g, s.warps, s.wgs, rfl⟩
  · split
    · exact ⟨_, s.g, _, s.wgs, rfl⟩
    · exact ⟨_, _, _, _, rfl⟩

/-- The same of a warp's turn. -/
theorem State.focusWarp_frame (s : State) (id : WarpId) :
    ∃ w g ws gs, s.focusWarp id = { s with w := w, g := g, warps := ws, wgs := gs } := by
  obtain ⟨w, g, ws, gs, h⟩ := s.focusWg_frame id.wg
  simp only [State.focusWarp, h]
  split
  · exact ⟨w, g, ws, gs, rfl⟩
  · split
    · exact ⟨_, g, _, gs, rfl⟩
    · exact ⟨_, g, _, gs, rfl⟩

/-! ## The abort of a grid (R317) -/

/-- A killed warp has no live lane's offset left and waits for nothing. -/
theorem Warp.kill_wait (w : Warp) : w.kill.wait = .none ∧ w.kill.lpc = [] ∧ w.kill.res = none := ⟨rfl, rfl, rfl⟩

/-- What a killed warp still has under way awaits its replies, and writes no register (R316). -/
theorem Warp.kill_outs (w : Warp) : ∀ o ∈ w.kill.outs, ∃ p ∈ w.outs, o = p.discarded ∧ p.waiting ≠ 0 := by
  intro o ho
  simp only [Warp.kill, List.mem_map, List.mem_filter, Bool.and_eq_true, bne_iff_ne, ne_eq] at ho
  obtain ⟨p, ⟨hp, hw, _⟩, rfl⟩ := ho
  exact ⟨p, hp, rfl, hw⟩

end Sys2Proof.Machine
end

