-- ==== Sys2Proof/Laws/Memory.lean ====
section
/-! SUPPORT. Laws of memory: reading after writing, and that every operation that writes memory keeps its canonical form. -/

namespace Sys2Proof.Machine

/-! ## Bytes -/

/-- Writing a byte keeps the canonical form. -/
theorem writeByte_wf {m : List Host.Cell} (h : Memory.wf m = true) (k : Nat) (b : Byte) : Memory.wf (writeByte m k b) = true :=
  FMap.wf_put h k b

/-- Writing cells keeps the canonical form. -/
theorem writeCells_wf {m : List Host.Cell} (h : Memory.wf m = true) (cs : List Host.Cell) : Memory.wf (writeCells m cs) = true :=
  FMap.wf_putAll cs h

/-- A read after a write of one byte. -/
theorem readByte_writeByte (m : List Host.Cell) (k : Nat) (b : Byte) (j : Nat) :
    readByte (writeByte m k b) j = if j = k then b else readByte m j :=
  FMap.get_put m _ k b j

/-- A byte outside the cells written reads as before. -/
theorem readByte_writeCells_other (m : List Host.Cell) (cs : List Host.Cell) {j : Nat}
    (hj : ∀ c ∈ cs, c.1 ≠ j) : readByte (writeCells m cs) j = readByte m j := by
  unfold writeCells FMap.putAll
  induction cs generalizing m with
  | nil => rfl
  | cons c cs ih =>
    have := ih (FMap.put m 0#8 c.1 c.2) (fun c' hc' => hj c' (List.mem_cons_of_mem _ hc'))
    rw [List.foldl_cons]
    refine this.trans ?_
    exact (FMap.get_put m 0#8 c.1 c.2 j).trans (if_neg (Ne.symm (hj c (List.mem_cons_self ..))))

/-- The last cell written for a key is what the key reads as. -/
theorem readByte_writeCells_last (m : List Host.Cell) (cs ds : List Host.Cell) (k : Nat) (b : Byte)
    (hd : ∀ c ∈ ds, c.1 ≠ k) : readByte (writeCells m (cs ++ (k, b) :: ds)) k = b := by
  have hsplit : writeCells m (cs ++ (k, b) :: ds) = writeCells (writeByte (writeCells m cs) k b) ds := by
    simp [writeCells, FMap.putAll, writeByte, List.foldl_append]
  rw [hsplit, readByte_writeCells_other _ ds hd, readByte_writeByte, if_pos rfl]

/-! ## Ciphers (R357) -/

/-- Bringing a sector under a cipher keeps the canonical form. -/
theorem State.reseal_wf {s : State} (h : Memory.wf s.mem = true) (k : Nat) : Memory.wf (s.reseal k).mem = true := by
  unfold State.reseal
  split
  · exact h
  · exact writeCells_wf h _

/-- Bringing a sector under a cipher touches memory and the record of ciphers, nothing else. -/
theorem State.reseal_frame (s : State) (k : Nat) : ∃ m f, s.reseal k = { s with mem := m, sealed := f } := by
  unfold State.reseal
  split
  · exact ⟨s.mem, s.sealed, rfl⟩
  · exact ⟨_, _, rfl⟩

/-- A fold of resealings touches memory and the record of ciphers, and keeps the canonical form. -/
theorem State.reseals (cs : List Host.Cell) (s : State) :
    (∃ m f, cs.foldl (fun s c => s.reseal c.1) s = { s with mem := m, sealed := f })
      ∧ (Memory.wf s.mem = true → Memory.wf (cs.foldl (fun s c => s.reseal c.1) s).mem = true) := by
  induction cs generalizing s with
  | nil => exact ⟨⟨s.mem, s.sealed, rfl⟩, id⟩
  | cons c cs ih =>
    obtain ⟨⟨m, f, h1⟩, h2⟩ := ih (s.reseal c.1)
    obtain ⟨m0, f0, h0⟩ := s.reseal_frame c.1
    refine ⟨⟨m, f, ?_⟩, fun h => h2 (State.reseal_wf h c.1)⟩
    rw [List.foldl_cons, h1, h0]

/-- A store of bytes touches memory and the record of ciphers, nothing else. -/
theorem State.storeCells_frame (s : State) (cs : List Host.Cell) : ∃ m f, s.storeCells cs = { s with mem := m, sealed := f } := by
  obtain ⟨⟨m, f, h⟩, _⟩ := State.reseals cs s
  refine ⟨writeCells m cs, f, ?_⟩
  simp only [State.storeCells, h]

/-- A store of bytes keeps the canonical form. -/
theorem State.storeCells_wf {s : State} (h : Memory.wf s.mem = true) (cs : List Host.Cell) : Memory.wf (s.storeCells cs).mem = true :=
  writeCells_wf ((State.reseals cs s).2 h) cs

/-- Where every sector written stands under the cipher it is written under, a store only writes its bytes. -/
theorem State.storeCells_plain (s : State) (cs : List Host.Cell) (h : ∀ c ∈ cs, s.cipherAt c.1 = keyCipher c.1) :
    s.storeCells cs = { s with mem := writeCells s.mem cs } := by
  have e : ∀ (l : List Host.Cell), (∀ c ∈ l, s.cipherAt c.1 = keyCipher c.1) → l.foldl (fun s c => s.reseal c.1) s = s := by
    intro l
    induction l with
    | nil => exact fun _ => rfl
    | cons c l ih =>
      intro hl
      have hc : s.reseal c.1 = s := if_pos (hl c (List.mem_cons_self ..))
      rw [List.foldl_cons, hc]
      exact ih (fun x hx => hl x (List.mem_cons_of_mem _ hx))
  simp only [State.storeCells, e cs h]

/-- Bytes written at consecutive keys read as written. -/
theorem readByte_writeCells_range (m : List Host.Cell) (lo : Nat) (f : Nat → Byte) (n j : Nat) (h : j < n) :
    readByte (writeCells m ((List.range n).map (fun i => (lo + i, f i)))) (lo + j) = f j := by
  induction n with
  | zero => omega
  | succ n ih =>
    have e : (List.range (n + 1)).map (fun i => (lo + i, f i)) = (List.range n).map (fun i => (lo + i, f i)) ++ [(lo + n, f n)] := by
      rw [List.range_succ, List.map_append]; rfl
    rw [e]
    have e2 : ∀ (a : List Host.Cell) (x : Host.Cell), writeCells m (a ++ [x]) = writeByte (writeCells m a) x.1 x.2 := by
      intro a x; simp [writeCells, FMap.putAll, writeByte, List.foldl_append]
    rw [e2, readByte_writeByte]
    split
    · have : j = n := by omega
      rw [this]
    · exact ih (by omega)

/-- The cipher that sectors stand under once one has been brought under a cipher. -/
theorem State.cipherAt_reseal (s : State) (k j : Nat) :
    (s.reseal k).cipherAt j = if keyPlace j / 32 = keyPlace k / 32 then keyCipher k else s.cipherAt j := by
  unfold State.reseal
  split
  · rename_i h
    split
    · rename_i e; unfold State.cipherAt at h ⊢; rw [e, h]
    · rfl
  · exact FMap.get_put s.sealed 0 _ _ _

/-- Bringing a sector under a cipher changes what no key reads but those that reach the sector under another (R357). -/
theorem State.memByte_reseal (s : State) (k j : Nat) (h : keyPlace k / 32 = keyPlace j / 32 → keyCipher k = keyCipher j) :
    (s.reseal k).memByte j = s.memByte j := by
  by_cases hc : s.cipherAt k = keyCipher k
  · rw [State.reseal, if_pos hc]
  · have hm : (s.reseal k).mem = writeCells s.mem ((List.range 32).map (fun i => (k - k % 32 + i, s.memByte (k - k % 32 + i)))) := by
      rw [State.reseal, if_neg hc]
    have keep : ∀ x, keyPlace x / 32 ≠ keyPlace k / 32 → readByte (s.reseal k).mem x = readByte s.mem x := by
      intro x hx
      rw [hm]
      refine readByte_writeCells_other _ _ ?_
      intro c hcm
      obtain ⟨i, hi, rfl⟩ := List.mem_map.1 hcm
      have := List.mem_range.1 hi
      unfold keyPlace at hx
      dsimp only
      omega
    by_cases hs : keyPlace j / 32 = keyPlace k / 32
    · have hq := h hs.symm
      have hj : j = k - k % 32 + j % 32 := by unfold keyPlace keyCipher at *; omega
      have hr : readByte (s.reseal k).mem j = s.memByte j := by
        have := readByte_writeCells_range s.mem (k - k % 32) (fun i => s.memByte (k - k % 32 + i)) 32 (j % 32) (Nat.mod_lt _ (by decide))
        rw [← hj] at this
        rw [hm]
        exact this
      have hct : (s.reseal k).cipherAt j = keyCipher j := by rw [State.cipherAt_reseal, if_pos hs, hq]
      rw [State.memByte]
      simp only [hct, if_true]
      exact hr
    · have hct : (s.reseal k).cipherAt j = s.cipherAt j := by rw [State.cipherAt_reseal, if_neg hs]
      have hx : ∀ i, i < 32 → keyPlace (2 ^ 80 * s.cipherAt j + (keyPlace j - keyPlace j % 32) + i) / 32 ≠ keyPlace k / 32 := by
        intro i hi; unfold keyPlace at *; omega
      have hl : (List.range 32).map (fun i => readByte (s.reseal k).mem (2 ^ 80 * s.cipherAt j + (keyPlace j - keyPlace j % 32) + i))
          = (List.range 32).map (fun i => readByte s.mem (2 ^ 80 * s.cipherAt j + (keyPlace j - keyPlace j % 32) + i)) := by
        refine List.map_congr_left (fun i hi => keep _ (hx i (List.mem_range.1 hi)))
      simp only [State.memByte, hct, keep j hs, hl]

/-- The cipher that sectors stand under after a store: that of the cells written to them, else as before. -/
theorem State.cipherAt_storeCells (s : State) (cs : List Host.Cell) (j q : Nat)
    (h : ∀ c ∈ cs, keyPlace j / 32 = keyPlace c.1 / 32 → keyCipher c.1 = q) :
    (s.storeCells cs).cipherAt j = if cs.any (fun c => keyPlace j / 32 == keyPlace c.1 / 32) then q else s.cipherAt j := by
  have e : (s.storeCells cs).cipherAt j = (cs.foldl (fun s c => s.reseal c.1) s).cipherAt j := rfl
  rw [e]
  clear e
  induction cs generalizing s with
  | nil => simp
  | cons c cs ih =>
    rw [List.foldl_cons, ih _ (fun d hd => h d (List.mem_cons_of_mem _ hd)), State.cipherAt_reseal]
    by_cases hs : keyPlace j / 32 = keyPlace c.1 / 32
    · have := h c (List.mem_cons_self ..) hs
      simp [hs, this]
    · have hb : (keyPlace j / 32 == keyPlace c.1 / 32) = false := by simpa using hs
      rw [if_neg hs, List.any_cons, hb, Bool.false_or]

/-- A store leaves what every other byte reads as, but for bytes of a sector written under another cipher (R357). -/
theorem State.memByte_storeCells_other (s : State) (cs : List Host.Cell) (j : Nat)
    (h : ∀ c ∈ cs, c.1 ≠ j ∧ (keyPlace c.1 / 32 = keyPlace j / 32 → keyCipher c.1 = keyCipher j)) :
    (s.storeCells cs).memByte j = s.memByte j := by
  have h1 : ∀ (l : List Host.Cell) (s : State), (∀ c ∈ l, keyPlace c.1 / 32 = keyPlace j / 32 → keyCipher c.1 = keyCipher j) →
      (l.foldl (fun s c => s.reseal c.1) s).memByte j = s.memByte j := by
    intro l
    induction l with
    | nil => exact fun _ _ => rfl
    | cons c l ih =>
      intro s hl
      rw [List.foldl_cons, ih _ (fun d hd => hl d (List.mem_cons_of_mem _ hd)), State.memByte_reseal _ _ _ (hl c (List.mem_cons_self ..))]
  rw [← h1 cs s (fun c hc => (h c hc).2)]
  have hc : (s.storeCells cs).cipherAt j = (cs.foldl (fun s c => s.reseal c.1) s).cipherAt j := rfl
  have hm : (s.storeCells cs).mem = writeCells (cs.foldl (fun s c => s.reseal c.1) s).mem cs := rfl
  generalize s.storeCells cs = u at hc hm ⊢
  generalize cs.foldl (fun s c => s.reseal c.1) s = t at hc hm ⊢
  have hr : readByte u.mem j = readByte t.mem j := by
    rw [hm]; exact readByte_writeCells_other _ _ (fun c hcm => (h c hcm).1)
  by_cases e : t.cipherAt j = keyCipher j
  · simp only [State.memByte, hc, e, if_true, hr]
  · have hl : (List.range 32).map (fun i => readByte u.mem (2 ^ 80 * t.cipherAt j + (keyPlace j - keyPlace j % 32) + i))
        = (List.range 32).map (fun i => readByte t.mem (2 ^ 80 * t.cipherAt j + (keyPlace j - keyPlace j % 32) + i)) := by
      refine List.map_congr_left (fun i hi => ?_)
      have hi := List.mem_range.1 hi
      rw [hm]
      refine readByte_writeCells_other _ _ (fun c hcm hx => ?_)
      have := (h c hcm).2
      unfold keyPlace keyCipher at *
      omega
    simp only [State.memByte, hc, hl, hr]

/-- A byte written last for its key, in a sector written under one cipher, reads as written (R227, R357). -/
theorem State.memByte_storeCells_last (s : State) (cs ds : List Host.Cell) (k : Nat) (b : Byte) (hd : ∀ c ∈ ds, c.1 ≠ k)
    (h : ∀ c ∈ cs ++ (k, b) :: ds, keyPlace k / 32 = keyPlace c.1 / 32 → keyCipher c.1 = keyCipher k) :
    (s.storeCells (cs ++ (k, b) :: ds)).memByte k = b := by
  have hc : (s.storeCells (cs ++ (k, b) :: ds)).cipherAt k = keyCipher k := by
    rw [State.cipherAt_storeCells s _ k (keyCipher k) h, if_pos]
    simp
  rw [State.memByte]
  simp only [hc, if_true]
  exact readByte_writeCells_last _ cs ds k b hd
/-! ## Operations that leave memory as it is -/

/-- A fold of steps that each leave memory leaves it. -/
theorem foldl_mem {β : Type} (f : State → β → State) (hf : ∀ s b, (f s b).mem = s.mem) (l : List β) (s : State) :
    (l.foldl f s).mem = s.mem := by
  induction l generalizing s with
  | nil => rfl
  | cons b l ih => exact (ih _).trans (hf s b)

@[simp] theorem State.debit_mem (s : State) (units bytes : Nat) : (s.debit units bytes).mem = s.mem := by
  obtain ⟨_, _, _, _, _, _, _, _, h⟩ := s.debit_frame units bytes
  rw [h]

/-- What is done as another workgroup leaves memory when it does so as this one. -/
theorem State.onWg_mem (s : State) (n : Nat) (f : State → State) (hf : ∀ s, (f s).mem = s.mem) : (s.onWg n f).mem = s.mem := by
  simp only [State.onWg]
  split
  · exact hf s
  · split
    · rfl
    · exact hf _

@[simp] theorem State.chargeSector_mem (s : State) (n : Nat) : (s.chargeSector n).mem = s.mem :=
  s.onWg_mem n _ (fun s => s.debit_mem 0 32)

/-- A sector that is sent leaves memory as it is until its home performs the store. -/
@[simp] theorem State.sendSector_mem (s : State) (g : Workgroup) (w : Window) (sec key : Nat) (a : Attr) (d : ReqDest) :
    (s.sendSector g w sec key a d).mem = s.mem := s.chargeSector_mem g.serial

/-- Clearing sectors of a window leaves memory. -/
@[simp] theorem State.clearWindow_mem (s : State) (g : Workgroup) (grain size : Nat) (p : Nat × Window) :
    (s.clearWindow g grain size p).mem = s.mem := by
  simp only [State.clearWindow]
  split
  · refine foldl_mem _ (fun s x => ?_) _ s
    split
    · exact s.sendSector_mem ..
    · rfl
  · refine (foldl_mem _ (fun s x => ?_) _ s : State.mem _ = _)
    split
    · exact s.sendSector_mem ..
    · rfl

/-- Clearing sectors of a core's windows leaves memory. -/
@[simp] theorem State.clearWindows_mem (s : State) (core grain size but : Nat) : (s.clearWindows core grain size but).mem = s.mem := by
  simp only [State.clearWindows]
  exact foldl_mem _ (fun s g => foldl_mem _ (fun s p => s.clearWindow_mem g grain size p) _ s) _ _

/-! ## Operations that write memory -/

/-- Taking a grain to U keeps the canonical form. -/
theorem State.takeToU_wf {s : State} (h : Memory.wf s.mem = true) (k : Nat) : Memory.wf (s.takeToU k).mem = true := by
  unfold State.takeToU
  dsimp only
  split
  · exact h
  · refine State.storeCells_wf ?_ _
    rw [foldl_mem _ (fun s l => ?_) _ s]
    · exact h
    · split
      · exact s.clearWindows_mem ..
      · rfl

/-- A fold of steps that each keep the canonical form keeps it. -/
theorem foldl_mem_wf {β : Type} (f : State → β → State) (hf : ∀ s b, Memory.wf s.mem = true → Memory.wf (f s b).mem = true)
    (l : List β) {s : State} (h : Memory.wf s.mem = true) : Memory.wf (l.foldl f s).mem = true := by
  induction l generalizing s with
  | nil => exact h
  | cons b l ih => exact ih (hf s b h)

/-- A write at the home keeps the canonical form. -/
theorem State.homeWrite_wf {s t : State} {cs : List Host.Cell} (h : Memory.wf s.mem = true) (e : s.homeWrite cs = .ok t) :
    Memory.wf t.mem = true := by
  unfold State.homeWrite at e
  dsimp only at e
  split at e
  · cases e
  · cases e
    exact State.storeCells_wf (foldl_mem_wf _ (fun s c hs => State.takeToU_wf hs c.1) cs h) cs

/-- A write at the home whose failure is dropped keeps the canonical form. -/
theorem State.homeWriteOr_wf {s : State} (h : Memory.wf s.mem = true) (cs : List Host.Cell) :
    Memory.wf (s.homeWriteOr cs).mem = true := by
  unfold State.homeWriteOr
  split
  · rename_i t e; exact State.homeWrite_wf h e
  · exact h

/-- Merging bytes that an owner gives up keeps the canonical form. -/
theorem State.mergeCells_wf {s : State} (h : Memory.wf s.mem = true) (cs : List Host.Cell) :
    Memory.wf (s.mergeCells cs).mem = true := State.storeCells_wf h cs

/-- A message added to the outbox changes no memory. -/
theorem foldl_tell_mem {β : Type} (f : β → OutMsg) (l : List β) (s : State) :
    (l.foldl (fun (s : State) b => s.tell (f b)) s).mem = s.mem := by
  induction l generalizing s with
  | nil => rfl
  | cons b l ih => exact (ih _).trans rfl

/-- Bring-up keeps the canonical form. -/
theorem State.bringUp_wf {s : State} (h : Memory.wf s.mem = true) (ok : Bool) (a b : List Nat) :
    Memory.wf (s.bringUp ok a b).mem = true := by
  unfold State.bringUp
  dsimp only
  split
  · exact h
  · rw [foldl_tell_mem, foldl_tell_mem]
    exact FMap.wfFrom_filter h _

/-- The firmware's itineraries keep the canonical form. -/
theorem firmwareCells_wf {s : State} (h : Memory.wf s.mem = true) : Memory.wf (s.storeCells firmwareCells).mem = true :=
  State.storeCells_wf h _

/-- Placing an instruction keeps the canonical form. -/
theorem placeWord_wf {s : State} (h : Memory.wf s.mem = true) (nbits w : Nat) : Memory.wf (placeWord s nbits w).mem = true := by
  simp only [placeWord]
  exact State.storeCells_wf h _

/-- The memory after reset is in canonical form. -/
theorem State.reset_wf : Memory.wf State.reset.mem = true := rfl

end Sys2Proof.Machine
end

