-- ==== Sys2Proof/Tests/Slice0.lean ====
section
/-! SUPPORT. Tests of the model: ill-formed terms refused, words written out from the encodings, results of the spec's worked examples,
and states that meet the hypotheses of the statements. -/

namespace Sys2Proof.Tests

open Sys2Proof.Machine

set_option maxRecDepth 20000
set_option Elab.async false

/-! ## Terms and small states -/

/-- Operands with no marker and no last use. -/
def ops (d a b : BitVec 6) (f : BitVec 4) (x : Word) : Ops := { s := false, d := d, a := a, b := b, la := false, lb := false, f := f, ext := x }

/-- An itinerary word's fields. -/
def word (flags : BitVec 4) (peer : BitVec 6) (sa sb cr red : BitVec 4) (imm : Word) : Itin :=
  { flags := flags, peer := peer, sa := sa, sb := sb, cr := cr, red := red, imm := imm }

/-- A header of one unguarded instruction of a class. -/
def hdr (eng : BitVec 3) : Header := { gsense := false, guard := 0#3, wait := 0#6, eng := eng, n := 1#4 }

/-! ## Ill-formed terms, one for each check -/

-- R30: N 0, ENG 6, GSENSE without a guard
theorem test_header_without_instructions_is_ill_formed : (Instr.clauseIssue { hdr 0#3 with n := 0#4 }).wellFormed = false := by decide
theorem test_header_of_class_6_is_ill_formed : (Instr.clauseIssue (hdr 6#3)).wellFormed = false := by decide
theorem test_header_sense_without_guard_is_ill_formed : (Instr.clauseIssue { hdr 0#3 with gsense := true }).wellFormed = false := by decide
-- R62: function codes that are not allotted
theorem test_unallotted_functions_are_ill_formed :
    [Instr.iadd (ops 1#6 2#6 3#6 4#4 0#32), .shl (ops 1#6 2#6 3#6 1#4 0#32), .fadd (ops 1#6 2#6 3#6 12#4 0#32),
      .st (ops 4#6 0#6 61#6 1#4 0#32), .red (ops 4#6 0#6 61#6 8#4 0#32), .pfence (ops 61#6 61#6 61#6 0#4 0#32),
      .qunpk (ops 4#6 0#6 1#6 7#4 0#32)].all (fun i => !i.wellFormed) = true := by decide
-- R34: an odd pair base, a uniform destination with a vector source, a used field that names nothing, an unused one that is not 61,
-- a last use of a uniform register
theorem test_illegal_specifiers_are_ill_formed :
    [Instr.mov (ops 1#6 2#6 61#6 1#4 0#32), .iadd (ops 48#6 2#6 3#6 0#4 0#32), .srd (ops 60#6 61#6 61#6 0#4 0x10#32),
      .notOp (ops 1#6 2#6 3#6 5#4 0#32), .iadd { ops 48#6 49#6 50#6 0#4 0#32 with la := true }].all (fun i => !i.wellFormed) = true := by decide
-- R33: code 63 in A of an always-extended opcode
theorem test_immediate_of_an_extended_opcode_is_ill_formed :
    (Instr.segred (ops 3#6 63#6 61#6 0#4 0x2D74#32)).wellFormed = false := by decide
-- R40 to R47 and R61: extension words and sub-codes out of range
theorem test_illegal_extensions_and_subcodes_are_ill_formed :
    [Instr.ld (ops 4#6 0#6 61#6 4#4 7#32), .qfence (ops 61#6 61#6 61#6 0#4 0#32), .cvt (ops 2#6 1#6 1#6 2#4 0#32), .movs (ops 2#6 12#6 61#6 0#4 0#32),
      .atom (ops 4#6 0#6 61#6 9#4 0x40#32)].all (fun i => !i.wellFormed) = true := by decide
-- R33: a step without an extension word carries no value for one
theorem test_extension_value_without_extension_is_ill_formed : (Instr.iadd (ops 1#6 2#6 3#6 0#4 1#32)).wellFormed = false := by decide
-- R210, R211, R213: an unused field that is not zero, a register of 16 or above as peer, a slot above 7, no reduction, no target
theorem test_itinerary_words_with_bad_fields_are_ill_formed :
    [Instr.halt (word 1#4 0#6 0#4 0#4 0#4 0#4 0#32), .send (word 2#4 16#6 0#4 0#4 0#4 0#4 0#32), .send (word 0#4 0#6 8#4 0#4 0#4 0#4 0#32),
      .reduce (word 0#4 0#6 0#4 0#4 0#4 0#4 0#32), .mcast (word 0#4 0#6 0#4 0#4 0#4 0#4 0#32)].all (fun i => !i.wellFormed) = true := by decide

/-! ## Words written out from the encodings -/

-- R29: SIG 0xC5; GUARD 1 at [15:13]; ENG 0 at [6:4]; N 1 at [3:0]
theorem test_decode_header :
    decodeHeader 0b11000101_0000000_0_001_000000_000_0001#32 = some { gsense := false, guard := 1#3, wait := 0#6, eng := 0#3, n := 1#4 } := by decide
theorem test_header_of_another_signature : decodeHeader 0b11000100_0000000_0_001_000000_000_0001#32 = none := by decide
-- R32, R58: OP at [31:25], S at [24], D at [23:18], A at [17:12], B at [11:6], LA, LB, F at [3:0]
theorem test_decode_integer : decodePair 0b0000010_0_000011_000100_000101_0_0_0001#32 0#32 = some (.imul (ops 3#6 4#6 5#6 1#4 0#32)) := by decide
theorem test_decode_logic_and_shift :
    decodePair 0b0000111_0_000011_000100_000101_0_0_0011#32 0#32 = some (.andnOp (ops 3#6 4#6 5#6 3#4 0#32))
    ∧ decodePair 0b0001000_0_000010_000100_000110_0_0_0110#32 0#32 = some (.sar (ops 2#6 4#6 6#6 6#4 0#32)) := by decide
-- the example before R58's index: the CVT word 0x36081040
theorem test_decode_conversion : decodePair 0x36081040#32 0#32 = some (.cvt (ops 2#6 1#6 1#6 0#4 0#32)) := by decide
theorem test_decode_special_function : decodePair 0b0011100_0_000011_000100_111101_0_0_0101#32 0#32 = some (.sin (ops 3#6 4#6 61#6 5#4 0#32)) := by decide
-- the example of R47: `segred.add.32 v3, v1, p2, k4, k5`
theorem test_decode_lanes : decodePair 0x480C1F40#32 0x2D74#32 = some (.segred (ops 3#6 1#6 61#6 0#4 0x2D74#32)) := by decide
-- the example after R56: `ld.32.own.pkg v4, [k0 + v6*4 + 128] ^`
theorem test_decode_load :
    decodePair 0x61130184#32 0x8099#32 = some (.ld { ops 4#6 48#6 6#6 4#4 0x8099#32 with s := true }) := by decide
-- R59: CAS, WAITA ge.z, FENCE (the example of R62: fence.full.pod), BAR (R171's example), RINGA (R177's example)
theorem test_decode_memory_and_synchronisation :
    decodePair 0b0110100_0_000100_110010_111101_0_0_0000#32 0x2018#32 = some (.cas (ops 4#6 50#6 61#6 0#4 0x2018#32))
    ∧ decodePair 0b0110111_0_111000_110100_110110_0_0_0010#32 0#32 = some (.waita (ops 56#6 52#6 54#6 2#4 0#32))
    ∧ decodePair 0x700FDF44#32 0#32 = some (.fence (ops 3#6 61#6 61#6 4#4 0#32))
    ∧ decodePair 0x7607FF41#32 0x40#32 = some (.barSync (ops 1#6 63#6 61#6 1#4 0x40#32))
    ∧ decodePair 0x7A0BDF40#32 0#32 = some (.ringa (ops 2#6 61#6 61#6 0#4 0#32)) := by decide
-- R60: MX and TILE; `tcopy q2, k4` of R196's example
theorem test_decode_engines :
    decodePair 0b1000010_0_111101_000100_000101_0_0_0011#32 3#32 = some (.mmaNi (ops 61#6 4#6 5#6 3#4 3#32))
    ∧ decodePair 0b1000101_0_111101_110100_111101_0_0_0100#32 2#32 = some (.accst (ops 61#6 52#6 61#6 4#4 2#32))
    ∧ decodePair 0xA0F74F40#32 0x80#32 = some (.tcopy (ops 61#6 52#6 61#6 0#4 0x80#32)) := by decide
-- R60: CTL and SYS; `jmpx v8, #5` of R121's example
theorem test_decode_control_and_system :
    decodePair 0xC2F48F40#32 5#32 = some (.jmpx (ops 61#6 8#6 61#6 0#4 5#32))
    ∧ decodePair 0b1100000_0_000111_000001_111101_0_0_0010#32 0xFFFFFFF0#32 = some (.braSplit (ops 7#6 1#6 61#6 2#4 0xFFFFFFF0#32))
    ∧ decodePair 0b1110010_0_110100_110010_111101_0_0_0001#32 0#32 = some (.purseSplit (ops 52#6 50#6 61#6 1#4 0#32)) := by decide
-- R62: a reserved opcode and an unallotted function are no instruction
theorem test_unallotted_words_decode_to_nothing : decodePair 0x240420C0#32 0#32 = none ∧ decodePair 0x000420C5#32 0#32 = none := by decide
-- R210, R213: OP at [63:58], FLAGS [57:54], PEER [53:48], SA [47:44], SB [43:40], CR [39:36], RED [35:32], IMM [31:0]
theorem test_decode_itinerary :
    decodeItin 0b000011_0000_000001_0010_0011_0100_0101_00000000000000000000000000000000#64 = some (.recvred (word 0#4 1#6 2#4 3#4 4#4 5#4 0#32))
    ∧ decodeItin 0b000111_1000_000000_0000_0000_0000_0000_00000000000000000000000000000000#64 = some (.waitSent (word 8#4 0#6 0#4 0#4 0#4 0#4 0#32))
    ∧ decodeItin 0b010001_0000_000000_0000_0000_0000_0000_00000000000000000000000000000000#64 = none := by decide
-- a placed instruction is the one the step runs, and it is passed
theorem test_step_runs_a_placed_instruction :
    (match step (State.reset.withFetchWord 32 0xD0F7DF40) with | .next t => t.w.cl.isNone && t.w.lpcOf 0 == 8#32 | _ => false) = true := by decide

/-! ## Small states -/

/-- A clause at 0x40 of one instruction, which lanes 0 and 1 execute. -/
def clause : Clause :=
  { base := 0x40#32, exec := 3#32, hdr := hdr 0#3, idx := 0, off := 4, targets := [], yields := 0#32, leaving := 0#32, split := none, charged := false,
    awaits := [] }

/-- A warp with two live lanes inside that clause; lane 0 has p1. -/
def warp : Warp :=
  { Warp.vacant with
    present := true, wg := 1, lpc := [(0, 0x40#32), (1, 0x40#32)], preds := [(1, 1#32)], tids := [(1, 1)], cl := some clause, active := true, age := 1 }

/-- Its workgroup, running with purses, one unit of scratchpad and a handler. -/
def wg : Workgroup :=
  { Workgroup.vacant with
    serial := 1, size := 64, level := 1, grid := 1#32, ipurse := 1000, mpurse := 100000, padUnits := 1, accAllot := 2, place := .running
    tvec := 0x200#32 }

/-- The state in which they have their turn. -/
def st : State := { State.reset with w := warp, g := wg, nextId := 10 }

/-- A vector register's lanes 0 and 1, and a uniform pair. -/
def vreg (n : Nat) (x y : Word) (w : Warp) : Warp := { w with vregs := FMap.put (FMap.put w.vregs 0#32 (32 * n) x) 0#32 (32 * n + 1) y }
def kpair (n : Nat) (x : DWord) (w : Warp) : Warp :=
  { w with kregs := FMap.put (FMap.put w.kregs 0#32 n (loWord x)) 0#32 (n + 1) (hiWord x) }

/-- An address in the allotment. -/
def padAddr (off : Nat) : DWord := BitVec.ofNat 64 (0x01FFFF0000000000 + off)

/-- An outstanding operation of a class that awaits one reply. -/
def out (id cls : Nat) : Out := { id := id, cls := cls, hasDest := true, keys := [vkey 4 0], vals := [], waiting := 1, fail := none, flags := 0#32 }

/-- The state that a step answers, and whether it answers one. -/
def run (i : Instr) (s : State) : State := match exec i s with | .next t => t | _ => s
def runs (i : Instr) (s : State) : Bool := match exec i s with | .next _ => true | _ => false

/-- A register of lane 0 after an instruction. -/
def after (i : Instr) (s : State) (n : Nat) : Word := (run i s).w.readKey (vkey n 0)

/-- The state with v2 and v3 (and v4) holding values in lane 0. -/
def st2 (x y : Word) : State := { st with w := vreg 3 y 0#32 (vreg 2 x 0#32 warp) }
def st3 (x y z : Word) : State := { st with w := vreg 4 z 0#32 (vreg 3 y 0#32 (vreg 2 x 0#32 warp)) }
/-- A field's operands v2 and v3, destination v4. -/
def alu (f : BitVec 4) : Ops := ops 4#6 2#6 3#6 f 0#32
def alu1 (f : BitVec 4) : Ops := ops 4#6 2#6 61#6 f 0#32

/-! ## Results, from the rules and their examples -/

-- R87
theorem test_iadd_wraps : after (.iadd (alu 0#4)) (st2 0xFFFFFFFF#32 2#32) 4 = 1#32 := by decide
theorem test_iadd_saturates_signed :
    let t := run (.iadd (alu 2#4)) (st2 0x7FFFFFFF#32 1#32)
    t.w.readKey (vkey 4 0) = 0x7FFFFFFF#32 ∧ t.w.aflags = 0x20#32 := by decide
theorem test_isub_saturates_unsigned_at_zero : after (.isub (alu 3#4)) (st2 1#32 2#32) 4 = 0#32 := by decide
theorem test_imul_high_half_is_signed : after (.imul (alu 1#4)) (st2 0xFFFFFFFF#32 2#32) 4 = 0xFFFFFFFF#32 := by decide
theorem test_imac_adds_the_old_destination : after (.imac (alu 0#4)) (st3 5#32 7#32 2#32) 4 = 37#32 := by decide
theorem test_imin_is_signed : after (.imin (alu 0#4)) (st2 0x80000000#32 1#32) 4 = 0x80000000#32 := by decide
theorem test_imax_is_unsigned : after (.imax (alu 1#4)) (st2 0x80000000#32 1#32) 4 = 0x80000000#32 := by decide
theorem test_iabs_of_the_most_negative : after (.iabs (alu1 0#4)) (st2 0x80000000#32 0#32) 4 = 0x80000000#32 := by decide
theorem test_ineg : after (.ineg (alu1 2#4)) (st2 1#32 0#32) 4 = 0xFFFFFFFF#32 := by decide
-- R88 to R90
theorem test_andn : after (.andnOp (alu 3#4)) (st2 0xFF#32 0x0F#32) 4 = 0xF0#32 := by decide
theorem test_orn : after (.ornOp (alu 4#4)) (st2 0#32 0xFFFFFFF0#32) 4 = 0xF#32 := by decide
theorem test_logic :
    after (.andOp (alu 0#4)) (st2 6#32 3#32) 4 = 2#32 ∧ after (.orOp (alu 1#4)) (st2 6#32 3#32) 4 = 7#32
    ∧ after (.xorOp (alu 2#4)) (st2 6#32 3#32) 4 = 5#32 ∧ after (.notOp (alu1 5#4)) (st2 6#32 0#32) 4 = 0xFFFFFFF9#32 := by decide
theorem test_shl_by_32_is_zero : after (.shl (alu 0#4)) (st2 1#32 32#32) 4 = 0#32 := by decide
theorem test_shr : after (.shr (alu 1#4)) (st2 0x80000000#32 31#32) 4 = 1#32 := by decide
theorem test_sar_past_the_width_is_the_sign : after (.sar (alu 2#4)) (st2 0x80000000#32 200#32) 4 = 0xFFFFFFFF#32 := by decide
theorem test_rol : after (.rol (alu 3#4)) (st2 0x80000001#32 33#32) 4 = 3#32 := by decide
theorem test_counts :
    after (.ones (alu1 0#4)) (st2 0xF0#32 0#32) 4 = 4#32 ∧ after (.clz (alu1 1#4)) (st2 0xF0#32 0#32) 4 = 24#32
    ∧ after (.ctz (alu1 2#4)) (st2 0#32 0#32) 4 = 32#32 ∧ after (.bitrev (alu1 3#4)) (st2 1#32 0#32) 4 = 0x80000000#32 := by decide
theorem test_bfx_signed : after (.bfx (alu 1#4)) (st2 0x00000F00#32 0x0408#32) 4 = 0xFFFFFFFF#32 := by decide
theorem test_bfi : after (.bfi (alu 0#4)) (st3 0x5#32 0x0404#32 0xFFFFFFFF#32) 4 = 0xFFFFFF5F#32 := by decide
-- R91 to R95
theorem test_lea : (run (.lea (ops 4#6 2#6 6#6 3#4 0#32)) { st with w := vreg 6 3#32 0#32 (vreg 2 0xFFFFFFF8#32 0#32 warp) }).w.readKey (vkey 5 0) = 1#32 := by decide
theorem test_icmp_signed_and_unsigned :
    (run (.icmp (ops 2#6 2#6 3#6 2#4 0#32)) (st2 0xFFFFFFFF#32 0#32)).w.pred 2 0 = true
    ∧ (run (.icmp (ops 2#6 2#6 3#6 6#4 0#32)) (st2 0xFFFFFFFF#32 0#32)).w.pred 2 0 = false := by decide
theorem test_sel_negated : after (.sel (alu 9#4)) (st2 10#32 20#32) 4 = 20#32 := by decide
theorem test_mov_and_movs :
    after (.mov (alu1 0#4)) (st2 9#32 0#32) 4 = 9#32 ∧ ((run (.movs (ops 4#6 0#6 61#6 0#4 0#32)) st).w.readKey (vkey 4 1)) = 1#32 := by decide
theorem test_plog_andn : (run (.plog (ops 2#6 0#6 1#6 3#4 0#32)) st).w.preds = [(1, 1#32), (2, 2#32)] := by decide
-- R96: the example of the fused sum
theorem test_fma_rounds_once :
    let t := run (.fma (alu 0#4)) (st3 0x3F800001#32 0x3F800001#32 0xBF800000#32)
    t.w.readKey (vkey 4 0) = 0x34800000#32 ∧ t.w.aflags = 0x10#32 := by decide
theorem test_fadd_and_fmul :
    after (.fadd (alu 0#4)) (st2 0x3F800000#32 0x40000000#32) 4 = 0x40400000#32
    ∧ after (.fmul (alu 0#4)) (st2 0x40000000#32 0x40400000#32) 4 = 0x40C00000#32 := by decide
theorem test_fmin_fmax_famax :
    after (.fmin (alu 0#4)) (st2 0x80000000#32 0#32) 4 = 0x80000000#32 ∧ after (.fmax (alu 0#4)) (st2 0x3F800000#32 0xC0000000#32) 4 = 0x3F800000#32
    ∧ after (.famax (alu 4#4)) (st2 0x3F800000#32 0xC0000000#32) 4 = 0x40000000#32 := by decide
theorem test_fcmp_of_a_nan_is_unequal : (run (.fcmp (ops 2#6 2#6 3#6 1#4 0#32)) (st2 0x7FC00000#32 0#32)).w.pred 2 0 = true := by decide
theorem test_sign_forms :
    after (.fabs (alu1 0#4)) (st2 0xBF800000#32 0#32) 4 = 0x3F800000#32 ∧ after (.fneg (alu1 1#4)) (st2 0#32 0#32) 4 = 0x80000000#32
    ∧ after (.fcopys (alu 2#4)) (st2 0x3F800000#32 0x80000000#32) 4 = 0xBF800000#32 := by decide
-- R68: the conversions to bf16 of the example
theorem test_cvt_ties_to_even : after (.cvt (ops 4#6 2#6 0#6 0#4 0#32)) (st2 0x3FC18000#32 0#32) 4 = 0x3FC2#32 := by decide
theorem test_cvt_of_a_signalling_nan :
    let t := run (.cvt (ops 4#6 2#6 0#6 0#4 0#32)) (st2 0x7F800001#32 0#32)
    t.w.readKey (vkey 4 0) = 0x7FC0#32 ∧ t.w.aflags = 1#32 := by decide
-- R101: exact results of the special functions return later, as class W4
theorem test_special_functions_return :
    ((run (.rcp (alu1 0#4)) (st2 0x40000000#32 0#32)).w.outs.map (fun x => (x.cls, FMap.find x.vals (vkey 4 0)))) = [(4, some 0x3F000000#32)]
    ∧ ((run (.sqrt (alu1 2#4)) (st2 0x40800000#32 0#32)).w.outs.map (fun x => FMap.find x.vals (vkey 4 0))) = [some 0x40000000#32]
    ∧ ((run (.exp2 (alu1 3#4)) (st2 0x40400000#32 0#32)).w.outs.map (fun x => FMap.find x.vals (vkey 4 0))) = [some 0x41000000#32]
    ∧ ((run (.log2 (alu1 4#4)) (st2 0x41000000#32 0#32)).w.outs.map (fun x => FMap.find x.vals (vkey 4 0))) = [some 0x40400000#32]
    ∧ ((run (.cos (alu1 6#4)) (st2 0#32 0#32)).w.outs.map (fun x => FMap.find x.vals (vkey 4 0))) = [some 0x3F800000#32] := by decide
-- R72: the example's block of amax 3.1 has scale byte 122
theorem test_qscale : after (.qscale (alu 0#4)) (st2 0x40466666#32 0xC015C28F#32) 4 = 122#32 := by decide
-- R105 to R108
theorem test_lxch_xor : after (.lxch (ops 4#6 2#6 3#6 3#4 0#32)) { st with w := vreg 3 1#32 1#32 (vreg 2 10#32 20#32 warp) } 4 = 20#32 := by decide
theorem test_lanes_mask_and_first :
    after (.lanesMask (ops 4#6 1#6 61#6 3#4 0#32)) st 4 = 1#32
    ∧ (run (.lanesFirst (ops 2#6 61#6 61#6 4#4 0#32)) st).w.preds = [(1, 1#32), (2, 1#32)] := by decide
theorem test_wred_and_scan :
    after (.wred (alu1 0#4)) { st with w := vreg 2 10#32 20#32 warp } 4 = 30#32
    ∧ (run (.scan (alu1 1#4)) { st with w := vreg 2 10#32 20#32 warp }).w.readKey (vkey 4 1) = 10#32 := by decide
/-- Lanes 0 to 7 hold 1 to 8 in v1, and lanes 3 and 6 start a segment (the example of R109). -/
def segState : State :=
  { st with
    w := { warp with
      preds := [(2, 0x48#32)], kregs := [(4, 5#32)], cl := some { clause with exec := 0xFF#32 }
      vregs := (List.range 8).map (fun l => (32 + l, BitVec.ofNat 32 (l + 1))) } }
theorem test_segred_example :
    let t := run (.segred (ops 3#6 1#6 61#6 0#4 0x2D74#32)) segState
    (List.range 9).map (fun l => t.w.readKey (vkey 3 l)) = [6#32, 8#32, 11#32, 4#32, 9#32, 15#32, 7#32, 15#32, 0#32]
    ∧ t.w.readKey (ukey 5) = 15#32 := by decide


/-! ## States that meet the hypotheses of the statements: lane arithmetic, decoding, the step -/

/-- The hypotheses of `PackedFloatFormsComputeEachElement`, in both formats. -/
theorem witness_packed_forms :
    ((fmtBF16 = fmtBF16 ∧ 1 = 1 ∨ fmtBF16 = fmtF16 ∧ 1 = 2) ∧ (alu 4#4).f.toNat / 4 = 1 ∧ (alu 1#4).f.toNat = 1)
    ∧ ((fmtF16 = fmtBF16 ∧ 2 = 1 ∨ fmtF16 = fmtF16 ∧ 2 = 2) ∧ (alu 11#4).f.toNat / 4 = 2) := ⟨⟨.inl ⟨rfl, rfl⟩, rfl, rfl⟩, .inr ⟨rfl, rfl⟩, rfl⟩
/-- Of `SpecialFunctionIssuesItsResult`, and of the reductions: a lane is active. -/
theorem witness_active_lane :
    (Instr.tanh (alu1 7#4), sfuTanh) ∈ [(Instr.rcp (alu1 7#4), sfuRcp), (.tanh (alu1 7#4), sfuTanh)] ∧ st.w.activeLanes ≠ 0#32
    ∧ st.w.activeLanes.lowest = some 0 := ⟨by simp, by decide, by decide⟩
/-- Of `AluFrameAndCharge` and of the frames: an instruction of the class that completes, with a marker and without. -/
theorem witness_alu_frame :
    (Instr.iadd (alu 0#4)).opcode = some (0#7, alu 0#4) ∧ classOfOp 0#7 = 0 ∧ (∀ x ∈ st.w.outs, x.fail = none) ∧ runs (.iadd (alu 0#4)) st = true
    ∧ runs (.iadd { alu 0#4 with s := true }) st = true ∧ st.charged = false ∧ st.g.resting = false
    ∧ vkey 7 0 ∉ Says.destKeys (.iadd (alu 0#4)) (alu 0#4) st ∧ st.g.windows = [] ∧ Memory.wf st.mem = true := by decide
/-- Of `EncodeOfDecodeIsTheWords`. -/
theorem witness_decoded_words :
    (decodePair 0x480C1F40#32 0x2D74#32).isSome = true ∧ (decodeHeader 0xC5002001#32).isSome = true ∧ (decodeItin 0x4000000000000000#64).isSome = true := by
  decide

/-- The placed state of a word: its warp is the agent whose turn it is. -/
def placed (w : Nat) : State := State.reset.withFetchWord 64 w
/-- What it fetches, at the offset of its instruction. -/
def fetches (s : State) (p w : Word) : Bool := match s.fetchWord p with | .ok x => x == w | .error _ => false

/-- Of `StepRunsTheDecodedStep`: a warp inside a clause, at an instruction with an extension word. -/
theorem witness_step_inside_a_clause :
    let s := placed 0xFFFFFFFD00080FC0
    let i := Instr.iadd (ops 2#6 0#6 63#6 0#4 0xFFFFFFFD#32)
    s.pkg.tripped = false ∧ s.agents[0]? = some (.warp ⟨1, 0⟩) ∧ s.isWarp ⟨1, 0⟩ = true ∧ s.w.wait = .none ∧ s.w.mac.isNone = true
    ∧ s.w.cl.map (fun c => (c.base, c.off, c.idx + 1 == c.hdr.n.toNat, c.hdr.eng)) = some (0#32, 4, true, 0#3)
    ∧ fetches s 4#32 0x00080FC0#32 = true ∧ fetches s 8#32 0xFFFFFFFD#32 = true ∧ (decodeWord 0x00080FC0#32).map Instr.extended = some true
    ∧ decodePair 0x00080FC0#32 0xFFFFFFFD#32 = some i
    ∧ decodeChecks s.g s.w.role false true 0 0#7 (Ops.ofWord 0x00080FC0#32 0xFFFFFFFD#32) i = none := by decide
/-- A warp at a boundary, whose header is that of a MEM clause. -/
theorem witness_step_at_a_boundary :
    let s := placed 0xC5000011
    s.agents[0]? = some (.warp ⟨1, 0⟩) ∧ s.w.cl = none ∧ s.stopsFor s.w s.g = false ∧ s.w.issueOffset = some 0#32
    ∧ fetches s 0#32 0xC5000011#32 = true ∧ decodeHeader 0xC5000011#32 = some (hdr 1#3) := by decide

/-- Memory with the first 512 MiB mapped for space 0, and bytes at addresses. -/
def mapped (cells : List Host.Cell) : State :=
  { st with
    mem := writeCells [] (placeCells Config.pkgid ++ cells)
    host := { st.host with spaces := [(0, { root := BitVec.ofNat 64 placeRoot, keys := 0#64 })] } }
/-- Bytes at an address of LOCAL memory. -/
def at_ (a : Nat) (bs : List Byte) : List Host.Cell := cellsAt (memKey Config.pkgid a) bs

/-- Of the event and context clauses of `StepRunsTheDecodedStep`, and one for an engine: nothing else can move. -/
theorem witness_step_of_an_event :
    let s : State := { State.reset with events := [.claimWindowClose] }
    s.pkg.tripped = false ∧ s.agents = [.event .claimWindowClose] ∧ s.eventReads .claimWindowClose = [] := by decide
theorem witness_step_of_an_engine :
    let s : State := { State.reset with g := { wg with ipurse := 5 } }
    s.agents = [.derived (.workgroupComplete 1)] := by decide
/-- Of `FailedDecodeChecksRaise`: an unallotted opcode; an instruction of another class; a header that is not in order. -/
theorem witness_failed_decode :
    (let s := placed 0x240420C0
     fetches s 4#32 0x240420C0#32 = true ∧ decodeWord 0x240420C0#32 = none)
    ∧ (let o := ops 3#6 61#6 61#6 4#4 0#32
       (Instr.fence o).opcode = some (0x38#7, o) ∧ classOfOp 0x38#7 ≠ 0 ∧ decodeChecks wg 0 false true 0 0x38#7 o (.fence o) = some .illegalClass)
    ∧ (let o := ops 61#6 61#6 61#6 0#4 0#32
       (Instr.exit o).isControlTransfer = true ∧ decodeChecks wg 0 false false 4 0x66#7 o (.exit o) = some .illegalOpcode)
    ∧ (let o := ops 61#6 61#6 61#6 0#4 2#32
       ¬((Instr.accz o).fieldsOk 0x43#7 o = true ∧ ∀ n ∈ (Instr.accz o).accTile.toList, n < wg.accAllot)
       ∧ decodeChecks wg 0 false true 2 0x43#7 o (.accz o) = some .illegalOperand)
    ∧ (let o := ops 4#6 0#6 61#6 4#4 0#32
       (Instr.ld o).fieldsOk 0x30#7 o = true ∧ roleAllows 1 1 (.ld o) = false ∧ decodeChecks wg 1 false true 1 0x30#7 o (.ld o) = some .roleViolation)
    ∧ (let o := ops 61#6 48#6 61#6 0#4 0x40#32
       (Instr.swr o).needsPrivilege 0 = true ∧ decodeChecks { wg with level := 0 } 0 false true 5 0x71#7 o (.swr o) = some .privilege
       ∧ decodeChecks wg 0 false true 5 0x71#7 o (.swr o) = none)
    ∧ (let s : State := { st with w := { warp with cl := none } }
       s.boundaryStop = none ∧ s.w.issueOffset = some 0x40#32 ∧ (hdr 6#3).ok = false) := by decide

/-! ## Memory instructions -/

/-- The state with lane addresses in v0:v1, lanes 0 and 1 at offsets 16 and 4080 (the last 16 bytes of the allotment), and a uniform one in
k0:k1, at 4080. -/
def padSt : State :=
  { st with
    w := kpair 0 (padAddr 4080) (vreg 1 0x01FFFF00#32 0x01FFFF00#32 (vreg 0 16#32 4080#32 (vreg 4 0x11223344#32 0x55667788#32 warp)))
    g := { wg with pad := [(16, 0xF0#8), (17, 1#8), (4095, 0x80#8)] } }
/-- Of `ScratchpadLoadsAndStoresMoveTheirBytes`, at the ends of the allotment, and its load of one signed byte and store of a word. -/
theorem witness_scratchpad :
    let o := ops 4#6 0#6 61#6 6#4 0#32
    let off := fun l => if l = 0 then 16 else 4080
    padSt.w.activeLanes ≠ 0#32 ∧ padSt.g.windows = [] ∧ padSt.outstandingOf padSt.g.core + 64 ≤ 8192 ∧ memWidth o.f = 16 ∧ padSt.w.held = none
    ∧ (∀ l, l < 32 → padSt.w.activeLanes.getLsbD l = true →
        padSt.w.laneAddr o.ext o.a o.b 1 0 l = padAddr (off l) ∧ off l % 16 = 0 ∧ off l + 16 ≤ padSt.g.padUnits * 4096 ∧ off l + 16 ≤ 0x60000)
    ∧ uniformAddr 48#6 61#6 = true ∧ padSt.w.laneAddr 0#32 48#6 61#6 1 0 0 = padAddr 4080 := by decide
theorem test_ld_8s_extends_the_sign : Says.installed (run (.ld (ops 5#6 0#6 61#6 1#4 0#32)) padSt) (vkey 5 0) = 0xFFFFFFF0#32 := by decide
theorem test_ld_16z : Says.installed (run (.ld (ops 5#6 0#6 61#6 2#4 0#32)) padSt) (vkey 5 0) = 0x1F0#32 := by decide
theorem test_st_is_little_endian :
    ((run (.st (ops 4#6 0#6 61#6 4#4 0#32)) padSt).g.padRead 16 4, (run (.st (ops 4#6 0#6 61#6 4#4 0#32)) padSt).g.padRead 4080 4)
      = ([0x44#8, 0x33#8, 0x22#8, 0x11#8], [0x88#8, 0x77#8, 0x66#8, 0x55#8]) := by decide
/-- Of `ScratchpadAtomicsActLaneByLane`: two lanes on one word. -/
def atomSt : State := { padSt with w := vreg 5 10#32 11#32 (vreg 0 16#32 16#32 (vreg 4 0x1F0#32 0x1F0#32 padSt.w)) }
theorem witness_atomics :
    atomSt.w.activeLanes ≠ 0#32 ∧ atomSt.g.windows = [] ∧ atomSt.w.held = none ∧ atomSt.outstandingOf atomSt.g.core + 64 ≤ 8192
    ∧ atomWidth 0#32 = 4 ∧ atomWidth 0x40#32 = 8
    ∧ (∀ l, l < 2 → atomSt.w.laneAddr 0#32 0#6 61#6 4 0 l = padAddr 16) := by decide
theorem test_atom_add_lane_by_lane :
    let t := run (.atom (ops 4#6 0#6 61#6 0#4 0#32)) atomSt
    (Says.installed t (vkey 4 0), Says.installed t (vkey 4 1), Says.padNat t 16 4) = (0x1F0#32, 0x3E0#32, 0x5D0) := by decide
theorem test_red_gives_no_value : (run (.red (ops 4#6 0#6 61#6 3#4 0#32)) atomSt).w.outs = [] := by decide
-- the example of R158: the first lane's comparison holds, the second finds what it left
theorem test_cas_lane_by_lane :
    let t := run (.cas (ops 4#6 0#6 61#6 0#4 0#32)) atomSt
    (Says.installed t (vkey 4 0), Says.installed t (vkey 4 1), Says.padNat t 16 4) = (0x1F0#32, 10#32, 10) := by decide

/-- A state whose lanes 0 and 1 address memory at 0x5000 and 0x5020 through v0:v1, each lane a line of its own. -/
def memSt : State :=
  { mapped [] with w := kpair 0 0x5000#64 (vreg 0 0x5000#32 0x5020#32 (vreg 4 7#32 8#32 warp)) }
/-- The memory key that an access resolves to. -/
def reaches (s : State) (acc : Access) (w : Nat) (line atomic : Bool) (a : DWord) : Option Nat :=
  match s.resolve { acc := acc, width := w, line := line, atomic := atomic, f32Atomic := false, align := true } a with
  | .ok (.memory k _) => some k
  | _ => none
/-- Of `MemoryAccessesSendRequests` and `PrefetchCommitsNothing`. -/
theorem witness_memory_accesses :
    memSt.w.activeLanes ≠ 0#32 ∧ memSt.fab.lines = [] ∧ memSt.w.held = none ∧ memSt.outstandingOf memSt.g.core + 1024 ≤ 8192
    ∧ (∀ l, l < 2 → reaches memSt .read 4 false false (memSt.w.laneAddr 0#32 0#6 61#6 1 0 l) = some (memKey Config.pkgid (0x5000 + 32 * l)))
    ∧ reaches memSt .write 4 false false 0x5000#64 = some (memKey Config.pkgid 0x5000)
    ∧ reaches memSt .write 8 false true 0x5000#64 = some (memKey Config.pkgid 0x5000)
    ∧ uniformAddr 48#6 61#6 = true ∧ isUniformCode 50#6 = true ∧ uniformAddr 0#6 61#6 = false := by decide
theorem test_ld_asks_the_home :
    ((run (.ld (ops 5#6 0#6 61#6 4#4 2#32)) memSt).fab.reqs.map (fun r => (r.kind, r.key, r.len, r.ret)))
      = [(.wtr, memKey Config.pkgid 0x5000, 4, true), (.wtr, memKey Config.pkgid 0x5020, 4, true)] := by decide +kernel
/-- Of `AccessChecksRaiseInOrder`: a lane above 57 bits, and one that is misaligned. -/
theorem witness_access_checks :
    let hi : State := { memSt with w := vreg 1 0#32 0x02000000#32 memSt.w }
    let odd : State := { memSt with w := vreg 0 0x5000#32 0x5022#32 memSt.w }
    (maskOf (fun l => hi.w.activeLanes.getLsbD l && decide (2 ^ 57 ≤ (hi.w.laneAddr 0#32 0#6 61#6 1 0 l).toNat))).lowest = some 1
    ∧ (maskOf (fun l => odd.w.activeLanes.getLsbD l && decide (2 ^ 57 ≤ (odd.w.laneAddr 0#32 0#6 61#6 1 0 l).toNat))) = 0#32
    ∧ (maskOf (fun l => odd.w.activeLanes.getLsbD l && decide ((odd.w.laneAddr 0#32 0#6 61#6 1 0 l).toNat % 4 ≠ 0))).lowest = some 1
    ∧ (run (.ld (ops 5#6 0#6 61#6 4#4 0#32)) odd).w.tb.tlanes = 2#32 := by decide
/-- Of `StashInstructionsKeepTheirWindow`: a range that may be mapped, one that is misaligned, one above 57 bits, and a mapped window. -/
def stash : Window := { base := 0x5000#64, len := 2, off := 3, pol := 0, scope := 0, valid := [0], dirty := [] }
theorem witness_stash :
    memSt.g.mapCheck 0 { stash with valid := [] } = none
    ∧ memSt.g.mapCheck 0 { stash with base := 0x5001#64 } = some .misaligned
    ∧ memSt.g.mapCheck 0 { stash with base := 0x0200000000000000#64 } = some .protection
    ∧ FMap.find { memSt.g with windows := [(0, stash)] }.windows 0 = some stash ∧ FMap.find memSt.g.windows 0 = none := by decide


/-! ## Waiting, fences, barriers, rings -/

/-- Of `WaitaCompletesWhenItsConditionHolds`: the last word of the allotment, which equals k2 and does not differ from it; and the warp that
waits on it, whose condition has come true. -/
def parked (w : Warp) (x : Wait) : Warp := { w with wait := x, active := false }
theorem witness_waita :
    padSt.w.activeLanes ≠ 0#32 ∧ padSt.told = false ∧ padSt.w.awaits (fun y => y.cls == 0) = false ∧ padSt.w.upair 48#6 = padAddr 4080 ∧ 4080 % 4 = 0
    ∧ Says.padNat padSt 4080 4 = 0 ∧ padSt.w.usrc 0#32 50#6 = 0#32 ∧ (padSt.charge 1 4).g.latch = false := by decide
theorem witness_waita_of_memory_and_told :
    (match memSt.resolve waitaKind 0x5000#64 with | .ok (.memory _ _) => true | _ => false) = true ∧ memSt.w.upair 48#6 = 0x5000#64
    ∧ memSt.outstandingOf memSt.g.core + 1 ≤ 8192
    ∧ ({ padSt with w := { padSt.w with cl := some { clause with awaits := [0] } } } : State).told = true := by decide +kernel
theorem witness_waita_wake :
    let s : State := { padSt with w := parked padSt.w (.word (padAddr 4080) (2 ^ 70 + 4080) 1#4 0#32 3 50#6 1) }
    s.isWarp ⟨1, 0⟩ = true ∧ s.g.serial = 1 ∧ s.g.place = .running ∧ s.w.cl.isSome = true ∧ waitaCond 1#4 (BitVec.ofNat 32 (Says.padNat s 4080 4)) 0#32 = true := by decide
/-- Of `FencesPassOrWait`: nothing outstanding, and a load outstanding. -/
def loading : State := { st with w := { warp with outs := [out 3 0] } }
theorem witness_fences :
    st.w.activeLanes ≠ 0#32 ∧ st.w.awaits (fun x => x.cls == 0) = false ∧ st.w.outs = [] ∧ st.w.observed = [] ∧ st.fab.reqs = [] ∧ st.charged = false
    ∧ (st.charge 1 0).queued 1 0x20 = [] ∧ st.w.aflags &&& st.w.amask = 0#32 ∧ loading.w.awaits (fun x => x.cls == 0) = true
    ∧ ({ st with w := { warp with outs := [out 3 4] } } : State).w.awaits (fun x => x.cls == 4) = true := by decide
/-- Of `BarriersCountAndRelease`: k2 holds the count, and another warp of the workgroup waits. -/
def barSt (cnt : Word) (b : Barrier) : State :=
  { st with
    w := { warp with kregs := FMap.put [] 0#32 2 cnt }
    warps := [parked { warp with wid := 1 } (.barrier 5 b.phase false)], g := { wg with bars := FMap.put [] Barrier.idle 5 b } }
theorem witness_barriers :
    (barSt 4#32 { phase := true, count := 0, arrivals := 0 }).w.usrc 0#32 50#6 = 4#32 ∧ st.w.activeLanes.count = 2
    ∧ FMap.get (barSt 4#32 { phase := true, count := 4, arrivals := 2 }).g.bars Barrier.idle 5 = { phase := true, count := 4, arrivals := 2 }
    ∧ st.told = false ∧ st.g.size = 64 := by decide
theorem test_barrier_flips :
    let t := run (.barSync (ops 5#6 50#6 61#6 1#4 0#32)) (barSt 4#32 { phase := true, count := 4, arrivals := 2 })
    FMap.get t.g.bars Barrier.idle 5 = { phase := false, count := 0, arrivals := 0 } ∧ (t.warps.map (fun w => w.wait)) = [.none] := by decide
/-- Of `RingsConfigureFlipAndWait`: a ring of 2 slots of 64 bytes at the end of the allotment, and one configured before. -/
def ringSt : State :=
  { st with
    w := { warp with kregs := FMap.put [] 0#32 2 0x007C0002#32 }
    g := { wg with rings := [(1, { n := 2, base := 0, stride := 4, phase := 2#8 })] }
    warps := [parked { warp with wid := 1 } (.ring 1 0 true false)] }
theorem witness_rings :
    ringSt.w.activeLanes ≠ 0#32 ∧ ringSt.told = false ∧ (ringSt.w.usrc 0#32 50#6).toNat % 2 ^ 16 = 2 ∧ 0x7C + 2 * 2 ≤ ringSt.g.padUnits * 128
    ∧ ringSt.g.namesRing 3 = false ∧ ringSt.g.slotFull 1 0 = some false ∧ ringSt.g.slotFull 1 1 = some true ∧ ringSt.g.slotFull 1 2 = none
    ∧ ({ ringSt with w := parked warp (.ring 1 1 true false) } : State).isWarp ⟨1, 0⟩ = true := by decide

/-! ## Control and exceptions -/

/-- The state at a clause boundary, lane 1 ahead of lane 0. -/
def edge : State := { st with w := { warp with cl := none, lpc := [(0, 0x40#32), (1, 0x80#32)] } }
theorem witness_clause_issue :
    edge.boundaryStop.isSome = false ∧ edge.w.issueOffset = some 0x40#32 ∧ (hdr 0#3).ok = true ∧ (hdr 0#3).eng ≠ 2#3 ∧ edge.w.outs = []
    ∧ ({ hdr 0#3 with wait := 1#6 } : Header).wait.getLsbD (out 3 0).cls = true ∧ (out 3 0).waiting ≠ 0 := by decide
/-- A clause of two instructions, for the clauses about its middle. -/
theorem witness_middle_of_a_clause :
    let c : Clause := { clause with hdr := { hdr 0#3 with n := 2#4 } }
    c.idx + 1 < c.hdr.n.toNat ∧ warp.mac.isNone = true ∧ (alu 0#4).s = false := by decide
/-- Of the statements about the end of a clause, with a marker too: branches, YIELD, CALL, EXIT, split and indirect jumps. -/
theorem witness_end_of_a_clause :
    clause.idx + 1 = clause.hdr.n.toNat ∧ warp.mac.isNone = true ∧ warp.wait = .none ∧ warp.trap.isNone = true ∧ warp.outs = []
    ∧ warp.activeLanes.lowest = some 0 ∧ warp.pred 1 0 = true ∧ warp.pred 1 1 = false
    ∧ ({ warp with cl := some { clause with hdr := { hdr 0#3 with guard := 2#3 } } } : Warp).activeLanes = 0#32 := by decide
/-- A live set of v2 and p1 for index 7, in mapped memory at the code's live-set table. -/
theorem witness_split :
    let tk := maskOf (fun l => warp.activeLanes.getLsbD l && warp.pred 1 l)
    tk = 1#32 ∧ 3#32 &&& ~~~tk = 2#32 ∧ warp.awaits (fun x => x.hasDest) = false ∧ 0x0002000000000004 < 2 ^ 56
    ∧ (0x0002000000000004).testBit 48 = false := by decide
theorem test_split_sends_the_smaller_side_on_a_tie :
    let t := run (.braLane (ops 61#6 1#6 61#6 0#4 0x100#32)) st
    (t.w.lpcOf 0, t.w.lpcOf 1) = (0x140#32, 0x4C#32) := by decide
theorem test_call_leaves_the_return_offset :
    let t := run (.call (ops 5#6 61#6 61#6 0#4 0x100#32)) st
    (t.w.lpcOf 0, t.w.readKey (vkey 5 0)) = (0x140#32, 0x4C#32) := by decide
theorem test_exit_retires_the_lanes : (run (.exit (ops 61#6 61#6 61#6 0#4 0#32)) st).w.live = 0#32 := by decide
/-- Of `IndirectJumpsLandOnPads`: targets that need no pad, one that finds its pad at 0x10, and one that finds none. -/
def pads : State :=
  { mapped (at_ 0x8010 (bytesOfWord 0xC5000041#32 ++ bytesOfWord 0xCBF7DF40#32 ++ bytesOfWord 5#32)) with
    g := { wg with code := 0x8000#64 }, w := vreg 8 0x10#32 0xFFFFFFFF#32 warp }
/-- What `landingPad` answers. -/
def padAt (s : State) (off : Word) (tag : Nat) : Option Bool := match s.landingPad off tag with | .ok b => some b | _ => none
theorem witness_indirect_jumps :
    isOffset (pads.w.src 0#32 8#6 1) = false ∧ pads.w.src 0#32 8#6 0 = 0x10#32 ∧ padAt (pads.charge 1 0) 0x10#32 5 = some true
    ∧ padAt (pads.charge 1 0) 0x10#32 6 = some false ∧ isOffset 0x40#32 = true ∧ 0x40#32 &&& 0xFFFFFFFC#32 = clause.base := by decide +kernel
theorem test_jmpx_lands_on_its_pad :
    let t := run (.jmpx (ops 61#6 8#6 61#6 0#4 5#32)) pads
    (t.w.lpcOf 0, t.w.lpcOf 1) = (0x10#32, lpcExited) := by decide +kernel
/-- A macro image of one operation, `iadd.32 %d, %a, %b`. -/
def image : List MacroOp := [{ word := 0x00000000#32, ext := 0#32, subst := 7#4 }]
theorem witness_macros :
    FMap.find ({ wg with macros := [(5, image)] } : Workgroup).macros 5 = some image ∧ FMap.find wg.macros 5 = none ∧ wg.kids = []
    ∧ ({ wg with kids := [7#32] } : Workgroup).kids ≠ [] := by decide
/-- Of MCLOAD: an image's header and operation in the allotment, and a header that breaks a rule. -/
def mcSt (hd : Word) : State :=
  { st with
    w := kpair 2 5#64 (kpair 0 (padAddr 0) warp)
    g := { wg with pad := (cellsAt 0 (bytesOfWord hd ++ bytesOfWord 0x00000000#32 ++ bytesOfWord 0#32 ++ bytesOfWord 7#32)).filter (fun c => c.2 != 0#8) } }
theorem witness_mcload :
    (mcSt 1#32).w.usrc 0#32 50#6 = 5#32 ∧ (mcSt 1#32).w.upair 48#6 = padAddr 0 ∧ leNat ((mcSt 1#32).g.padRead 0 4) = 1
    ∧ (macroImage 1#32 (imageOps ((mcSt 1#32).g.padRead 4 12) 1).1 (imageOps ((mcSt 1#32).g.padRead 4 12) 1).2) = some image
    ∧ 63 < (64#32).toNat := by decide
theorem test_mcload_keeps_the_image : FMap.find (run (.mcload (ops 61#6 48#6 50#6 0#4 0#32)) (mcSt 1#32)).g.macros 5 = some image := by decide +kernel
/-- Of `LaunchStartsAChildForEachLane`: a packet in the allotment, funded by the workgroup, at depth 9; and depth 10. -/
def childPacket : List Byte :=
  leBytes 2 1 ++ leBytes 2 32 ++ leBytes 4 1 ++ leBytes 2 1 ++ leBytes 2 1 ++ leBytes 2 0 ++ [1#8, 1#8] ++ leBytes 8 0x8000 ++ leBytes 8 0
    ++ leBytes 8 100 ++ leBytes 8 200 ++ List.replicate 16 0#8
def launchSt (depth : Nat) : State :=
  { st with
    w := kpair 0 (padAddr 64) { warp with cl := some { clause with exec := 1#32 } }
    g := { wg with depth := depth, pad := (cellsAt 64 childPacket).filter (fun c => c.2 != 0#8) } }
theorem witness_launch :
    (launchSt 9).w.activeLanes.lowest = some 0 ∧ (launchSt 9).g.depth < 10 ∧ 10 ≤ (launchSt 10).g.depth ∧ (launchSt 9).w.outs = []
    ∧ (launchSt 9).w.packetAddr (ops 4#6 48#6 61#6 0#4 0#32) 0 = padAddr 64 ∧ (padAddr 64).toNat % 64 = 0 ∧ gridFieldsOk childPacket = true
    ∧ (launchSt 9).g.padRead 64 64 = childPacket ∧ pktIpurse childPacket ≤ (launchSt 9).g.ipurse ∧ 50 < pktIpurse childPacket := by decide
theorem test_launch_starts_a_child :
    let t := run (.launch (ops 4#6 48#6 61#6 0#4 0#32)) (launchSt 9)
    (t.g.kids.length, t.grids.map (fun g => g.depth), t.g.ipurse, t.g.mpurse) = (1, [10], 899, 99800) := by decide +kernel
/-- Of the statements about exceptions: a handler, no handler, an exception inside the handler, a result outstanding. -/
theorem witness_exceptions :
    Cause.toHost .misaligned = false ∧ Cause.toHost .translation = true ∧ wg.tvec ≠ lpcExited ∧ warp.frame.isNone = true ∧ warp.pendFails = []
    ∧ loading.w.awaits (fun x => x.hasDest) = true ∧ Workgroup.vacant.tvec = lpcExited ∧ wg.place ≠ .complete
    ∧ ({ warp with aflags := 1#32, amask := 1#32 } : Warp).aflags &&& 1#32 ≠ 0#32 ∧ st.host.faults.length < 4096 ∧ st.host.fqBuffer.length < 256 := by
  decide
theorem test_trap_enters_the_handler :
    let t := run (.trap (ops 61#6 50#6 61#6 0#4 0#32)) { st with w := { warp with kregs := [(2, 9#32)] } }
    (t.w.tb.tcause, t.w.tb.tindex, t.w.tb.taddrLo, t.w.lpcOf 0) = (0x30#32, 1#32, 9#32, 0x200#32) := by decide
theorem test_bkpt_without_a_handler_is_fatal :
    let t := run (.bkpt (ops 61#6 61#6 61#6 0#4 0#32)) { st with g := { wg with tvec := lpcExited } }
    (t.w.live, t.g.status) = (0#32, 3) := by decide
/-- A warp parked on token 7, with the command that answers it; and a context parked on it. -/
def cmd : Cmd := { master := 1, tag := 0xAB000005#32, compl := 0x9000#64 }
/-- The state under an owner; in stage 6 a store's place would have to be held against the firmware's, which is free. -/
def owned (s : State) : State := { s with pkg := { s.pkg with owner := some 1, stage := 4 } }
def tokenSt (x : Parked) (w : Warp) : State :=
  owned { st with w := w, host := { st.host with faults := [{ token := 7, what := x, cancelled := false }] } }
def faultRec : TrapRec :=
  { cause := .translation, lanes := 3#32, addr := 0x5000#64, clause := 0x40#32, index := 0, exec := 3#32, inmac := false, mop := 0, deferred := false }
def waitingWarp : Warp := { parked warp (.token 7) with trap := some faultRec }
theorem witness_answers :
    (tokenSt (.warp ⟨1, 0⟩) waitingWarp).pkg.owner = some cmd.master ∧ (tokenSt (.warp ⟨1, 0⟩) waitingWarp).warpId = ⟨1, 0⟩
    ∧ ((tokenSt (.warp ⟨1, 0⟩) waitingWarp).host.faults.find? (fun f => f.token == 7)).isSome = true
    ∧ ((tokenSt (.warp ⟨1, 0⟩) waitingWarp).host.faults.find? (fun f => f.token == 8)) = none ∧ clause.hdr.n ≠ 0#4 := by decide
/-- Of `TretReturnsFromTheHandler`: a warp in its handler, whose frame resumes at index 1 of a clause. -/
def inHandler : State :=
  { st with
    w := { warp with
      tb := { tcause := 0x30#32 }
      frame := some { lpc := [(0, 0x10#32), (1, 0x20#32)], preds := [(2, 3#32)], cl := some { clause with idx := 1, off := 8, hdr := { hdr 0#3 with n := 2#4 } }, mac := none } } }
theorem witness_tret : inHandler.w.frame.isSome = true ∧ inHandler.w.pendFails = [] ∧ inHandler.w.outs = [] ∧ st.w.frame.isNone = true := by decide
theorem test_tret_resumes_at_the_index :
    let t := run (.tret (ops 61#6 61#6 61#6 0#4 0#32)) inHandler
    (t.w.cl.map (fun c => (c.base, c.idx)), t.w.lpcOf 1, t.w.preds, t.w.frame.isNone) = (some (0x40#32, 1), 0x20#32, [(2, 3#32)], true) := by decide

/-! ## System registers and purses -/

theorem witness_system_registers : st.w.activeLanes ≠ 0#32 ∧ st.w.awaits (fun x => x.cls == 4) = false := by decide
theorem test_srd_reads_the_purse_before_its_charge :
    ((run (.srd (ops 52#6 61#6 61#6 0#4 0#32)) st).w.outs.map (fun x => (x.cls, FMap.find x.vals (ukey 4)))) = [(5, some 1000#32)] := by decide
theorem test_purse_get_reads_it_after :
    ((run (.purseGet (ops 52#6 0#6 61#6 0#4 0#32)) st).w.outs.map (fun x => FMap.find x.vals (ukey 4))) = [some 999#32] := by decide
theorem test_swr_rest_clears_the_low_bits :
    (run (.swr (ops 61#6 50#6 61#6 0#4 2#32)) { st with w := { warp with kregs := [(2, 0x107#32)] } }).g.rest = 0x104#32 := by decide
/-- Of `PurseAmountsMove`: amounts in k4:k5 and k6:k7, a packet in the allotment; an amount above 48 bits; the TOPUP grant. -/
def purseSt : State := { st with w := kpair 6 7#64 (kpair 4 5#64 (kpair 0 (padAddr 64) warp)) }
theorem witness_purses :
    (purseSt.w.upair 52#6).toNat = 5 ∧ (purseSt.w.upair 54#6).toNat = 7 ∧ purseSt.w.upair 48#6 = padAddr 64 ∧ 64 + 64 ≤ purseSt.g.padUnits * 4096
    ∧ 5 ≤ (purseSt.charge 1 0).g.ipurse ∧ Says.padNat purseSt (64 + 0x20) 8 = 0
    ∧ 2 ^ 48 - 1 < (({ st with w := kpair 4 0x0001000000000000#64 warp } : State).w.upair 52#6).toNat := by decide
theorem test_purse_split_funds_the_packet :
    let t := run (.purseSplit (ops 52#6 48#6 61#6 1#4 0#32)) purseSt
    (t.g.ipurse, Says.padNat t 0x60 8, Says.padNat t 0x68 8) = (994, 5, 2 ^ 48 + 7) := by decide
theorem test_purse_add_without_the_grant_is_privileged :
    (run (.purseAdd (ops 61#6 52#6 54#6 2#4 0#32)) purseSt).w.tb.tcause = 7#32 := by decide

/-! ## The matrix pair -/

/-- Eight units of scratchpad and eight tiles: ring 1 has two full slots of 4 KiB; a far descriptor of 64 rows of 64 bytes from 0x4000 of memory stands
at 0x6000;
k0:k1 and k2:k3 name 0 and the descriptor. -/
def farDesc : List Byte := leBytes 8 0x4000 ++ leBytes 4 64 ++ List.replicate 20 0#8
def mxSt : State :=
  { mapped [] with
    w := kpair 2 (padAddr 0x6000) (kpair 0 (padAddr 0) warp)
    g := { wg with
      accAllot := 8, padUnits := 8, rings := [(1, { n := 2, base := 0, stride := 128, phase := 3#8 })]
      pad := (cellsAt 0x6000 farDesc).filter (fun c => c.2 != 0#8) } }
/-- MMA.BF16 on tile 1, one step: A in slot 0 of ring 1, B in its slot 1, or far. -/
def mmaOps (far : Bool) : Ops := ops 50#6 61#6 61#6 0#4 (if far then 0x4181#32 else 0x24101#32)
theorem witness_matrix_instructions :
    mxSt.w.activeLanes ≠ 0#32 ∧ mxSt.tasksUsed mxSt.g.core < 32 ∧ mxSt.charged = false ∧ (mmaOps true).s = false
    ∧ FMap.find mxSt.g.rings 1 = some { n := 2, base := 0, stride := 128, phase := 3#8 } ∧ 1 * 64 * operandRow 0 2 ≤ 128 * 32
    ∧ mxSt.w.upair 50#6 = padAddr 0x6000 ∧ (padAddr 0x6000).toNat % 32 = 0
    ∧ mxSt.w.upair 48#6 = padAddr 0 ∧ (padAddr 0).toNat % 32 = 0 ∧ mxSt.g.flipOf 0 = some none ∧ mxSt.g.flipOf 0x109 = some (some (1, 1))
    ∧ (FMap.get mxSt.g.marks 0 1).testBit 0 = false := by decide
theorem witness_far_descriptor :
    (match (mxSt.charge 1 0).readVa (padAddr 0x6000) 32 .read with | .ok _ bs => bs == farDesc | _ => false) = true
    ∧ (match mxSt.checkPieces .read false false false (farPieces 0x4000#64 64 0 64) [] with | .ok _ => true | _ => false) = true := by decide +kernel
theorem test_mma_joins_the_queue :
    let t := run (.mmaBf16 (mmaOps false)) mxSt
    (t.g.mx.map (fun e => (e.acc, e.released)), t.w.outs.map (fun x => x.cls), t.g.ipurse) = ([(1, false)], [2], 998) := by decide +kernel
/-- An entry at the head of the queue. -/
def entry (op : MxOp) (released : Bool) : MxEntry :=
  { id := 7, wid := 0, out := 3, acc := 1, op := op, released := released, granted := released, relTime := 0, step := 0, clause := 0#32, index := 0, lns := 3#32 }
def mma1 : MxOp := .mma 0 2 2 false false 0 1 (.ring 1 0) (.ring 1 1) [] []
def mxAt (op : MxOp) (released : Bool) : State :=
  { mxSt with w := { mxSt.w with outs := [out 3 2] }, g := { mxSt.g with mx := [entry op released], acc := [(4096, 5#32), (8192, 6#32)], marks := [(1, 3)] } }
theorem witness_matrix_engine :
    (mxAt mma1 false).g.mxHead = some (entry mma1 false) ∧ (mxAt mma1 false).releaseDue (mxAt mma1 false).g = true
    ∧ (mxAt mma1 true).arrayNext 0 = some (1, entry mma1 true) ∧ ((mxAt mma1 true).pair 0).dead = false ∧ (mxAt mma1 true).g.windows = []
    ∧ (mxAt .accz false).accDue (mxAt .accz false).g = true ∧ (mxAt .accz false).g.mxHead = some (entry .accz false)
    ∧ 1#8 &&& ~~~(Pair.fresh).fenced ≠ 0#8 := by decide
theorem witness_operand_rows :
    (match (mxAt mma1 true).rowsBytes [] ((mxAt mma1 true).g.operandRows (.ring 1 0) 64 0) with | .ok _ => true | _ => false) = true
    ∧ (match (mxAt .accz false).prepare [] (farPieces (padAddr 0) 128 0 128) with
        | .ok s => (match s.piecesBytes [] (farPieces (padAddr 0) 128 0 128) with | .ok _ => true | _ => false)
        | _ => false) = true := by decide +kernel
theorem test_accz_clears_its_tile :
    let t := run (.accTurn 1) (mxAt .accz false)
    (t.g.acc, t.g.marks, t.g.mx.length) = ([(8192, 6#32)], [], 0) := by decide +kernel

/-! ## The engines -/

/-- A TCOPY of 16 bytes from 0 to 1,024 of the allotment, a gather of two bytes, and a walk of one record. -/
def copyRec : List Byte :=
  leBytes 8 0x01FFFF0000000000 ++ leBytes 8 0x01FFFF0000000400 ++ leBytes 4 16 ++ leBytes 4 1 ++ leBytes 4 1 ++ leBytes 4 1 ++ List.replicate 96 0#8
def gatherRec : List Byte :=
  leBytes 8 0x01FFFF0000000000 ++ leBytes 8 0x01FFFF0000000400 ++ leBytes 4 2 ++ leBytes 4 1 ++ leBytes 8 0 ++ leBytes 8 2 ++ leBytes 8 0x01FFFF0000000800
    ++ List.replicate 80 0#8
def walkRec : List Byte :=
  leBytes 8 0x01FFFF0000000000 ++ leBytes 8 0x01FFFF0000000100 ++ leBytes 4 0 ++ leBytes 4 1 ++ leBytes 8 0 ++ leBytes 8 0x01FFFF0000000400 ++ List.replicate 88 0#8
def porterCmd (kind : Nat) (r : List Byte) (started : Bool) : PorterCmd :=
  { id := 7, queue := 2, wid := 0, out := 3, kind := kind, record := r, started := started, granted := started, held := none, elem := 0, target := 0, targets := []
    rgen := 0#4, token := 0, clause := 0#32, index := 0 }
def porterSt (kind : Nat) (r : List Byte) (started : Bool) : State :=
  { mxSt with
    w := { warp with outs := [out 3 3] }
    g := { mxSt.g with pad := (cellsAt 0x6000 copyRec ++ cellsAt 0x6080 gatherRec).filter (fun c => c.2 != 0#8), porter := [porterCmd kind r started] } }
theorem witness_porter_issue :
    (match (porterSt 0 copyRec false).readVa (padAddr 0x6000) 128 .read with | .ok t bs => bs == copyRec && t.g.recOk 0 bs | _ => false) = true
    ∧ mxSt.g.recOk 1 gatherRec = true ∧ mxSt.g.recOk 2 gatherRec = true ∧ mxSt.g.recOk 3 walkRec = true ∧ recRank copyRec = false
    ∧ copyRec.length = 128 ∧ gatherRec.length = 128 ∧ walkRec.length = 128 := by decide +kernel
theorem witness_porter :
    (porterSt 0 copyRec false).porterStartDue (porterSt 0 copyRec false).g 2 = true
    ∧ (porterSt 0 copyRec false).g.porterHead 2 = some (porterCmd 0 copyRec false) ∧ (porterSt 0 copyRec false).g.coversNow false 32 = true
    ∧ (porterSt 0 copyRec false).g.coversNow false 100001 = false
    ∧ (porterSt 3 walkRec false).porterStartDue (porterSt 3 walkRec false).g 2 = true
    ∧ (porterSt 0 copyRec true).porterGoes (porterSt 0 copyRec true).g 2 = true ∧ field copyRec 0 8 = 0x01FFFF0000000000
    ∧ field copyRec 8 8 = 0x01FFFF0000000000 + 1024 ∧ 1024 + 16 * 1 ≤ mxSt.g.padUnits * 4096 := by decide +kernel
theorem witness_walk :
    (match (porterSt 3 walkRec false).walkRead 3 walkRec 1 0 [] [] with | .ok _ rows cols => rows == [0] && cols == [0] | _ => false) = true := by decide +kernel
theorem test_tcopy_moves_its_bytes :
    let s : State := { porterSt 0 copyRec true with g := { (porterSt 0 copyRec true).g with pad := [(3, 9#8)] } }
    let t := run (.porterCommandComplete 1 2) s
    (t.g.pad, t.g.porter.length) = ([(3, 9#8), (1027, 9#8)], 0) := by decide +kernel

/-- A descriptor of rank 1 of 4, priority 1, 4,096-byte chunks, purse words at a base, slots of 0x3000 bytes; the rank map follows. -/
def ctxDesc (base : Nat) : List Byte :=
  leBytes 2 1 ++ leBytes 2 4 ++ [1#8, 12#8, 0#8, 0#8] ++ leBytes 8 (base + 0x200) ++ leBytes 8 (base + 0x300) ++ leBytes 8 (base + 0x340)
    ++ leBytes 8 (base + 0x400) ++ leBytes 4 9 ++ leBytes 4 0 ++ (List.range 8).flatMap (fun b => leBytes 8 (base + 0x2000 + 0x1000 * b) ++ leBytes 8 0x3000)
    ++ List.replicate 80 0#8
def rankMap : List Byte := (List.range 4).flatMap (fun _ => leBytes 2 Config.pkgid ++ leBytes 2 0)
/-- Context 3, running at 0x5100 of memory for workgroup 1. -/
def ctx3 : Ctx :=
  { Ctx.idle 3 with st := 1, desc := ctxDesc 0x5000 ++ rankMap, regs := [(1, 2#32), (2, 9#32)], pc := 0x5100#64, wg := 1, out := 77 }
def send1 : CSend := { rank := 1, seq := 0, slot := 0, chunk := 1, granted := true, paid := true, sent := false }
def ctxSt (c : Ctx) : State := let s := mapped []; { s with courier := { s.courier with cur := 3, ctxs := [(3, c)] } }
/-- Of `ItinBindsAnIdleContext`: a descriptor in the allotment, with its rank map, and contexts that are idle, misaligned operands, and one that runs. -/
def itinSt : State :=
  { st with
    w := kpair 4 1#64 (kpair 2 (padAddr 0x100) (kpair 0 0x5100#64 warp))
    g := { wg with pad := (cellsAt 0x100 (ctxDesc 0x01FFFF0000000000) ++ cellsAt 0x200 rankMap).filter (fun c => c.2 != 0#8) } }
theorem witness_itin :
    itinSt.w.activeLanes ≠ 0#32 ∧ (itinSt.w.upair 48#6).toNat % 8 = 0 ∧ (itinSt.w.upair 50#6).toNat % 256 = 0 ∧ (itinSt.ctx 3).st = 0
    ∧ (itinSt.ctx 3).quarantined = false ∧ (itinSt.w.upair 52#6).toNat % 8 ≠ 0 ∧ (itinSt.w.upair 52#6).toNat % 256 ≠ 0
    ∧ ((ctxSt ctx3).ctx 3).st ≠ 0 ∧ descOk 0#4 (ctxDesc 0x5000) = true ∧ mapOk rankMap 4 = true := by decide +kernel
theorem test_itin_binds_the_context :
    let t := run (.itin (ops 48#6 50#6 61#6 0#4 3#32)) itinSt
    ((t.ctx 3).st, (t.ctx 3).pc, (t.ctx 3).nrank, t.w.outs.map (fun x => x.cls)) = (1, 0x5100#64, 4, [3]) := by decide +kernel
/-- Of the itinerary words: c1 names chunk 2, c2 is 9; sends and loops outstanding, or none. -/
theorem witness_itinerary_control :
    (ctxSt ctx3).cur.st = 1 ∧ (ctxSt ctx3).cur.ending = none ∧ (ctxSt ctx3).cur.loops = [] ∧ (ctxSt ctx3).cur.sends = []
    ∧ (ctxSt ctx3).cur.wait = .none ∧ (ctxSt ctx3).queued 1 5 = [] ∧ ((ctxSt ctx3).cur.reg 1).toNat < 1024 ∧ (ctxSt ctx3).cur.parked = 0
    ∧ (ctxSt { ctx3 with regs := [(1, 1024#32)] }).cur.reg 1 = 1024#32
    ∧ (ctxSt { ctx3 with loops := [(0x5108#64, 3), (0x5110#64, 1)] }).cur.loops = (0x5108#64, 3) :: [(0x5110#64, 1)]
    ∧ (porterSt 0 copyRec false).queued 1 4 = [7] ∧ (porterSt 0 copyRec false).commandIds 1 = [7] := by decide +kernel
/-- A context's write and read in mapped memory complete. -/
theorem witness_context_memory :
    (match (ctxSt ctx3).ctxWrite ctx3 (ctx3.status.toNat + 0x40) [4#8] with | .ok _ [] => true | _ => false) = true
    ∧ (match (ctxSt ctx3).ctxWriteWord ctx3 ctx3.compl.toNat (leBytes 4 5) with | .ok _ [] => true | _ => false) = true
    ∧ (match (ctxSt ctx3).ctxRead ctx3 (ctx3.slotBase 0) 16 with | .ok _ bs => bs.length == 16 | _ => false) = true := by decide +kernel
theorem test_setc_and_endl :
    (run (.setc (word 0#4 0#6 0#4 0#4 7#4 0#4 5#32)) (ctxSt ctx3)).cur.reg 7 = 5#32
    ∧ (run (.endl (word 0#4 0#6 0#4 0#4 0#4 0#4 0#32)) (ctxSt { ctx3 with loops := [(0x5108#64, 3)] })).cur.loops = [(0x5108#64, 2)] := by decide +kernel
/-- Rank 1 + 1 of 4; chunk 2 of a slot of three chunks. -/
theorem witness_itinerary_transfer :
    Says.peer (ctxSt ctx3).cur (word 0#4 1#6 0#4 0#4 1#4 0#4 0#32) 2 ∧ Says.chunk ctx3 0 2 (0x7000 + 0x2000) 0x1000
    ∧ ctx3.sends.length < 8 ∧ (ctx3.peer 2).signals = 0 ∧ (List.replicate 8 send1).length = 8 ∧ ctx3.wait ≠ .limit := by
  unfold Says.peer Says.chunk; decide +kernel
/-- Of `CourierEventsMoveChunks`: a copy and a send on the data path, a receive that awaits its chunk, messages of both generations, and a
rank transfer's piece for this package. -/
def onPath (c : Ctx) (kind : Nat) (name : Nat) : State := let s := ctxSt c; { s with courier := { s.courier with path := some (3, kind, name) } }
def msg : CtxMsg := { ctx := 3, gen := 0#4, rank := 2, seq := 0 }
def posted : PostedReq := { srcPkg := Config.pkgid, piece := 9, ctx := 3, gen := 0#4, buf := 0, first := 0, last := 15 }
def piece : Piece := { id := 9, wg := 1, cmd := 7, pkg := Config.pkgid, ctx := 3, gen := 0#4, buf := 0, cells := [(0, 5#8)], count := 1 }
theorem witness_courier :
    (onPath { ctx3 with wait := .path 0 1 2 0 true } 1 5).courier.path = some (3, 1, 5)
    ∧ (match (ctxSt ctx3).ctxRead ctx3.onPath 0x9000 0x1000 with | .ok _ bs => bs.length == 0x1000 | _ => false) = true
    ∧ (onPath { ctx3 with sends := [send1] } 0 send1.name).courier.path = some (3, 0, send1.name)
    ∧ ({ ctx3 with sends := [send1] } : Ctx).sends.find? (fun z => z.name == send1.name) = some send1
    ∧ (ctxSt { ctx3 with sends := [send1] }).chunkOps.length = 1 ∧ (ctxSt ctx3).courier.path = none
    ∧ msg.posted = none ∧ ((ctxSt ctx3).ctx msg.ctx).gen = msg.gen ∧ ((ctxSt { ctx3 with gen := 1#4 }).ctx msg.ctx).gen ≠ msg.gen
    ∧ Says.chunk ctx3 0 2 (0x7000 + 0x2000) 0x1000 ∧ ((ctxSt ctx3).ctx posted.ctx).st = 1 ∧ posted.buf < 8 ∧ posted.last < ctx3.slotLen 0
    ∧ piece.pkg = Config.pkgid ∧ (FMap.get (State.reset).host.routes 0#64 7).getLsbD 63 = false := by
  unfold Says.chunk; decide +kernel
theorem test_grant_reaches_its_send :
    ((run (.grant { msg with rank := 1 }) (ctxSt { ctx3 with sends := [{ send1 with granted := false }] })).ctx 3).sends = [send1] := by decide +kernel

/-! ## Results, warps and workgroups -/

/-- A load of four bytes at 0x5000 of this package's memory, on its way for operation 3. -/
def load : Req :=
  { id := 20, kind := .wtr, key := memKey Config.pkgid 0x5000, len := 4, grain := 128, op := 13, operand := 0, newval := 0, cells := [], scope := 0
    checked := false, schk := true, off := false, comb := true, reissued := false, ret := true, keyid := 0, who := .core Config.pkgid 0, unit := 0#24
    span := 0, vaddr := 0x5000#64, dest := .warp ⟨1, 0⟩ 3 [] 1#32, slot := 0, inc := 0#8, stage := 4 }
/-- The state in which it is outstanding, with a directory entry, lines and a transient. -/
def homeSt (r : Req) (e : List (Nat × Entry)) (ls : List Line) (ts : List Transient) : State :=
  { loading with fab := { loading.fab with reqs := [r], dir := e, lines := ls, trans := ts } }
theorem witness_replies :
    loading.w.present = true ∧ loading.w.outs.find? (fun x => x.id == 3) = some (out 3 0) ∧ (out 3 0).hasDest = true ∧ (out 3 0).fail = none
    ∧ (homeSt load [] [] []).findReq 20 = some load ∧ load.dest = .warp loading.warpId 3 [] 1#32 ∧ loading.findReq 20 = none ∧ loading.courier.pieces = [] := by
  decide
theorem witness_handler_entry :
    let s : State := { st with w := { parked warp .drain with trap := some faultRec, outs := [{ out 3 0 with waiting := 0 }] } }
    s.isWarp s.warpId = true ∧ s.g.serial = s.w.wg ∧ s.w.trap = some faultRec ∧ s.g.tvec ≠ lpcExited ∧ s.w.frame.isNone = true ∧ s.w.pendFails = []
    ∧ s.w.outs.all (fun x => x.waiting == 0 && x.fail.isNone) = true := by decide
/-- A record of a leaving thread, due when its timer has run out. -/
def spawned : SpawnRec := { tid := 5, target := 0x80#32, aflags := 0#32, preds := 2#8, regs := [(2, 7#32)], origin := 0, amask := 0#32 }
def dueSt : State := { st with g := { wg with spawn := [spawned], due := [0x80#32] } }
theorem witness_formed_warps :
    dueSt.targetDue dueSt.g 0x80#32 = true ∧ dueSt.g.place = .running ∧ FMap.wf 0#32 spawned.regs = true
    ∧ (let pending : Warp := { warp with active := false }
       let s : State := { st with w := pending }
       s.inPartition 0 pending.part = [pending] ∧ s.warpReady pending = true) := by decide
/-- The grid of the workgroup. -/
def grid : Grid :=
  { id := 1#32, parent := 0#32, parentWg := 0, packet := 9, depth := 0, order := 0, queue := 0, level := 1, space := 0, topup := false, gx := 1, gy := 1, gz := 1
    bytes := leBytes 2 1 ++ leBytes 2 64 ++ leBytes 4 1 ++ leBytes 2 1 ++ leBytes 2 1 ++ leBytes 2 0 ++ [2#8, 1#8] ++ leBytes 8 0x8000 ++ List.replicate 40 0#8
    nextWg := 0, done := 0, status := 0, started := true, barred := [], aborted := false, macros := [] }
/-- A forced yield with the one warp at a boundary; the workgroup saved; and with no live lane left, complete. -/
def yielded : State := { edge with w := { edge.w with stopped := true, active := false }, g := { wg with forced := true, saveCause := .exhaustion } }
def saved : State := { yielded with w := { yielded.w with present := true }, grids := [grid], g := { wg with place := .saved, heldPurses := some (5, 6), saveCause := .displaced } }
def ended : State := { st with w := Warp.vacant }
theorem witness_saving :
    yielded.saveDue yielded.g = true ∧ yielded.g.windows = [] ∧ yielded.w.res.isNone = true ∧ yielded.g.savedByForce = true
    ∧ (saved.headOf saved.g.queue).map (fun h => h.serial) = some 1 ∧ saved.endsBudget saved.g = false ∧ saved.roomOn 5 saved.g 0 = true
    ∧ ended.completeDue ended.g = true ∧ ({ st with g := { wg with resting := true } } : State).g.resting = true := by decide
theorem witness_placing :
    let s : State := { ended with grids := [grid], g := { wg with place := .unstarted } }
    (s.headOf s.g.queue).map (fun h => h.serial) = some 1 ∧ s.roomOn 5 s.g 0 = true := by decide
theorem test_former_emits_the_thread :
    let t := run (.formedWarpEmit 1 0x80#32) dueSt
    (t.g.spawn.length, (t.warps.filter (fun w => w.formed)).map (fun w => (w.formed, w.live, w.lpcOf 0, w.readKey (vkey 2 0)))) = (0, [(true, 1#32, 0x80#32, 7#32)]) := by decide +kernel

/-! ## The homes -/

/-- An entry of a state for the load's grain, a line that core 5 holds of it, and the transient that awaits that core. -/
def core5 : Party := .core Config.pkgid 5
def entryOf (n : Nat) (o : Option Party) : Nat × Entry :=
  (load.base, { Entry.u with size := 128, ver := 3#8, owner := o, st := n, tvec := 1#16 })
def lineOf5 (ls : LineState) : Line :=
  { who := core5, grain := load.base, size := 128, st := ls, cells := [(load.key, 9#8)], dirty := if ls = .x then [load.key] else [], ver := 3#8, aop := 0
    words := if ls = .p then [(load.key, 4)] else [] }
def awaiting (was : Nat) : Transient :=
  { grain := load.base, head := 20, await := [core5], partials := [], was := was, waiting := [], mode := 0, cells := [], since := 0, inc := 0#8 }
theorem witness_home_serves :
    (homeSt load [] [] []).findReq load.id = some load ∧ (homeSt load [] [] []).stale load.who load.inc = false ∧ load.key % load.grain + load.len ≤ load.grain
    ∧ scopeCheck { (homeSt load [] [] []).entry load.base with size := 128 } load false = .accept ∧ ((homeSt load [] [] []).entry load.base).st = 0
    ∧ (homeSt load [] [] []).poisoned load.key = false ∧ ({ homeSt load [] [] [] with poison := [load.key / 32] } : State).poisoned load.key = true
    ∧ (homeSt load [] [] []).fab.wbuf = [] := by decide +kernel
/-- A checked load of another tile's unit is refused by a record of this unit at tile scope. -/
theorem witness_home_asks :
    let recorded : Entry := { Entry.u with size := 128, svalid := true, sunit := 0x10000#24, sscope := 2 }
    scopeCheck recorded { load with checked := true, scope := 2 } false = .refuse
    ∧ (let s := homeSt { load with kind := .own } [entryOf 1 none] [lineOf5 .t] []
       let t : State := { s with fab := { s.fab with tdirs := [{ grain := load.base, core := 5, l1 := true, stash := false }] } }
       t.trackedBy load.base (t.entry load.base) = [core5])
    ∧ ((homeSt load [entryOf 2 (some core5)] [lineOf5 .x] []).entry load.base).owner = some core5
    ∧ overlap (awaiting 1).grain 128 load.base load.grain = true ∧ ownParty core5 = true ∧ ownParty (.package 9) = false := by decide +kernel
theorem witness_answers_at_home :
    (homeSt load [] [] []).stale core5 0#8 = false ∧ (homeSt load [] [] []).stale core5 1#8 = true ∧ (homeSt load [entryOf 4 none] [] [awaiting 1]).fab.trans = [awaiting 1]
    ∧ (homeSt load [entryOf 2 (some core5)] [lineOf5 .x] []).lineOf core5 load.base = some (lineOf5 .x)
    ∧ (homeSt load [] [] []).askInc load.base = (homeSt load [] [] []).ownInc ∧ (homeSt load [] [] []).host.fqBuffer.length + 1 ≤ 256
    ∧ (homeSt load [(load.base, { Entry.u with size := 128, st := 3, tvec := 1#16 })] [] []).holder load.base (.tile Config.pkgid 0) = true := by decide +kernel
theorem test_write_back_reaches_memory :
    let t := run (.writeBack load.base core5 3#8 [(load.key, 9#8)] 0#8) (homeSt load [entryOf 2 (some core5)] [] [])
    (readByte t.mem load.key, (t.entry load.base).st) = (9#8, 0) := by decide +kernel
theorem test_owner_gives_its_bytes :
    let t := run (.recallHeld load.base core5 false) (homeSt load [entryOf 2 (some core5)] [lineOf5 .x] [])
    (t.fab.lines.length, t.events.length) = (0, 1) := by decide +kernel

/-! ## The Caravan and the reduce apertures -/

/-- Two adds of one word at stage 1, that may be combined; the waybill that answers them. -/
def add (id : Nat) : Req := { load with id := id, kind := .atomic, op := 0, operand := id, stage := 1, schk := false, scope := 3 }
def addSt : State := { st with fab := { st.fab with reqs := [add 20, add 21] } }
def ticket : Ticket := { kind := 1#2, pkg := 0#10, unit := 0#14, index := 0#14 }
def waybill : Waybill :=
  { ticket := ticket, w := false, opf := 0, ret1 := true, ret2 := true, first := add 20, second := add 21, opnd1 := 20, quarantined := false }
theorem witness_caravan :
    addSt.findReq 21 = some (add 21) ∧ (add 20).mergeKind.isSome = true ∧ (add 20).mergeKind = (add 21).mergeKind ∧ sameQueue 1 (add 20) (add 21) = true
    ∧ (addSt.freeWaybill (add 21) 1).isSome = true ∧ peerOfKey (add 20).key = none
    ∧ ({ addSt with fab := { addSt.fab with waybills := [waybill] } } : State).findWaybill ticket = some waybill
    ∧ peerOfKey (memKey domCommon (6 * 2 ^ 54 + 3 * 2 ^ 44)) = some 3 ∧ (0x8000000000000400#64).toNat.testBit 63 = true
    ∧ bitsNat (0x8000000000000400#64).toNat 11 10 ≠ 0 := by decide +kernel
theorem test_adds_merge :
    let t := run (.waystationArrival 1 21) addSt
    (t.fab.reqs.map (fun r => r.operand), t.fab.waybills.length) = ([41], 1) := by decide +kernel
theorem test_second_add_gets_the_sum :
    (run (.replySplit ticket (.value 5#64)) { addSt with fab := { addSt.fab with waybills := [waybill] } }).events
      = [.memoryReply 20 (.value 5#64), .memoryReply 21 (.value 25#64)] := by decide +kernel
/-- A group of two members, a line load of it, and its slot at round 0, with member 1 accepted. -/
def group : Group := { bytes := leBytes 4 (2 ^ 31 + 2 ^ 25 + 1 * 2 ^ 15) ++ leBytes 4 0 ++ leBytes 8 0x8000 ++ leBytes 8 0x9000 ++ leBytes 8 0, quarantined := false, incomplete := 0 }
def lineLoad : ApLoad :=
  { id := 30, warp := ⟨1, 0⟩, out := 3, group := 4, round := 0, off := 0, core := 0, user := true, parts := [], lanes := 1#32, vaddr := 0#64 }
def slot : Slot :=
  { id := 31, req := 30, group := 4, entry := group.bytes, members := [(0x6000, 0, Config.pkgid), (0x7000, 0, Config.pkgid)], round := 0, off := 0
    accepted := [1], failed := [], tagged := [(0, List.replicate 120 0#8)], vals := List.replicate 30 0 }
def apSt (slots : List Slot) : State :=
  { loading with fab := { loading.fab with groups := [(4, group)], apLoads := [lineLoad], slots := slots } }
/-- What a member's read finds. -/
def memberBytes (s : State) (m off n : Nat) : Option (List Byte) := match s.readMember slot m off n with | .bytes bs => some bs | _ => none
theorem witness_apertures :
    (apSt []).fab.slots.length < 64 ∧ FMap.find (apSt []).fab.groups 4 = some group ∧ (apSt [slot]).findSlot 31 = some slot ∧ 0 ∉ slot.accepted ∧ 0 ∉ slot.failed
    ∧ (memberBytes (apSt [slot]) 0 120 8).map leNat = some slot.round ∧ (memberBytes (apSt [slot]) 0 0 120).isSome = true
    ∧ (memberBytes (apSt [slot]) 0 120 8).map leNat ≠ some 7 ∧ slot.accepted.length + 1 = slot.members.length ∧ (apSt [slot]).slotLoad slot = some lineLoad
    ∧ physKey (BitVec.ofNat 64 (field slot.entry 8 8)) = some (memKey Config.pkgid 0x8000) ∧ (apSt [slot]).heldOutside (memKey Config.pkgid 0x8000) 32 = false
    ∧ (match (apSt [slot]).homeWrite (cellsAt (memKey Config.pkgid 0x8000) (slot.status lineLoad 1)) with | .ok _ => true | _ => false) = true := by decide +kernel

/-! ## The fabric -/

/-- A flit for this package with a sequence number and a position, its CRC as R331 gives it; a link whose inbound slot 0 holds key 7, which
has gathered four flits, or none; and one with flits that await acknowledgement. -/
def flit (seq pos : Nat) : Flit :=
  let f : Flit := ({ header := BitVec.ofNat 64 (Config.pkgid * 2 ^ 21), payload := List.replicate 120 5#8 } : Flit).withLink 0 seq false pos
  f.withLink (flitCrc f) seq false pos
def keys : KeySlots := { KeySlots.none with slot0 := some 7 }
def linkSt (l : Link) : State := { st with host := { st.host with links := [(3, l)], routes := [(9, 0xC000000000000003#64)] } }
def rxLink (n : Nat) : Link := { Link.down with up := true, rx := keys, tx := keys, expSeq := BitVec.ofNat 8 n, group := (List.range n).map (fun i => flit i i) }
def txLink (n : Nat) : Link := { rxLink 0 with unacked := [(flit 0 0, flit 0 0), (flit 1 1, flit 1 1)], replays := n }
theorem witness_links :
    (flit 0 0).payload.length = 120 ∧ (flit 4 4).crc = flitCrc (flit 4 4) ∧ (flit 4 4).gpos = 4 ∧ (flit 4 4).seq = (rxLink 4).expSeq.toNat
    ∧ (rxLink 4).rx.use (flit 0 0).kslot = some (7, 0, 0) ∧ (flit 2 0).seq ≠ (rxLink 0).expSeq.toNat ∧ (flit 4 3).gpos ≠ (rxLink 4).group.length
    ∧ (rxLink 4).group.length = 4 ∧ (rxLink 4).groupSkid = false ∧ ((linkSt (rxLink 4)).link 3).up = true
    ∧ (txLink 0).unacked = [(flit 0 0, flit 0 0)] ++ (flit 1 1, flit 1 1) :: [] ∧ (flit 0 0).seq ≠ 1 ∧ (txLink 0).outq = [] ∧ (txLink 9).replays = 9 := by
  decide +kernel
/-- A group left open, a message in skid mode, a rotation that has ended, and a drain sweep. -/
def skid : Skid := { seq := 4, flit := flit 4 4, out := none, own := some true, need := 1 }
def drainSt (round : Option Nat) : State := let s := linkSt (rxLink 0); { s with host := { s.host with drainRound := round } }
theorem witness_link_events :
    (let l : Link := { rxLink 0 with openGroup := [flit 0 0] };
      l.openGroup ≠ [] ∧ l.openGroup.length < 5 ∧ l.unacked.length + 5 ≤ 128 ∧ (l.tx.use (flit 0 0).kslot).isSome = true)
    ∧ ((linkSt { rxLink 0 with held := [skid] }).link 3).held = [skid]
    ∧ ({ rxLink 0 with tx := { keys with rotating := true } } : Link).rotationDone = true
    ∧ (drainSt none).usedPorts = [3] ∧ ((drainSt none).link 3).markers = [] ∧ (drainSt (some 4)).host.drainRound = some 4
    ∧ (∀ q ∈ (drainSt (some 4)).usedPorts, q ≠ 3 → 4 ∈ ((drainSt (some 4)).link q).markers) ∧ (drainSt none).podPackages = [Config.pkgid, 9]
    ∧ (9 ∉ (drainSt none).host.drained) := by decide +kernel
theorem test_flit_joins_its_group :
    ((run (.flitReceive 3 (flit 2 2)) (linkSt (rxLink 2))).link 3).group.length = 3 := by decide +kernel
theorem test_nak_replays : (run (.nak 3 1#8) (linkSt (txLink 0))).outbox = [.flit 3 (flit 1 1)] := by decide +kernel

/-- A peer in use that may send physical addresses, and its requests of eight bytes at 0x5000; one by virtual address. -/
def peerSt : State := let s := mapped (at_ 0x5000 [5#8]); { s with host := { s.host with peers := [(3, 0xC000000000000400#64)] } }
def peerReq (op : PeerOp) (physical : Bool) : PeerReq :=
  { id := 40, peer := 3, op := op, translated := physical, addr := 0x5000#64, len := 8, bytes := [(0, 9#8)], operand := 2#64, newval := 3#64, wide := true }
theorem witness_peers :
    [PeerOp.read, .write, .atomic 0#4, .compareSwap].all (fun op => peerOpOk (peerReq op true)) = true ∧ peerOpOk (peerReq .unsupported true) = false
    ∧ (FMap.get peerSt.host.peers 0#64 3).toNat.testBit 63 = true ∧ (FMap.get peerSt.host.peers 0#64 3).toNat.testBit 62 = true
    ∧ regionOf 0x5000 ≠ 7 ∧ keyOfPa Config.pkgid false 0x5000 = some (memKey Config.pkgid 0x5000) ∧ inFixedRange 0x5000 = false
    ∧ peerSt.behindQueue (peerReq .read true) (memKey Config.pkgid 0x5000) = false ∧ peerSt.heldOutside (memKey Config.pkgid 0x5000) 8 = false
    ∧ peerSt.peerRefused 3 (memKey Config.pkgid 0x5000 / 32) = false
    ∧ (match translate peerSt 0 1 .read 0x5000 with | .ok (k, _) => k == memKey Config.pkgid 0x5000 | _ => false) = true := by decide +kernel
theorem witness_peer_timeout :
    let s := homeSt load [] [] []
    let t : State := { s with host := { s.host with peerReqs := [(3, [20])], peerTimeouts := [(3, 3)] } }
    t.host.peerReqs.find? (fun q => q.2.contains 20) = some (3, [20]) ∧ FMap.get t.host.peerTimeouts 0 3 + 1 = 4 ∧ t.fab.trans = [] := by decide
theorem test_peer_reads_memory :
    (run (.ualinkRequest (peerReq .read true)) peerSt).outbox
      = [.peerAnswer 40 3 (.fill (cellsAt 0 (5#8 :: List.replicate 7 0#8)) .none 0#8)] := by decide +kernel

/-! ## Queues, packets and the host -/

/-- Queue 5, enabled, of 16 entries at 0x8000, with its descriptor at 0x4000. -/
def queue : Queue := { desc := 0x4000#64, space := 0, readIdx := 0, notified := 0 }
def queueDesc : List Byte := leBytes 8 0x8000 ++ leBytes 4 (2 ^ 18 + 2 ^ 16 + 4) ++ List.replicate 52 0#8
def queueSt (ps : List Packet) : State :=
  let s := owned (mapped (at_ 0x4000 queueDesc ++ at_ 0x8020 [7#8] ++ at_ 0x5004 [0x10#8]))
  { s with g := { wg with grid := 7#32 }, packets := ps, host := { s.host with queues := [(5, queue)], fqSize := 4 } }
def packet (bs : List Byte) (started : Bool) : Packet :=
  { id := 50, queue := 5, bytes := bs, started := started, deps := [], token := 0, grid := 0#32, status := 0, ctx := 0, finished := false }
def gridPkt : List Byte :=
  leBytes 2 1 ++ leBytes 2 64 ++ leBytes 4 1 ++ leBytes 2 1 ++ leBytes 2 1 ++ leBytes 2 0 ++ [2#8, 1#8] ++ leBytes 8 0xA000 ++ leBytes 8 0 ++ leBytes 8 100 ++ leBytes 8 200
    ++ leBytes 8 0x5008 ++ leBytes 8 0
def barPkt : List Byte := leBytes 2 2 ++ List.replicate 6 0#8 ++ leBytes 8 0x5004 ++ List.replicate 48 0#8
def itinPkt : List Byte := leBytes 2 3 ++ leBytes 2 0 ++ leBytes 4 3 ++ leBytes 8 0 ++ leBytes 8 0x5100 ++ leBytes 8 0x5200 ++ List.replicate 32 0#8
def ended50 (bs : List Byte) : Packet := { packet bs true with finished := true }
theorem witness_queues :
    bitNat ((queueSt []).queueCtl queue) 18 = true ∧ (queueSt []).queueEntries queue = 16 ∧ physKey (queue.desc + 8#64) = some (memKey Config.pkgid 0x4008)
    ∧ (queueSt []).fab.dir = [] ∧ (queueSt []).fab.reqs = [] ∧ (queueSt []).poison = [] ∧ (queueSt []).host.fqBuffer.length < 256 := by decide +kernel
theorem witness_packets :
    (queueSt [packet gridPkt false]).findPacket 50 = some (packet gridPkt false) ∧ (queueSt [packet gridPkt false]).mayStart (packet gridPkt false) = true
    ∧ hostGridOk gridPkt = true ∧ hostGridOk barPkt = false ∧ barrierAndOk barPkt = true ∧ barrierAndOk (2#8 :: 0#8 :: 9#8 :: barPkt.drop 3) = false
    ∧ itineraryOk itinPkt = true ∧ itineraryOk gridPkt = false ∧ ((queueSt []).ctx 3).st = 0 ∧ (queueSt []).findGrid 0#32 = none
    ∧ (match (queueSt []).kernelCheck 0 1 0xA000#64 with | .ok _ ms => ms.isEmpty | _ => false) = true
    ∧ pktType barPkt = 2 ∧ (queueSt [ended50 gridPkt]).packetDone (ended50 gridPkt) = true ∧ (queueSt [packet gridPkt true]).packetDone (packet gridPkt true) = false
    ∧ pktWord gridPkt = 0x5008 ∧ pktWord barPkt = 0 := by decide +kernel
theorem witness_packet_words :
    (match (queueSt []).ctxRead (accessor 0 1 50) 0x5004 4 with | .ok _ bs => leNat bs == 16 | _ => false) = true
    ∧ (match (queueSt []).ctxWrite (accessor 0 1 50) 0x5008 (leBytes 4 0) with | .ok _ [] => true | _ => false) = true := by decide +kernel
theorem test_notify_copies_packets :
    let t := run (.notify 5 2#64) (queueSt [])
    (t.packets.map (fun p => p.queue), (FMap.find t.host.queues 5).map (fun q => q.readIdx)) = ([5, 5], some 2) := by decide +kernel
/-- A record in the buffer, and room in the ring or none; a master's command, and one that is not the owner's. -/
def ringSt4 (size : Nat) : State :=
  let s := queueSt []
  { s with host := { s.host with fqBuffer := [List.replicate 64 1#8], fqBase := 0x6000#64, fqSize := size } }
theorem witness_host :
    (ringSt4 4).host.ringRoom = true ∧ (ringSt4 0).host.ringRoom = false ∧ Says.may cmd (queueSt []) ∧ ¬Says.may cmd st ∧ physKey cmd.compl = some (memKey Config.pkgid 0x9000)
    ∧ ((queueSt []).physRead 0x4000#64 64) = some queueDesc ∧ queueDescOk queueDesc = true ∧ memoryAddr 0x4000#64 = true ∧ ownOrCompanion 0x4000#64 = true
    ∧ memoryAddr 0x1000000000000000#64 = false ∧ (queueSt []).findGrid 1#32 = none ∧ (saved.findGrid 1#32).isSome = true ∧ keys.rotating = false
    ∧ keys.use true = none ∧ ({ keys with slot1 := some 8 } : KeySlots).use true ≠ none := by
  unfold Says.may; decide +kernel
theorem witness_pending_commands :
    let p : PendCmd := { id := 60, cmd := cmd, kind := 0, grid := 1#32, cores := [0], space := 0, base := 0, len := 0, old := [9] }
    ({ st with host := { st.host with cmds := [p] } } : State).findCmd 60 = some p ∧ (∀ n ∈ p.old, n ∉ st.inFlight 0)
    ∧ (∃ g ∈ st.allWgs, g.grid = p.grid ∧ g.place = .running ∧ g.serial ≠ 0 ∧ g.core ∈ p.cores) ∧ ended.allWgs.length = 1 := by
  refine ⟨by decide, by decide, ⟨st.g, by decide⟩, by decide⟩
theorem test_space_registers :
    FMap.find (run (.space cmd 6 0x8000#64 0x9000#64) (queueSt [])).host.spaces 6 = some { root := 0x8000#64, keys := 0x9000#64 } := by decide +kernel
/-- The election, the mailbox of an owner, a region with its publisher, and a governor with a workgroup's command in its queue. -/
def claimed : State := { State.reset with pkg := { State.reset.pkg with stage := 4, windowOpen := true, claims := [(0, 5, 0x7000#64), (2, 9, 0x7000#64)] } }
theorem witness_package :
    claimed.pkg.stage = 4 ∧ claimed.pkg.claims ≠ [] ∧ State.reset.pkg.claims = [] ∧ claimed.pkg.mailbox = 0 ∧ claimAddrOk 0x7000#64 = true ∧ claimAddrOk 0x1000000000000000#64 = false
    ∧ (queueSt []).pkg.owner = some 1 ∧ (queueSt []).pkg.pendingOwner ≠ some 1 ∧ keyGranted (queueSt []) { root := 0#64, keys := 0#64 } 7 = false
    ∧ ((porterSt 0 copyRec true).gov 0).queue = [] ∧ st.host.fqBuffer.length < 256 ∧ FMap.get st.g.marks 0 1 < 4 ∧ st.events = []
    ∧ (porterSt 0 copyRec true).wantsLeave 1 7 = false ∧ (porterSt 0 copyRec true).wantsLeave 1 8 = false := by decide +kernel
theorem test_highest_priority_owns : (run .claimWindowClose claimed).pkg.owner = some 2 := by decide +kernel
theorem test_handover_of_the_owner : (run (.handover 1 2) (queueSt [])).pkg.pendingOwner = some 2 := by decide +kernel

/-! ## More states for the clauses of statements -/

/-- Of `AluFrameAndCharge` and `LaunchStartsAChildForEachLane`: nothing is set aside for an MX clause, and the purse has more than a charge. -/
theorem witness_nothing_set_aside :
    st.w.res.isNone = true ∧ st.w.frame.isNone = true ∧ 1 < st.g.ipurse ∧ st.w.activeLanes = 3#32 ∧ (∀ c, st.w.cl = some c → c.addrs = [])
    ∧ (launchSt 9).w.observed = [] ∧ (launchSt 9).ownUnderWay ⟨1, 0⟩ = false ∧ (launchSt 9).w.res.isNone = true ∧ (launchSt 9).w.frame.isNone = true := by
  refine ⟨by decide, by decide, by decide, by decide, ?_, by decide, by decide, by decide, by decide⟩
  rintro c h
  cases h
  rfl
/-- A frozen grain: its entry awaits answers. -/
def frozen (s : State) (key : Nat) : State :=
  let g := key - key % 128
  { s with fab := { s.fab with
      dir := [(g, { Entry.u with size := 128, st := 4 })]
      trans := [{ grain := g, head := 20, await := [.core Config.pkgid 5], partials := [], was := 1, waiting := [], mode := 0, cells := [], since := 0, inc := 0#8 }] } }
/-- Of `StepRunsTheDecodedStep`: a command that reads its descriptor, where the home must first settle it; and a ring with a command. -/
theorem witness_step_of_reads_and_rings :
    (let s := frozen { State.reset with pkg := { State.reset.pkg with stage := 6 }, events := [.regq cmd 5 0x4000#64 0] } (memKey Config.pkgid 0x4000)
     s.agents = [.event (.regq cmd 5 0x4000#64 0)] ∧ s.eventReads (.regq cmd 5 0x4000#64 0) ≠ []
     ∧ (match s.homeGets pkgParty ctlAgent (s.eventReads (.regq cmd 5 0x4000#64 0)) with | .wait _ => true | _ => false) = true)
    ∧ (let s : State := { State.reset with
        pkg := { State.reset.pkg with stage := 6, owner := some 1 }, host := { State.reset.host with cmdWrite := [(1, 1)] } }
       s.agents = [.ring 1]) := by decide +kernel
/-- Of `PrefetchCommitsNothing`: the tables are at hand. -/
theorem witness_prefetch :
    (∀ l, l < 2 → (match memSt.resolve { acc := .read, width := 1, line := false, atomic := false, f32Atomic := false, align := false }
        (memSt.w.laneAddr 0#32 0#6 61#6 1 0 l) with | .error (0, _) => false | _ => true) = true) := by decide +kernel
/-- Of `AccessChecksRaiseInOrder`: an address above 57 bits, or in the allotment, whatever the access. -/
theorem witness_checks_without_walks (k : AccessKind) :
    st.resolve k 0x0200000000000000#64 ≠ .error (0, .walkWait) ∧ st.resolve k (padAddr 18) ≠ .error (0, .walkWait) := by
  constructor
  · simp [State.resolve]
  · have h : (padAddr 18).toNat = 0x01FFFF0000000012 := by decide
    have hf : inFixedRange 0x01FFFF0000000012 = true := by decide
    simp only [State.resolve, h, apertureOf, hf]
    repeat' split
    all_goals try simp_all [apertureBase]
    all_goals (rename_i hh _; by_cases hc : 18 + k.width ≤ st.g.padUnits * 4096 <;> simp [hc] at hh)
/-- Of `StashInstructionsKeepTheirWindow`: lengths at their bounds, a range beyond the allotment, one that meets another window, one beside it;
and a window with a dirty sector in a core whose entries are all in use. -/
theorem witness_stash_checks :
    let g : Workgroup := { memSt.g with windows := [(1, { stash with base := 0x6000#64, off := 8 })] }
    let w : Window := { stash with valid := [] }
    g.mapCheck 0 { w with len := 0 } = some .illegalOperand ∧ g.mapCheck 0 { w with len := 12289 } = some .illegalOperand
    ∧ g.mapCheck 0 { w with len := 12288 } = some .protection ∧ g.mapCheck 0 { w with off := 126 } = none ∧ g.mapCheck 0 { w with off := 127 } = some .protection
    ∧ g.mapCheck 0 { w with off := 9 } = some .protection ∧ g.mapCheck 0 { w with base := 0x5FE0#64 } = some .protection ∧ g.mapCheck 0 w = none
    ∧ overlap 9 2 8 2 = true ∧ overlap 0x5FE0 64 0x6000 64 = true ∧ overlap 0x5000 64 0x6000 64 = false := by decide
def fullSt : State :=
  { memSt with
    g := { memSt.g with windows := [(0, { stash with dirty := [0], pol := 2 })] }
    fab := { memSt.fab with apLoads := List.replicate 8192 ({ id := 30, warp := ⟨1, 0⟩, out := 3, group := 4, round := 0, off := 0, core := 0, user := true, parts := [], lanes := 1#32, vaddr := 0#64 } : ApLoad) } }
theorem witness_stash_without_entries :
    FMap.find fullSt.g.windows 0 = some ({ stash with dirty := [0], pol := 2 } : Window)
    ∧ fullSt.fits (fullSt.windowNeeds fullSt.g { stash with dirty := [0], pol := 2 }) = false := by decide +kernel
/-- Of `WaitaCompletesWhenItsConditionHolds`: the answer of memory to a WAITA that waits on a word. -/
def waitReq : Req :=
  { id := 20, kind := .wtr, key := memKey Config.pkgid 0x5000, len := 4, grain := 128, op := 13, operand := 0, newval := 0, cells := [], scope := 3
    checked := false, schk := true, off := false, comb := true, reissued := false, ret := true, keyid := 0, who := .core Config.pkgid 0, unit := 0#24
    span := 0, vaddr := 0x5000#64, dest := .waita ⟨1, 0⟩ 1 false, slot := 0, inc := 0#8, stage := 4 }
theorem witness_waita_answer :
    let s : State := { memSt with
      w := parked memSt.w (.word 0x5000#64 (memKey Config.pkgid 0x5000) 1#4 7#32 3 50#6 1), fab := { memSt.fab with reqs := [waitReq] } }
    let rep := fun (b : Byte) => Reply.fill (cellsAt waitReq.key [b, 0#8, 0#8, 0#8]) .none 0#8
    s.isWarp ⟨1, 0⟩ = true ∧ s.g.serial = 1 ∧ s.g.place = .running ∧ s.w.cl.isSome = true ∧ s.findReq waitReq.id = some waitReq ∧ s.g.latch = false
    ∧ (match waitReq.replyRead (rep 7#8) with | .ok bs => waitaCond 1#4 (BitVec.ofNat 32 (leNat bs)) 7#32 | _ => false) = true
    ∧ (match waitReq.replyRead (rep 8#8) with | .ok bs => !(waitaCond 1#4 (BitVec.ofNat 32 (leNat bs)) 7#32) | _ => false) = true := by decide +kernel
/-- Of the releases of `FencesPassOrWait`, `BarriersCountAndRelease`, `RingsConfigureFlipAndWait` and `SplitRecordsTheLeavingThreads`: an own store still
on its way, and none. -/
def storing : State := { st with fab := { st.fab with reqs := [{ waitReq with kind := .own, op := 14, cells := [(waitReq.key, 1#8)], dest := .warp ⟨1, 0⟩ 3 [] 1#32 }] } }
theorem witness_releases :
    storing.w.awaits (fun x => x.cls == 0) = false ∧ storing.ownUnderWay storing.warpId = true ∧ storing.heldDone storing.w 1 = false ∧ storing.told = false
    ∧ st.ownUnderWay st.warpId = false ∧ st.heldDone st.w 1 = true ∧ storing.w.awaits (fun x => x.hasDest) = false ∧ loading.w.awaits (fun x => x.hasDest) = true
    ∧ ({ st with w := { warp with cl := some { clause with awaits := [0] } } } : State).told = true
    ∧ ({ st with w := { warp with outs := [out 3 1] } } : State).w.awaits (fun x => x.cls == 1) = true
    ∧ (∃ r ∈ storing.leafReqs, r.kind = .own ∧ r.op = 14) ∧ st.leafReqs = [] := by decide +kernel
theorem witness_qfence :
    let s := porterSt 0 copyRec false
    s.charged = false ∧ ((s.charge 1 0).queued 1 4).filter (fun n => ((s.charge 1 0).commandIds 1).contains n) = [7] ∧ s.w.awaits (fun x => x.cls == 0) = false
    ∧ (mxAt mma1 false).g.namesRing 1 = true ∧ 0x7C + (1 + 1) * 2 ≤ (mxAt mma1 false).g.padUnits * 128 := by decide +kernel
/-- Of `IndirectJumpsLandOnPads`: a target whose code cannot be fetched. -/
theorem witness_jump_to_unmapped_code :
    (match (pads.charge 1 0).landingPad 0x40000000#32 5 with | .error c => c == .translation | _ => false) = true
    ∧ isOffset 0x40000000#32 = true ∧ (0x40000000#32 &&& 0xFFFFFFFC#32) ≠ clause.base := by decide +kernel
/-- Of MCLOAD: headers with 0 and with 33 operations; addresses above 57 bits and misaligned. -/
theorem witness_mcload_headers :
    (match (mcSt 0#32).readVa (padAddr 0) 4 .read with | .ok _ bs => leNat bs == 0 | _ => false) = true
    ∧ (match (mcSt 33#32).readVa (padAddr 0) 4 .read with | .ok _ bs => leNat bs == 33 | _ => false) = true
    ∧ 2 ^ 57 ≤ (0x0200000000000000#64).toNat ∧ (padAddr 2).toNat % 4 ≠ 0 ∧ (padAddr 2).toNat < 2 ^ 57 := by decide +kernel
/-- Of `HostDestinedCausesParkUntilAnswered`: a buffer that others wait for, and tokens: cancelled, and with one waiting behind. -/
def faultEntry (t : Nat) (c : Bool) : FaultEntry := { token := t, what := .warp ⟨1, 0⟩, cancelled := c, addrs := [(0, 0x5000#64)] }
def faultsSt (c : Bool) (waiting : List (FaultEntry × Rec)) : State :=
  owned { st with w := waitingWarp, host := { st.host with faults := [faultEntry 7 c], faultWait := waiting } }
theorem witness_fault_buffer :
    (faultsSt false []).host.faultWait = [] ∧ (faultsSt false [(faultEntry 8 false, { kind := 1, cause := 0x20 })]).host.faultWait ≠ []
    ∧ (faultsSt true []).host.faults.find? (fun f => f.token == 7) = some (faultEntry 7 true) ∧ (faultEntry 7 true).cancelled = true
    ∧ (faultsSt false []).host.faults.find? (fun f => f.token == 7) = some (faultEntry 7 false) ∧ memoryAddr cmd.compl = true
    ∧ (faultsSt false []).w.wait = .token 7 ∧ (faultsSt false []).w.trap = some faultRec ∧ 4096 ≤ (List.replicate 4096 (faultEntry 7 false)).length := by decide +kernel
/-- Of `TretReturnsFromTheHandler`. -/
theorem witness_tret_frame :
    (∀ fr, inHandler.w.frame = some fr → fr.pend = [] ∧ fr.res = none) ∧ inHandler.w.res = none ∧ inHandler.w.live ≠ 0#32 := by
  refine ⟨?_, rfl, by decide⟩
  rintro fr h
  cases h
  exact ⟨rfl, rfl⟩
/-- Of `PurseAmountsMove`: an amount above the purse; a packet that is misaligned, or above 57 bits; the TOPUP grant with an amount above 48 bits. -/
theorem witness_purse_refusals :
    (match (purseSt.charge 1 0).heldRelease with | .free r => (match r.readVa (padAddr 64 + 0x20#64) 16 .write with
        | .ok t bs => decide (5 ≤ t.g.ipurse) && !(decide (2000 ≤ t.g.ipurse)) && leNat (bs.take 8) == 0 | _ => false) | _ => false) = true
    ∧ (padAddr 68).toNat % 64 ≠ 0 ∧ purseSt.g.heldPurses.isNone = true ∧ ({ purseSt.g with topup := true } : Workgroup).topup = true := by decide +kernel
/-- Of `WarpAndWorkgroupEventsAct`: grace counters that hold nothing, a forced yield under way, one warp that waits for its classes. -/
theorem witness_forced :
    let s : State := { edge with g := { wg with resting := true, graceUnits := 0, graceBytes := 5, forced := true }, w := { edge.w with wait := .classes 2#6 } }
    s.noFunds s.g = true ∧ s.g.forced = true ∧ s.g.place = .running ∧ s.w.cl = none ∧ s.w.live ≠ 0#32 := by decide
/-- Of `ItineraryTransferWordsActOnTheirContext` and `CourierEventsMoveChunks`: a word that the home adds to at once. -/
theorem witness_signal_add :
    let s := ctxSt ctx3
    let k := memKey Config.pkgid 0x5300
    s.direct true k 4 = true ∧ s.fab.asks = [] ∧ (match s.homeRead k 4 with | .ok bs => leNat bs == 0 | _ => false) = true
    ∧ (match s.homeWrite (cellsAt k (leBytes 4 3)) with | .ok _ => true | _ => false) = true
    ∧ (match s.homeAtomic pkgParty ctx3.id k 4 0 3 (fun old => (old + 3) % 2 ^ 32) with | .ok _ => true | _ => false) = true
    ∧ (match ({ s with acting := 0 } : State).homePut pkgParty 0 (cellsAt k [1#8]) with | .ok _ => true | _ => false) = true := by decide +kernel
/-- Of `HomeServesRequestsOnUnheldGrains` and `HomeAsksTheHolders`: reductions and add forms of engines; forward-buffer entries in use at package 9. -/
theorem witness_engine_atomics :
    ({ load with kind := .atomic, op := 34 } : Req).op = 34 ∧ 64 ≤ ({ load with kind := .atomic, op := 66 } : Req).op
    ∧ (let s := homeSt load [] [] []
       let t : State := { s with host := { s.host with routes := [(9, 0xC000000000000003#64)], forwards := [(9, 3)] } }
       t.routed 9 = true ∧ FMap.get t.host.forwards 0 9 + 1 ≤ 4 ∧ 4 ≤ FMap.get ([(9, 4)] : FMap Nat) 0 9 ∧ ownParty (.core 9 0) = false)
    ∧ homePkg load.base = Config.pkgid := by decide +kernel
/-- Of `ReduceAperturesCollectTheirMembers`: a member's read under its number, and its data. -/
theorem witness_member_reads :
    let s : State := { apSt [slot] with acting := slot.reader 0 }
    memberBytes s 0 120 8 = some (List.replicate 8 0#8) ∧ (memberBytes s 0 0 120).map List.length = some 120 ∧ (s.memberKey slot 0 0).isSome = true
    ∧ (match s.homePut pkgParty slot.id (cellsAt (memKey Config.pkgid 0x8000) (slot.status lineLoad 1)) with | .ok _ => true | _ => false) = true := by
  decide +kernel
/-- Of `LinksDeliverVerifiedGroups`: a flit in order and sound, in containment mode and in skid mode; a route that leads back to the flit's port; a
held message whose hop has judged it; an inbound slot to clear; the markers of a sweep. -/
theorem witness_links_again :
    (flit 4 4).src = 0 ∧ (flit 4 4).cls = 0 ∧ (flit 4 4).dst = Config.pkgid ∧ (flit 0 0).crc = flitCrc (flit 0 0) ∧ (flit 3 3).gpos = (rxLink 3).group.length
    ∧ ((linkSt (rxLink 4)).link 3).held = [] ∧ (let s := linkSt (rxLink 4); let t : State := { s with host := { s.host with routes := [(0, 0xC000000000000003#64)] } }
        bitNat (t.route 0) 63 = true ∧ bitNat (t.route 0) 62 = true ∧ t.route 0 % 32 = 3)
    ∧ skid.need = 1 ∧ skid.own = some true ∧ skid.out = none ∧ skid.flit.cls ≠ 3
    ∧ (rxLink 0).rotationDone = false ∧ (({ rxLink 0 with rx := { keys with slot1 := some 8 } } : Link).rx.use true).isSome = true
    ∧ 3 ≠ ejectPort ∧ ejectPort ∈ ejectPort :: (drainSt (some 4)).usedPorts ∧ ((drainSt (some 4)).link ejectPort).markers = []
    ∧ (let s := drainSt (some 4); let t : State := { s with host := { s.host with links := s.host.links ++ [(32, { Link.down with markers := [4] })] } }
       ∀ q ∈ ejectPort :: t.usedPorts, q ≠ 3 → 4 ∈ (t.link q).markers) := by decide +kernel
/-- Of `PeerRequestsArePerformedAtHome`: the companion's access, the control window of a peer with the right, and a doorbell; the address of a fault. -/
def ctlWrite (peer off len : Nat) : PeerReq :=
  { id := 41, peer := peer, op := .write, translated := true, addr := BitVec.ofNat 64 (7 * 2 ^ 54 + off), len := len
    bytes := (List.range len).map (fun i => (i, if i = 0 then 2#8 else 0#8)), operand := 0#64, newval := 0#64, wide := true }
theorem witness_companion_and_doorbells :
    peerOpOk (ctlWrite 3 0 16) = true ∧ peerOpOk (ctlWrite 1025 0x110 8) = true ∧ regionOf (ctlWrite 3 0 16).addr.toNat = 7
    ∧ (writtenBytes (ctlWrite 3 0 16) 16).isSome = true ∧ (writtenBytes (ctlWrite 1025 0x110 8) 8).map (fun bs => field bs 0 8) = some 2
    ∧ keyOfPa Config.pkgid false 0x5000 = some (memKey Config.pkgid 0x5000) ∧ peerOpOk { peerReq .read true with peer := 1024 } = true
    ∧ (0x8000000000001400#64).toNat.testBit 12 = true ∧ inFixedRange 0x40000000 = false
    ∧ (match translate peerSt 0 1 .read 0x40000000 with | .error c => c == .translation | _ => false) = true := by decide +kernel
/-- Of `QueuesAndPacketsRun`, `HostCommandsActAndComplete` and `PackageMessagesAndEventsAct`: nobody holds a copy, and the bytes are this package's; the
status of a command whose completion word is no memory, and of a master that does not own the package. -/
theorem witness_still :
    Says.still State.reset ∧ (∀ i, i < 64 → homePkg (memKey Config.pkgid 0x9000 + i) = Config.pkgid ∧ farKey (memKey Config.pkgid 0x9000 + i) = false) ∧ State.reset.readOnlyKey (memKey Config.pkgid 0x9000) = false
    ∧ memoryAddr 0x1000000000000000#64 = false ∧ (queueSt []).pkg.owner = some cmd.master ∧ st.pkg.owner ≠ some cmd.master
    ∧ FMap.get st.pkg.oldQueue 0 cmd.master = 0 ∧ State.reset.fab.pend = [] ∧ State.reset.fab.asks = []
    ∧ (match State.reset.homePut pkgParty ctlAgent (cellsAt (memKey Config.pkgid 0x9000) (leBytes 8 5)) with | .ok _ => true | _ => false) = true
    ∧ (match (frozen State.reset (memKey Config.pkgid 0x9000)).homePut pkgParty ctlAgent (cellsAt (memKey Config.pkgid 0x9000) (leBytes 8 5)) with
        | .wait _ => true | _ => false) = true
    ∧ physKey 0x9000#64 = some (memKey Config.pkgid 0x9000) := by
  refine ⟨⟨rfl, rfl, rfl, rfl, by intro r h; cases h⟩, by decide +kernel, by decide +kernel, by decide +kernel⟩

/-- R357: a DRAM byte reached under a key id that has a key bears its cipher; one in companion memory and one under key id 0 do not. -/
theorem test_seal_key :
    let s : State := { State.reset with pkg := { Package.empty with keys := [(5, 7)] } }
    s.sealKey 5 0x1000 = 2 ^ 80 * 8 + 0x1000 ∧ s.sealKey 0 0x1000 = 0x1000 ∧ s.sealKey 5 (5 * 2 ^ 54) = 5 * 2 ^ 54 := by decide +kernel

/-- R357: a byte reads as written under the key it was written under. -/
theorem test_store_sealed : (State.reset.storeCells [(2 ^ 80 * 8 + 0x1000, 9#8)]).memByte (2 ^ 80 * 8 + 0x1000) = 9#8 :=
  State.memByte_storeCells_last State.reset [] [] _ _ (by decide) (by decide)

end Sys2Proof.Tests
end

section
/-! PROOFS. What an instruction that retires leaves standing: the value of a key that no outstanding result still holds. -/

namespace Sys2Proof.Machine

/-! ## One key at a time -/

/-- The bit that a predicate's write sets or clears. -/
theorem getLsbD_one_shiftLeft (i : Nat) {l : Nat} (hl : l < 32) : (1#32 <<< i).getLsbD l = decide (i = l) := by
  rw [BitVec.getLsbD_shiftLeft, BitVec.getLsbD_one]
  by_cases h : l < i
  · simp [h, Nat.ne_of_gt h]
  · have hz : l - i = 0 ↔ i = l := by omega
    simp [hl, h, hz]

/-- Installing a value under a key leaves every other key. -/
theorem Warp.readKey_setKey_ne (w : Warp) {k j : Nat} (v : Word) (h : j ≠ k) : (w.setKey k v).readKey j = w.readKey j := by
  by_cases hk : k < 4096
  · rw [Warp.readKey_setKey w k j v hk, if_neg h]
  by_cases hj : j < 4096
  · exact Warp.readKey_setKey_pred w k j v (by omega) hj
  obtain ⟨hk1, hj1⟩ : ¬ k < 2048 ∧ ¬ j < 2048 := by omega
  simp only [Warp.setKey, hk, hk1, if_false]
  split
  · rfl
  · simp only [Warp.readKey, hj, hj1, if_false, Warp.pred, FMap.get_put]
    by_cases hn : (j - 4096) / 32 = (k - 4096) / 32
    · have hlane : j % 32 ≠ k % 32 := by omega
      have hlt : j % 32 < 32 := Nat.mod_lt _ (by decide)
      rw [if_pos hn, hn]
      have hbit : (1#32 <<< (k % 32)).getLsbD (j % 32) = false := by
        rw [getLsbD_one_shiftLeft _ hlt, decide_eq_false (Ne.symm hlane)]
      split <;> simp only [BitVec.getLsbD_and, BitVec.getLsbD_or, BitVec.getLsbD_not, hbit, hlt, Bool.not_false, Bool.and_true,
        Bool.or_false, decide_true] <;> rfl
    · rw [if_neg hn]; rfl

/-- A key can hold a value: any word in a register, a bit in a predicate other than p0. -/
def holdable (k : Nat) (v : Word) : Prop := k < 4096 ∨ 4128 ≤ k ∧ (v = 0#32 ∨ v = 1#32)

/-- A key reads as the value installed. -/
theorem Warp.readKey_setKey_self (w : Warp) {k : Nat} {v : Word} (h : holdable k v) : (w.setKey k v).readKey k = v := by
  rcases h with hk | ⟨hk, hv⟩
  · rw [Warp.readKey_setKey w k k v hk, if_pos rfl]
  · obtain ⟨h1, h2, h3⟩ : ¬ k < 2048 ∧ ¬ k < 4096 ∧ (k - 4096) / 32 ≠ 0 := by omega
    have hlt : k % 32 < 32 := Nat.mod_lt _ (by decide)
    rcases hv with rfl | rfl <;> simp [Warp.setKey, Warp.readKey, Warp.pred, FMap.get_put, h1, h2, h3, hlt]

/-- A predicate's key reads 1 where the predicate is true. -/
theorem Warp.readKey_pkey (w : Warp) (n : Nat) {i : Nat} (hi : i < 32) :
    w.readKey (pkey n i) = if w.pred n i then 1#32 else 0#32 := by
  obtain ⟨h1, h2, h3, h4⟩ : ¬ pkey n i < 2048 ∧ ¬ pkey n i < 4096 ∧ (pkey n i - 4096) / 32 = n ∧ pkey n i % 32 = i := by
    simp only [pkey]; omega
  simp only [Warp.readKey, h1, h2, h3, h4, if_false]

/-! ## Keys that no outstanding result holds (R15) -/

/-- No outstanding result still holds the key: none will write it. -/
def Warp.unowed (w : Warp) (k : Nat) : Prop := ∀ o ∈ w.outs, k ∉ o.keys

/-- No outstanding result holds the key, unless the warp runs an operation image, whose sequencer commits results only later (R125). -/
def Warp.settled (w : Warp) (k : Nat) : Prop := w.mac = none → w.unowed k

/-- Dropping a key adds none. -/
theorem mem_keys_of_mem_dropKey {first k j : Nat} {os : List Out} {o : Out} (ho : o ∈ dropKey first k os) (hj : j ∈ o.keys) :
    ∃ p ∈ os, j ∈ p.keys := by
  simp only [dropKey, List.mem_map] at ho
  obtain ⟨p, hp, rfl⟩ := ho
  split at hj
  · exact ⟨p, hp, hj⟩
  · exact ⟨p, hp, (List.mem_filter.mp hj).1⟩

/-- From operation 0 on, no result is left holding a dropped key. -/
theorem not_mem_keys_dropKey {k : Nat} {os : List Out} {o : Out} (ho : o ∈ dropKey 0 k os) : k ∉ o.keys := by
  simp only [dropKey, List.mem_map] at ho
  obtain ⟨p, -, rfl⟩ := ho
  simp

/-- What a write leaves outstanding. -/
theorem Warp.writeKey_outs (w : Warp) (k : Nat) (v : Word) : (w.writeKey k v).outs = dropKey w.macroFirst k w.outs := by
  obtain ⟨d, hd⟩ := w.keepOld_frame k
  obtain ⟨a, b, c, h⟩ := Warp.setKey_frame { w with mac := d } k v
  simp only [Warp.writeKey, hd, h]

/-- A write begins and ends no operation image. -/
theorem Warp.mac_of_writeKey_mac {w : Warp} {k : Nat} {v : Word} (h : (w.writeKey k v).mac = none) : w.mac = none := by
  obtain ⟨a, b, c, hs⟩ := Warp.setKey_frame (w.keepOld k) k v
  have hk : (w.keepOld k).mac = none := by simpa only [Warp.writeKey, hs] using h
  simp only [Warp.keepOld] at hk
  split at hk
  · assumption
  · split at hk
    · exact hk
    · cases hk

/-- A write settles its key. -/
theorem Warp.settled_writeKey_self (w : Warp) (k : Nat) (v : Word) : (w.writeKey k v).settled k := by
  intro hm o ho
  rw [Warp.writeKey_outs, Warp.macroFirst, Warp.mac_of_writeKey_mac hm] at ho
  exact not_mem_keys_dropKey ho

/-- A write leaves settled keys settled. -/
theorem Warp.settled_writeKey {w : Warp} {j : Nat} (k : Nat) (v : Word) (h : w.settled j) : (w.writeKey k v).settled j := by
  intro hm o ho hj
  rw [Warp.writeKey_outs] at ho
  obtain ⟨p, hp, hjp⟩ := mem_keys_of_mem_dropKey ho hj
  exact h (Warp.mac_of_writeKey_mac hm) p hp hjp

/-! ## A list of writes -/

/-- A list of writes leaves settled keys settled. -/
theorem Warp.settled_writeKeys {w : Warp} {k : Nat} (kvs : List (Nat × Word)) (h : w.settled k) : (w.writeKeys kvs).settled k := by
  induction kvs generalizing w with
  | nil => exact h
  | cons p ps ih => exact ih (Warp.settled_writeKey p.1 p.2 h)

/-- Every key of a list of writes is settled by it. -/
theorem Warp.settled_writeKeys_of_mem (w : Warp) {kvs : List (Nat × Word)} {p : Nat × Word} (hp : p ∈ kvs) :
    (w.writeKeys kvs).settled p.1 := by
  induction kvs generalizing w with
  | nil => cases hp
  | cons q qs ih =>
    rcases List.mem_cons.mp hp with rfl | hp
    · exact Warp.settled_writeKeys qs (w.settled_writeKey_self p.1 p.2)
    · exact ih (w.writeKey q.1 q.2) hp

/-- A key that no write of a list names keeps its value, be it a register's or a predicate's. -/
theorem Warp.readKey_writeKeys_of_forall_ne (w : Warp) {kvs : List (Nat × Word)} {j : Nat} (h : ∀ p ∈ kvs, p.1 ≠ j) :
    (w.writeKeys kvs).readKey j = w.readKey j := by
  induction kvs generalizing w with
  | nil => rfl
  | cons p ps ih =>
    obtain ⟨hp, hps⟩ := List.forall_mem_cons.mp h
    calc ((w.writeKey p.1 p.2).writeKeys ps).readKey j
        = (w.writeKey p.1 p.2).readKey j := ih _ hps
      _ = w.readKey j := by rw [Warp.readKey_writeKey, Warp.readKey_setKey_ne _ _ (Ne.symm hp)]

/-- Where a list of writes names each key once, each key reads as the value written. -/
theorem Warp.readKey_writeKeys_of_mem (w : Warp) {kvs : List (Nat × Word)} {p : Nat × Word} (hn : (kvs.map Prod.fst).Nodup)
    (hp : p ∈ kvs) (hv : holdable p.1 p.2) : (w.writeKeys kvs).readKey p.1 = p.2 := by
  induction kvs generalizing w with
  | nil => cases hp
  | cons q qs ih =>
    rw [List.map_cons, List.nodup_cons] at hn
    obtain ⟨hq, hqs⟩ := hn
    rcases List.mem_cons.mp hp with rfl | hp
    · calc ((w.writeKey p.1 p.2).writeKeys qs).readKey p.1
          = (w.writeKey p.1 p.2).readKey p.1 :=
            Warp.readKey_writeKeys_of_forall_ne _ fun r hr he => hq (he ▸ List.mem_map_of_mem hr)
        _ = p.2 := by rw [Warp.readKey_writeKey, Warp.readKey_setKey_self _ hv]
    · exact ih (w.writeKey q.1 q.2) hqs hp

/-! ## What follows from a warp without an instruction's writing: commits, exceptions, the end of a clause -/

/-- The warp has moved on, with the conditions and the clock latch that it had, and with every key that no outstanding result holds. -/
structure Warp.Follows (w w' : Warp) : Prop where
  aflags : w'.aflags = w.aflags
  clockHi : w'.clockHi = w.clockHi
  unowed : ∀ k, w.unowed k → w'.unowed k
  readKey : ∀ k, w.unowed k → w'.readKey k = w.readKey k

/-- A warp follows from itself. -/
theorem Warp.Follows.refl (w : Warp) : w.Follows w := ⟨rfl, rfl, fun _ h => h, fun _ _ => rfl⟩

/-- What two moves in a row leave standing. -/
theorem Warp.Follows.trans {u v w : Warp} (h : u.Follows v) (h' : v.Follows w) : u.Follows w :=
  ⟨h'.aflags.trans h.aflags, h'.clockHi.trans h.clockHi, fun k hk => h'.unowed k (h.unowed k hk),
    fun k hk => (h'.readKey k (h.unowed k hk)).trans (h.readKey k hk)⟩

/-- Parking a warp writes nothing. -/
theorem Warp.follows_park (w : Warp) (x : Wait) : w.Follows (w.park x) := ⟨rfl, rfl, fun _ h => h, fun _ _ => rfl⟩

/-- Installing one key of a result leaves the others, the results outstanding, `aflags` and the clock latch. -/
theorem Warp.installKey_keeps (w : Warp) (early : Bool) (j : Nat) (v : Word) :
    (w.installKey early j v).aflags = w.aflags ∧ (w.installKey early j v).clockHi = w.clockHi
    ∧ ∀ k, k ≠ j → (w.installKey early j v).readKey k = w.readKey k := by
  obtain ⟨a, b, c, d, h⟩ := w.installKey_frame early j v
  refine ⟨by rw [h], by rw [h], fun k hk => ?_⟩
  obtain ⟨d', hd⟩ := w.keepOld_frame j
  have hset : ∀ u : Warp, (u.setKey j v).readKey k = u.readKey k := fun u => Warp.readKey_setKey_ne u v hk
  simp only [Warp.installKey]
  split
  · exact hset w
  · split
    · rw [hd]; exact hset { w with mac := d' }
    · split
      · rfl
      · exact hset w

/-- Installing a result leaves every key that it does not hold. -/
theorem Warp.install_keeps (w : Warp) (o : Out) :
    (w.install o).aflags = w.aflags ∧ (w.install o).clockHi = w.clockHi
    ∧ ∀ k, k ∉ o.keys → (w.install o).readKey k = w.readKey k := by
  unfold Warp.install
  induction o.vals generalizing w with
  | nil => exact ⟨rfl, rfl, fun _ _ => rfl⟩
  | cons p ps ih =>
    obtain ⟨ha, hc, hr⟩ := ih (if o.keys.contains p.1 then w.installKey (decide (o.id < w.macroFirst)) p.1 p.2 else w)
    rw [List.foldl_cons]
    by_cases hp : o.keys.contains p.1 = true
    · obtain ⟨ha', hc', hr'⟩ := w.installKey_keeps (decide (o.id < w.macroFirst)) p.1 p.2
      simp only [hp, if_true] at ha hc hr ⊢
      refine ⟨ha.trans ha', hc.trans hc', fun k hk => (hr k hk).trans (hr' k ?_)⟩
      rintro rfl
      exact hk (List.contains_iff_mem.mp hp)
    · simp only [hp] at ha hc hr ⊢
      exact ⟨ha, hc, hr⟩

/-- What a result's installation leaves outstanding holds no key that it did not hold before. -/
theorem Warp.mem_keys_of_mem_superseded {w : Warp} {o p : Out} {kept : List Out} {k : Nat} (hp : p ∈ w.superseded o kept)
    (hk : k ∈ p.keys) : ∃ q ∈ kept, k ∈ q.keys := by
  unfold Warp.superseded at hp
  revert hp
  induction o.vals generalizing kept with
  | nil => exact fun hp => ⟨p, hp, hk⟩
  | cons v vs ih =>
    intro hp
    rw [List.foldl_cons] at hp
    obtain ⟨q, hq, hkq⟩ := ih hp
    exact mem_keys_of_mem_dropKey hq hkq

/-- One turn of a commit: a returned operation that meets the test is installed, any other is kept (R14). -/
def Warp.commitOne (p : Out → Bool) (acc : Warp × List Out × List Fail) (o : Out) : Warp × List Out × List Fail :=
  if p o && o.waiting == 0 then
    (acc.1.install o, acc.1.superseded o acc.2.1, match o.fail with | some f => acc.2.2 ++ [f] | none => acc.2.2)
  else (acc.1, acc.2.1 ++ [o], acc.2.2)

/-- A commit takes the outstanding operations one after another. -/
theorem Warp.commit_fst (w : Warp) (p : Out → Bool) :
    (w.commit p).1 = { (w.outs.foldl (Warp.commitOne p) (w, [], [])).1 with outs := (w.outs.foldl (Warp.commitOne p) (w, [], [])).2.1 } :=
  rfl

/-- A turn of a commit leaves a key that neither its operation nor any kept one holds. -/
theorem Warp.commitOne_keeps (p : Out → Bool) (acc : Warp × List Out × List Fail) (o : Out) :
    (Warp.commitOne p acc o).1.aflags = acc.1.aflags ∧ (Warp.commitOne p acc o).1.clockHi = acc.1.clockHi
    ∧ ∀ k, (∀ q ∈ acc.2.1, k ∉ q.keys) → k ∉ o.keys →
      (∀ q ∈ (Warp.commitOne p acc o).2.1, k ∉ q.keys) ∧ (Warp.commitOne p acc o).1.readKey k = acc.1.readKey k := by
  unfold Warp.commitOne
  split
  · obtain ⟨ha, hc, hr⟩ := acc.1.install_keeps o
    refine ⟨ha, hc, fun k hkept ho => ⟨fun q hq hk => ?_, hr k ho⟩⟩
    obtain ⟨q', hq', hk'⟩ := Warp.mem_keys_of_mem_superseded hq hk
    exact hkept q' hq' hk'
  · refine ⟨rfl, rfl, fun k hkept ho => ⟨fun q hq => ?_, rfl⟩⟩
    rcases List.mem_append.mp hq with hq | hq
    · exact hkept q hq
    · rw [List.mem_singleton.mp hq]; exact ho

/-- So do all its turns. -/
theorem Warp.foldl_commitOne_keeps (p : Out → Bool) (os : List Out) (acc : Warp × List Out × List Fail) :
    (os.foldl (Warp.commitOne p) acc).1.aflags = acc.1.aflags ∧ (os.foldl (Warp.commitOne p) acc).1.clockHi = acc.1.clockHi
    ∧ ∀ k, (∀ q ∈ acc.2.1, k ∉ q.keys) → (∀ o ∈ os, k ∉ o.keys) →
      (∀ q ∈ (os.foldl (Warp.commitOne p) acc).2.1, k ∉ q.keys)
      ∧ (os.foldl (Warp.commitOne p) acc).1.readKey k = acc.1.readKey k := by
  induction os generalizing acc with
  | nil => exact ⟨rfl, rfl, fun k hk _ => ⟨hk, rfl⟩⟩
  | cons o os ih =>
    obtain ⟨ha, hc, hr⟩ := Warp.commitOne_keeps p acc o
    obtain ⟨ha', hc', hr'⟩ := ih (Warp.commitOne p acc o)
    refine ⟨ha'.trans ha, hc'.trans hc, fun k hkept hos => ?_⟩
    obtain ⟨ho, hos⟩ := List.forall_mem_cons.mp hos
    obtain ⟨hkept', hread⟩ := hr k hkept ho
    obtain ⟨hlast, hread'⟩ := hr' k hkept' hos
    exact ⟨hlast, hread'.trans hread⟩

/-- A commit installs only keys that results hold (R14, R15). -/
theorem Warp.follows_commit (w : Warp) (p : Out → Bool) : w.Follows (w.commit p).1 := by
  obtain ⟨ha, hc, hr⟩ := Warp.foldl_commitOne_keeps p w.outs (w, [], [])
  have hk : ∀ k, w.unowed k → _ := fun k h => hr k (fun _ hq => absurd hq List.not_mem_nil) h
  rw [Warp.commit_fst]
  exact ⟨ha, hc, fun k h => (hk k h).1, fun k h => (hk k h).2⟩

end Sys2Proof.Machine
end

section
/-! PROOFS. What retiring an instruction leaves standing, exceptions at its switch marker included. -/

namespace Sys2Proof.Machine

/-! ## Exceptions (R300 to R308) -/

/-- Posting records touches no warp. -/
@[simp] theorem State.post_w (s : State) (r : Rec) : (s.post r).w = s.w := rfl

@[simp] theorem State.foldl_post_w (s : State) (rs : List Rec) : (rs.foldl State.post s).w = s.w := by
  induction rs generalizing s with
  | nil => rfl
  | cons r rs ih => rw [List.foldl_cons, ih, State.post_w]

/-- A killed warp keeps its registers; what it still has under way writes none (R317). -/
theorem Warp.follows_kill (w : Warp) : w.Follows w.kill := by
  refine ⟨rfl, rfl, fun k _ o ho hk => ?_, fun _ _ => rfl⟩
  obtain ⟨p, -, rfl, -⟩ := w.kill_outs o ho
  cases hk

/-- The abort of a grid writes no register of the warp whose turn it is. -/
theorem State.follows_abortGrid (s : State) (id : Word) (status : Nat) : s.w.Follows (s.abortGrid id status).w := by
  simp only [State.abortGrid, State.foldl_post_w]
  split
  · exact s.w.follows_kill
  · exact .refl s.w

/-- A fatal trap writes no register of the trapping warp. -/
theorem State.follows_fatal (s : State) (status : Nat) : s.w.Follows (s.fatal status).w :=
  s.w.follows_kill.trans (State.follows_abortGrid { s with w := s.w.kill } s.g.grid status)

/-- Entering the handler commits what has returned, and writes nothing else but the frame and the trap block (R303, R306). -/
theorem Warp.follows_enterHandler (w : Warp) (r : TrapRec) (tvec : Word) : w.Follows (w.enterHandler r tvec) := by
  obtain ⟨ha, hc, hu, hr⟩ := w.follows_commit (fun o => o.hasDest)
  exact ⟨ha, hc, hu, hr⟩

/-- The delivery of a trap writes no key that no result holds. -/
theorem State.follows_deliver (s : State) (r : TrapRec) : s.w.Follows (s.deliver r).w := by
  unfold State.deliver
  split
  · exact s.follows_fatal 3
  · split
    · exact ⟨rfl, rfl, fun _ h => h, fun _ _ => rfl⟩
    · exact s.w.follows_enterHandler r s.g.tvec

/-- Nor does taking an exception, whatever its cause. -/
theorem State.follows_raiseRec (s : State) (r : TrapRec) : s.w.Follows (s.raiseRec r).w := by
  by_cases hw : r.cause = .walkWait
  · rw [s.raiseRec_walk r hw]; exact s.w.follows_park _
  by_cases hh : r.cause.toHost = true
  · rw [s.raiseRec_host r hw hh]; exact ⟨rfl, rfl, fun _ h => h, fun _ _ => rfl⟩
  · rw [s.raiseRec_handler r hw (Bool.eq_false_iff.mpr hh)]; exact s.follows_deliver r

/-- Nor do the failures that a commit found. -/
theorem State.follows_raiseFails (s : State) (fails : List Fail) : s.w.Follows (s.raiseFails fails).w := by
  cases fails with
  | nil => exact .refl s.w
  | cons f rest =>
    have h : s.w.Follows { s.w with pendFails := s.w.pendFails ++ rest } := ⟨rfl, rfl, fun _ h => h, fun _ _ => rfl⟩
    exact h.trans (State.follows_raiseRec { s with w := { s.w with pendFails := s.w.pendFails ++ rest } } _)

/-- A switch marker parks the warp, or commits what has returned and takes its failures (R35). -/
theorem State.follows_marker (s : State) : s.w.Follows s.marker.w := by
  unfold State.marker
  split
  · exact s.w.follows_park .marker
  · exact (s.w.follows_commit (fun o => o.hasDest)).trans (State.follows_raiseFails { s with w := (s.w.commit (fun o => o.hasDest)).1 } _)

/-! ## Retiring (R35) -/

/-- The end of a clause writes no register. -/
theorem State.follows_closeClause (s : State) : s.w.Follows s.closeClause.w := by
  obtain ⟨l, r, c, a, x, y, z, q, f, i, m, u, b, h, rs, hs⟩ := s.closeClause_frame
  rw [hs]
  exact ⟨rfl, rfl, fun _ h => h, fun _ _ => rfl⟩

/-- Passing an instruction moves the clause on and writes nothing. -/
theorem Warp.follows_advance (w : Warp) (len : Nat) (splits : Bool) : w.Follows (w.advance len splits) := by
  unfold Warp.advance
  split
  · exact .refl w
  · exact ⟨rfl, rfl, fun _ h => h, fun _ _ => rfl⟩

/-- The warp is past an instruction that left it as `w`: its conditions, its clock latch and every settled key stand. -/
structure Warp.Past (w w' : Warp) : Prop where
  aflags : w'.aflags = w.aflags
  clockHi : w'.clockHi = w.clockHi
  readKey : ∀ k, w.settled k → w'.readKey k = w.readKey k

/-- An operation of an image is passed by the sequencer, which commits nothing yet (R125). -/
theorem State.past_retire_of_mac (s : State) (i : Instr) (o : Ops) {m : MacroRun} (hm : s.w.mac = some m) :
    s.w.Past (s.retire i o).w := by
  simp only [State.retire, hm]
  split
  · exact ⟨rfl, rfl, fun _ _ => rfl⟩
  · split
    · exact ⟨rfl, rfl, fun _ _ => rfl⟩
    · exact ⟨rfl, rfl, fun _ _ => rfl⟩

/-- Any other instruction is passed by the warp, which may commit at its switch marker, trap there, and end its clause. -/
theorem State.follows_retire (s : State) (i : Instr) (o : Ops) (hm : s.w.mac = none) : s.w.Follows (s.retire i o).w := by
  have hmark : ∀ (b : Bool) (u : State), s.w.Follows u.w → s.w.Follows (if b then u.marker else u).w := by
    intro b u hu
    cases b with
    | true => exact hu.trans u.follows_marker
    | false => exact hu
  have hend : ∀ (b : Bool) (u : State), s.w.Follows u.w → s.w.Follows (if b then u.closeClause else u).w := by
    intro b u hu
    cases b with
    | true => exact hu.trans u.follows_closeClause
    | false => exact hu
  simp only [State.retire, hm]
  exact hend _ _ (hmark _ (s.modW fun w => w.advance i.lenBytes i.isSplit) (s.w.follows_advance i.lenBytes i.isSplit))

/-- What every retired instruction leaves standing. -/
theorem State.past_retire (s : State) (i : Instr) (o : Ops) : s.w.Past (s.retire i o).w := by
  cases hm : s.w.mac with
  | some m => exact s.past_retire_of_mac i o hm
  | none =>
    obtain ⟨ha, hc, -, hr⟩ := s.follows_retire i o hm
    exact ⟨ha, hc, fun k hk => hr k (hk hm)⟩

/-! ## ALU instructions (R81, R83) -/

/-- An ALU instruction answers a next state, whose warp is past what the body wrote. -/
theorem aluRun_answers (i : Instr) (o : Ops) (s : State) (body : Warp → Warp → LaneMask → Warp) :
    ∃ t, aluRun i o s body = .next t ∧ (body s.w (s.w.lastUse i o) s.w.activeLanes).Past t.w := by
  have h := State.past_retire
    { s.charge 1 0 with w := body (s.charge 1 0).w ((s.charge 1 0).w.lastUse i o) (s.charge 1 0).w.activeLanes } i o
  rw [State.charge_w] at h
  exact ⟨_, rfl, by simpa only [State.charge_w] using h⟩

/-! ### What the writes of a body leave: conditions and the clock latch -/

/-- Writes of keys raise nothing. -/
theorem Warp.writeKeys_flags (w : Warp) (kvs : List (Nat × Word)) :
    (w.writeKeys kvs).aflags = w.aflags ∧ (w.writeKeys kvs).clockHi = w.clockHi := by
  obtain ⟨a, b, c, d, e, h⟩ := w.writeKeys_frame kvs
  rw [h]
  exact ⟨rfl, rfl⟩

/-- A 32-bit destination raises nothing, be it a register or `lpc`. -/
theorem Warp.writeDest_flags (w : Warp) (c : BitVec 6) (act : LaneMask) (f : Nat → Word) :
    (w.writeDest c act f).aflags = w.aflags ∧ (w.writeDest c act f).clockHi = w.clockHi := by
  unfold Warp.writeDest Warp.retarget
  split
  · split <;> exact ⟨rfl, rfl⟩
  · exact w.writeKeys_flags _

/-- Nor does a predicate destination. -/
theorem Warp.writePred_flags (w : Warp) (c : BitVec 6) (act : LaneMask) (f : Nat → Bool) :
    (w.writePred c act f).aflags = w.aflags ∧ (w.writePred c act f).clockHi = w.clockHi := by
  simp only [Warp.writePred]
  split
  · exact ⟨rfl, rfl⟩
  · exact w.writeKeys_flags _

/-- Zeroing a register in a list of lanes raises nothing. -/
theorem Warp.foldl_setKey_flags (w : Warp) (n : Nat) (ls : List Nat) :
    (ls.foldl (fun w i => w.setKey (vkey n i) 0#32) w).aflags = w.aflags
    ∧ (ls.foldl (fun w i => w.setKey (vkey n i) 0#32) w).clockHi = w.clockHi := by
  induction ls generalizing w with
  | nil => exact ⟨rfl, rfl⟩
  | cons l ls ih =>
    obtain ⟨a, b, c, h⟩ := w.setKey_frame (vkey n l) 0#32
    obtain ⟨ha, hc⟩ := ih (w.setKey (vkey n l) 0#32)
    rw [List.foldl_cons]
    exact ⟨ha.trans (by rw [h]), hc.trans (by rw [h])⟩

/-- Releasing registers raises nothing (R36). -/
theorem Warp.release_flags (w : Warp) (regs : List Nat) :
    (w.release regs).aflags = w.aflags ∧ (w.release regs).clockHi = w.clockHi := by
  unfold Warp.release
  induction regs generalizing w with
  | nil => exact ⟨rfl, rfl⟩
  | cons n ns ih =>
    obtain ⟨ha, hc⟩ := w.foldl_setKey_flags n lanes
    obtain ⟨ha', hc'⟩ := ih (lanes.foldl (fun w i => w.setKey (vkey n i) 0#32) w)
    rw [List.foldl_cons]
    exact ⟨ha'.trans ha, hc'.trans hc⟩

/-- Nor do the last-use bits. -/
theorem Warp.lastUse_flags (w : Warp) (i : Instr) (o : Ops) :
    (w.lastUse i o).aflags = w.aflags ∧ (w.lastUse i o).clockHi = w.clockHi := by
  unfold Warp.lastUse
  split
  · exact w.release_flags _
  · exact ⟨rfl, rfl⟩

/-! ### Destination keys -/

/-- The lanes of a mask, each once. -/
theorem LaneMask.nodup_toList (m : LaneMask) : m.toList.Nodup := List.Pairwise.filter _ (by decide : lanes.Nodup)

/-- The lanes are the numbers below 32. -/
theorem lanes_eq_range : lanes = List.range 32 := rfl

theorem mem_lanes {l : Nat} : l ∈ lanes ↔ l < 32 := by
  rw [lanes_eq_range, List.mem_range]

/-- The lanes that a mask lists are those whose bit it has. -/
theorem LaneMask.mem_toList {m : LaneMask} {l : Nat} : l ∈ m.toList ↔ l < 32 ∧ m.getLsbD l = true := by
  rw [LaneMask.toList, List.mem_filter, mem_lanes]

/-- What a destination code's write names: an element of the register in an active lane, or the uniform register with the lowest active
lane's value (R81). -/
theorem mem_destWrites {c : BitVec 6} {act : LaneMask} {f : Nat → Word} {p : Nat × Word} :
    p ∈ destWrites c act f ↔
      (c.toNat < 48 ∧ ∃ l ∈ act.toList, p = (vkey c.toNat l, f l))
      ∨ (48 ≤ c.toNat ∧ c.toNat < 60 ∧ ∃ l, act.lowest = some l ∧ p = (ukey (c.toNat - 48), f l)) := by
  unfold destWrites
  split
  · next h => simp [h, Nat.not_le_of_lt h, eq_comm]
  · next h =>
    split
    · next h' =>
      cases hl : act.lowest with
      | none => simp [h]
      | some l => simp [h, h', Nat.le_of_not_lt h]
    · next h' => simp [h, h']

/-- The keys of a destination code: the elements of a vector register, or a uniform register. -/
theorem key_of_mem_destWrites {c : BitVec 6} {act : LaneMask} {f : Nat → Word} {p : Nat × Word} (hp : p ∈ destWrites c act f) :
    p.1 / 32 = c.toNat ∧ c.toNat < 48 ∨ p.1 = c.toNat + 2000 ∧ 48 ≤ c.toNat ∧ c.toNat < 60 := by
  rcases mem_destWrites.mp hp with ⟨hc, l, hl, rfl⟩ | ⟨hc, hc', l, hl, rfl⟩
  · have := (LaneMask.mem_toList.mp hl).1
    simp only [vkey]; omega
  · simp only [ukey]; omega

/-- A register's keys can hold any word. -/
theorem holdable_of_mem_destWrites {c : BitVec 6} {act : LaneMask} {f : Nat → Word} {p : Nat × Word} (hp : p ∈ destWrites c act f) :
    holdable p.1 p.2 := by
  have := key_of_mem_destWrites hp
  exact .inl (by omega)

/-- A destination's write names each key once. -/
theorem nodup_destWrites (c : BitVec 6) (act : LaneMask) (f : Nat → Word) : ((destWrites c act f).map Prod.fst).Nodup := by
  unfold destWrites
  split
  · rw [List.map_map]
    exact List.Pairwise.map _ (fun i j hij h => hij (Nat.add_left_cancel h)) (LaneMask.nodup_toList act)
  · split
    · cases act.lowest <;> simp
    · simp

/-- So does a pair's: its halves are different registers. -/
theorem nodup_destPairWrites (c : BitVec 6) (act : LaneMask) (f : Nat → DWord) : ((destPairWrites c act f).map Prod.fst).Nodup := by
  unfold destPairWrites
  split
  · simp
  · rw [List.map_append, List.nodup_append]
    refine ⟨nodup_destWrites .., nodup_destWrites .., fun a ha b hb => ?_⟩
    obtain ⟨p, hp, rfl⟩ := List.mem_map.mp ha
    obtain ⟨q, hq, rfl⟩ := List.mem_map.mp hb
    have h1 := key_of_mem_destWrites hp
    have h2 := key_of_mem_destWrites hq
    have h3 : (c + 1#6).toNat = (c.toNat + 1) % 64 := by simp [BitVec.toNat_add]
    omega

end Sys2Proof.Machine
end

section
/-! PROOFS. What an ALU instruction gives, from the shape of its meaning: one rule per kind of destination (R81, R82). -/

namespace Sys2Proof.Says

open Sys2Proof.Machine

variable {i : Instr} {o : Ops} {s t : State} {w : Warp} {d : BitVec 6}

/-! ## Destinations (R81) -/

/-- A 32-bit destination holds what its writes name. -/
theorem dest_of_forall_destWrites {f : Nat → Word} (h : ∀ p ∈ destWrites d s.w.activeLanes f, t.w.readKey p.1 = p.2) :
    dest s t d f :=
  ⟨fun hd l hl ha => h (vkey d.toNat l, f l) (mem_destWrites.mpr (.inl ⟨hd, l, LaneMask.mem_toList.mpr ⟨hl, ha⟩, rfl⟩)),
    fun hd hd' l hl => h (ukey (d.toNat - 48), f l) (mem_destWrites.mpr (.inr ⟨hd, hd', l, hl, rfl⟩))⟩

/-- What a list of writes named, with each key once, stands in a warp that is past it. -/
theorem readKey_of_past {kvs : List (Nat × Word)} {w' : Warp} (h : ∀ k, (w.writeKeys kvs).settled k → w'.readKey k = (w.writeKeys kvs).readKey k)
    (hn : (kvs.map Prod.fst).Nodup) {p : Nat × Word} (hp : p ∈ kvs) (hv : holdable p.1 p.2) : w'.readKey p.1 = p.2 :=
  (h p.1 (w.settled_writeKeys_of_mem hp)).trans (w.readKey_writeKeys_of_mem hn hp hv)

/-- So does a 32-bit destination's; `lpc` is no register. -/
theorem dest_of_past {f : Nat → Word}
    (h : ∀ k, (w.writeDest d s.w.activeLanes f).settled k → t.w.readKey k = (w.writeDest d s.w.activeLanes f).readKey k) :
    dest s t d f := by
  by_cases hd : d = 62#6
  · subst hd
    exact ⟨fun hd => absurd hd (by decide), fun _ hd => absurd hd (by decide)⟩
  · rw [Warp.writeDest, if_neg hd] at h
    exact dest_of_forall_destWrites fun p hp => readKey_of_past h (nodup_destWrites ..) hp (holdable_of_mem_destWrites hp)

/-- So do both halves of a pair's. -/
theorem destPair_of_past {f : Nat → DWord}
    (h : ∀ k, (w.writePair d s.w.activeLanes f).settled k → t.w.readKey k = (w.writePair d s.w.activeLanes f).readKey k) :
    destPair s t d f := by
  intro hd
  have hp : destPairWrites d s.w.activeLanes f =
      destWrites d s.w.activeLanes (fun l => loWord (f l)) ++ destWrites (d + 1#6) s.w.activeLanes (fun l => hiWord (f l)) := if_neg hd
  have hn := nodup_destPairWrites d s.w.activeLanes f
  rw [Warp.writePair, hp] at h
  rw [hp] at hn
  exact ⟨dest_of_forall_destWrites fun p hm => readKey_of_past h hn (List.mem_append_left _ hm) (holdable_of_mem_destWrites hm),
    dest_of_forall_destWrites fun p hm => readKey_of_past h hn (List.mem_append_right _ hm) (holdable_of_mem_destWrites hm)⟩

/-- So does a predicate's, which is 1 under its key where it is true. -/
theorem destPred_of_past {f : Nat → Bool}
    (h : ∀ k, (w.writePred d s.w.activeLanes f).settled k → t.w.readKey k = (w.writePred d s.w.activeLanes f).readKey k) :
    destPred s t d f := by
  intro hd l hl ha
  rw [Warp.writePred, if_neg hd] at h
  have hn : ((s.w.activeLanes.toList.map fun i => (pkey (d.toNat % 8) i, if f i then 1#32 else 0#32)).map Prod.fst).Nodup := by
    rw [List.map_map]
    exact List.Pairwise.map _ (fun i j hij h => hij (Nat.add_left_cancel h)) (LaneMask.nodup_toList _)
  have hv : holdable (pkey (d.toNat % 8) l) (if f l then 1#32 else 0#32) := by
    refine .inr ⟨by simp only [pkey]; omega, ?_⟩
    split <;> simp
  have hr := readKey_of_past h hn (List.mem_map_of_mem (LaneMask.mem_toList.mpr ⟨hl, ha⟩)) hv
  simp only [Warp.readKey_pkey _ _ hl] at hr
  cases hf : f l <;> cases hp : t.w.pred (d.toNat % 8) l <;> simp [hf, hp] at hr ⊢

/-! ## Conditions (R82) -/

/-- Lanes that raise nothing raise nothing together. -/
theorem raised_zero (s : State) : raised s (fun _ => 0#32) = 0#32 := by
  have h : ∀ ls : List Nat, orFlags (ls.map fun _ => 0#32) = 0#32 := by
    intro ls
    induction ls with
    | nil => rfl
    | cons l ls ih => rw [List.map_cons, orFlags, List.foldl_cons, BitVec.or_self]; exact ih
  rw [raised, h]; rfl

/-! ## One rule per shape of an instruction's meaning -/

/-- A 32-bit result of the sources and the old destination, with what the active lanes raise. -/
theorem gives_of_alu32 {f : Word → Word → Word → Flagged Word} (h : exec i s = alu32 i o s f) :
    gives i s o.d (fun l => (f (a o s l) (b o s l) (c o s l)).val) (raised s fun l => (f (a o s l) (b o s l) (c o s l)).flags) := by
  obtain ⟨t, ht, haf, -, hr⟩ := aluRun_answers i o s fun w0 w1 act =>
    (w1.writeDest o.d act (fun l => (f (w0.src o.ext o.a l) (w0.src o.ext o.b l) (w0.src o.ext o.d l)).val)).addFlags
      (laneFlags act (fun l => (f (w0.src o.ext o.a l) (w0.src o.ext o.b l) (w0.src o.ext o.d l)).flags))
  refine ⟨t, h.trans ht, dest_of_past hr, haf.trans ?_⟩
  rw [Warp.addFlags_aflags, (Warp.writeDest_flags ..).1, (Warp.lastUse_flags ..).1]
  rfl

/-- A form that raises nothing. -/
theorem gives_of_plain {f : Word → Word → Word → Word} {g : Nat → Word} (h : exec i s = alu32 i o s fun x y z => plain (f x y z))
    (hg : ∀ l, f (a o s l) (b o s l) (c o s l) = g l) : gives i s o.d g 0#32 := by
  rw [← funext hg, ← raised_zero s]
  exact gives_of_alu32 h

/-- A body that writes one 32-bit destination and raises nothing. -/
theorem gives_of_writeDest {f : Warp → LaneMask → Nat → Word} (h : exec i s = aluRun i o s fun w0 w1 act => w1.writeDest d act (f w0 act)) :
    gives i s d (f s.w s.w.activeLanes) 0#32 := by
  obtain ⟨t, ht, haf, -, hr⟩ := aluRun_answers i o s fun w0 w1 act => w1.writeDest d act (f w0 act)
  refine ⟨t, h.trans ht, dest_of_past hr, haf.trans ?_⟩
  rw [(Warp.writeDest_flags ..).1, (Warp.lastUse_flags ..).1, BitVec.or_zero]

/-- A body that writes one pair. -/
theorem givesPair_of_writePair {f : Warp → Nat → DWord} (h : exec i s = aluRun i o s fun w0 w1 act => w1.writePair d act (f w0)) :
    givesPair i s d (f s.w) := by
  obtain ⟨t, ht, haf, -, hr⟩ := aluRun_answers i o s fun w0 w1 act => w1.writePair d act (f w0)
  refine ⟨t, h.trans ht, destPair_of_past hr, haf.trans ?_⟩
  exact ((Warp.writeKeys_flags ..).1).trans (Warp.lastUse_flags ..).1

/-- A 64-bit result of 64-bit sources. -/
theorem givesPair_of_alu64 {f : DWord → DWord → DWord} {g : Nat → DWord} (h : exec i s = alu64 i o s f)
    (hg : ∀ l, f (aPair o s l) (bPair o s l) = g l) : givesPair i s o.d g := by
  rw [← funext hg]
  exact givesPair_of_writePair (f := fun w l => f (w.srcPair o.ext o.a l) (w.srcPair o.ext o.b l)) h

/-- A 64-bit result of 32-bit sources and the old destination pair. -/
theorem givesPair_of_aluWide {f : Word → Word → DWord → DWord} {g : Nat → DWord} (h : exec i s = aluWide i o s f)
    (hg : ∀ l, f (a o s l) (b o s l) (cPair o s l) = g l) : givesPair i s o.d g := by
  rw [← funext hg]
  exact givesPair_of_writePair (f := fun w l =>
    f (w.src o.ext o.a l) (w.src o.ext o.b l) (if o.d = 61#6 then 0#64 else w.srcPair o.ext o.d l)) h

/-- A body that writes one predicate; only the active lanes' values matter. -/
theorem givesPred_of_writePred {f : Warp → LaneMask → Nat → Bool} {g : Nat → Bool}
    (h : exec i s = aluRun i o s fun w0 w1 act => w1.writePred d act (f w0 act))
    (hg : ∀ l, l < 32 → s.w.activeLanes.getLsbD l = true → f s.w s.w.activeLanes l = g l) : givesPred i s d g 0#32 := by
  obtain ⟨t, ht, haf, -, hr⟩ := aluRun_answers i o s fun w0 w1 act => w1.writePred d act (f w0 act)
  refine ⟨t, h.trans ht, fun hd l hl ha => (destPred_of_past hr hd l hl ha).trans (hg l hl ha), haf.trans ?_⟩
  rw [(Warp.writePred_flags ..).1, (Warp.lastUse_flags ..).1, BitVec.or_zero]

end Sys2Proof.Says
end

section
/-! PROOFS. The values of the lane functions: what the model computes on bit patterns, as the statements write it on numbers. -/

namespace Sys2Proof.Machine

/-! ## Integer arithmetic (R87) -/

/-- A saturated sum is the value clamped, and SAT where it was. -/
theorem saturate_eq_clamp {lo hi : Int} (h : lo ≤ hi) (x : Int) :
    saturate lo hi x = { val := Says.clamp lo hi x, flags := Says.clamped lo hi x } := by
  have hc : max lo (min hi x) = if x < lo then lo else if hi < x then hi else x := by
    split
    · omega
    · split <;> omega
  have hx : decide (max lo (min hi x) ≠ x) = decide (x < lo ∨ hi < x) := by rw [decide_eq_decide]; omega
  simp only [saturate, hx, flagIf, decide_eq_true_eq]
  rw [hc]
  rfl

/-- The high word of an unsigned product. -/
theorem hiProduct_toNat (x y : Word) : hiProduct ((x.toNat : Int) * (y.toNat : Int)) = BitVec.ofNat 32 (x.toNat * y.toNat / 2 ^ 32) := by
  rw [hiProduct, truncInt, ← BitVec.ofInt_natCast, Int.natCast_ediv, Int.natCast_mul]
  rfl

/-- The unsigned product of two words fits a pair. -/
theorem setWidth_mul_setWidth (x y : Word) : x.setWidth 64 * y.setWidth 64 = BitVec.ofNat 64 (x.toNat * y.toNat) := by
  apply BitVec.eq_of_toNat_eq
  simp [BitVec.toNat_mul]

/-- With an addend the sum wraps. -/
theorem setWidth_mul_add (x y : Word) (z : DWord) :
    x.setWidth 64 * y.setWidth 64 + z = BitVec.ofNat 64 (x.toNat * y.toNat + z.toNat) := by
  rw [setWidth_mul_setWidth, BitVec.ofNat_add, BitVec.ofNat_toNat, BitVec.setWidth_eq]

/-- A magnitude wraps at the most negative value. -/
theorem truncInt_natAbs {w : Nat} (x : BitVec w) : truncInt w (x.toInt.natAbs : Int) = if x.toInt < 0 then -x else x := by
  rw [truncInt]
  split
  · rw [show (x.toInt.natAbs : Int) = -x.toInt by omega, BitVec.ofInt_neg, BitVec.ofInt_toInt]
  · rw [show (x.toInt.natAbs : Int) = x.toInt by omega, BitVec.ofInt_toInt]

/-! ## Shifts (R89) -/

/-- Bits shifted past the word come out as zeros. -/
theorem shiftLeft_eq_ofNat {w : Nat} (x : BitVec w) (n : Nat) : x <<< n = BitVec.ofNat w (x.toNat * 2 ^ n) := by
  apply BitVec.eq_of_toNat_eq
  rw [BitVec.toNat_shiftLeft, Nat.shiftLeft_eq, BitVec.toNat_ofNat]

/-- A shift to the left multiplies. -/
theorem shiftLeft_eq {w : Nat} (x : BitVec w) (n : Nat) :
    shiftLeft x n = if w ≤ n then 0#w else BitVec.ofNat w (x.toNat * 2 ^ n) := by
  rw [shiftLeft, shiftLeft_eq_ofNat]

/-- A logical shift to the right divides. -/
theorem shiftRight_eq {w : Nat} (x : BitVec w) (n : Nat) :
    shiftRight x n = if w ≤ n then 0#w else BitVec.ofNat w (x.toNat / 2 ^ n) := by
  rw [shiftRight]
  congr 1
  apply BitVec.eq_of_toNat_eq
  rw [BitVec.toNat_ushiftRight, Nat.shiftRight_eq_div_pow, BitVec.toNat_ofNat,
    Nat.mod_eq_of_lt (Nat.lt_of_le_of_lt (Nat.div_le_self ..) x.isLt)]

/-- An arithmetic shift divides the signed value, rounding down. -/
theorem shiftArith_eq {w : Nat} (x : BitVec w) (n : Nat) :
    shiftArith x n = if w ≤ n then (if x.toInt < 0 then BitVec.allOnes w else 0#w) else BitVec.ofInt w (x.toInt / 2 ^ n) := by
  have hs : x.sshiftRight n = BitVec.ofInt w (x.toInt / 2 ^ n) := by
    rw [BitVec.sshiftRight_eq, Int.shiftRight_eq_div_pow, Int.natCast_pow]; rfl
  rw [shiftArith, hs, BitVec.msb_eq_toInt]
  simp only [decide_eq_true_eq]

/-! ## Bit counts and fields (R90) -/

/-- The count of one bits. -/
theorem onesBelow_eq (x : Word) (n : Nat) : onesBelow x n = ((List.range n).filter (fun i => x.getLsbD i)).length := by
  induction n with
  | zero => rfl
  | succ n ih =>
    rw [onesBelow, ih, List.range_succ, List.filter_append, List.length_append]
    cases h : x.getLsbD n <;> simp [h]

/-- Counting the zeros at the start of a sequence of bits: one more where the first is a zero. -/
theorem length_takeWhile_range_succ (p : Nat → Bool) (n : Nat) :
    ((List.range (n + 1)).takeWhile p).length = if p 0 then 1 + ((List.range n).takeWhile fun i => p (i + 1)).length else 0 := by
  rw [List.range_succ_eq_map, List.takeWhile_cons]
  split
  · rw [List.length_cons, List.takeWhile_map, List.length_map, Nat.add_comm]; rfl
  · rfl

/-- The zeros before the first one bit, from the top. -/
theorem zerosDown_eq (x : Word) (n : Nat) : zerosDown x n = ((List.range n).takeWhile fun i => !x.getLsbD (n - 1 - i)).length := by
  induction n with
  | zero => rfl
  | succ n ih =>
    have hshift : (fun i => !x.getLsbD (n + 1 - 1 - (i + 1))) = fun i => !x.getLsbD (n - 1 - i) := by
      funext i; rw [show n + 1 - 1 - (i + 1) = n - 1 - i by omega]
    rw [length_takeWhile_range_succ, hshift, ← ih, zerosDown]
    cases h : x.getLsbD n <;> simp [h]

/-- The zeros before the first one bit, from the bottom. -/
theorem zerosUp_eq (x : Word) {n : Nat} (hn : n ≤ 32) :
    zerosUp x n = ((List.range n).takeWhile fun i => !x.getLsbD (32 - n + i)).length := by
  induction n with
  | zero => rfl
  | succ n ih =>
    have hshift : (fun i => !x.getLsbD (32 - (n + 1) + (i + 1))) = fun i => !x.getLsbD (32 - n + i) := by
      funext i; rw [show 32 - (n + 1) + (i + 1) = 32 - n + i by omega]
    rw [length_takeWhile_range_succ, hshift, ← ih (by omega), zerosUp, show 32 - (n + 1) + 0 = 31 - n by omega]
    cases h : x.getLsbD (31 - n) <;> simp

/-- The field that a control word names: `pos` bits up and `len` bits long, in its signed reading where its top bit is set. -/
theorem bfxValue_eq (sgn : Bool) (x ctl : Word) :
    bfxValue sgn x ctl =
      let pos := ctl.toNat % 256
      let len := min (ctl.toNat / 256 % 256) 32
      let fld := if 32 ≤ pos then 0 else x.toNat / 2 ^ pos % 2 ^ len
      if sgn && decide (0 < len) && fld.testBit (len - 1) then BitVec.ofInt 32 ((fld : Int) - (2 ^ len : Nat)) else BitVec.ofNat 32 fld := by
  simp only [← Nat.shiftRight_eq_div_pow]
  rfl

/-- The insertion of a field, on numbers. -/
theorem bfiValue_eq (x ctl z : Word) :
    bfiValue x ctl z =
      let pos := ctl.toNat % 256
      let mask := if 32 ≤ pos then 0#32 else BitVec.ofNat 32 ((2 ^ min (ctl.toNat / 256 % 256) 32 - 1) * 2 ^ pos)
      (z &&& ~~~mask) ||| (BitVec.ofNat 32 (x.toNat * 2 ^ pos) &&& mask) := by
  simp only [← shiftLeft_eq_ofNat]
  rfl

/-! ## Compare and select (R91) -/

/-- The address form's scaled index. -/
theorem setWidth_shiftLeft (x : Word) (n : Nat) : x.setWidth 64 <<< n = BitVec.ofNat 64 (x.toNat * 2 ^ n) := by
  rw [shiftLeft_eq_ofNat, BitVec.toNat_setWidth_of_le (by decide)]

/-! ## Lane masks -/

/-- Setting bits one after another sets those of the lanes named. -/
theorem getLsbD_foldl_set (f : Nat → Bool) (ls : List Nat) (m : LaneMask) {l : Nat} (hl : l < 32) :
    (ls.foldl (fun m i => if f i then m ||| (1#32 <<< i) else m) m).getLsbD l = (m.getLsbD l || (decide (l ∈ ls) && f l)) := by
  induction ls generalizing m with
  | nil => simp
  | cons i ls ih =>
    rw [List.foldl_cons, ih]
    by_cases hi : l = i
    · subst hi
      cases hf : f l <;> simp [BitVec.getLsbD_or, getLsbD_one_shiftLeft _ hl]
    · have hne : (i = l) = False := eq_false (Ne.symm hi)
      cases hf : f i <;> simp [hi, hne, BitVec.getLsbD_or, getLsbD_one_shiftLeft _ hl]

/-- The mask of the lanes at which a test holds has the bits of those lanes. -/
theorem getLsbD_maskOf (f : Nat → Bool) {l : Nat} (hl : l < 32) : (maskOf f).getLsbD l = f l := by
  rw [maskOf, getLsbD_foldl_set f lanes _ hl]
  simp [mem_lanes.mpr hl]

end Sys2Proof.Machine
end

section
/-! PROOFS. Integer arithmetic, logic, shifts and bit fields: each form by the rule of its shape, and the value it computes. -/

namespace Sys2Proof.Proofs

open Sys2Proof.Machine Sys2Proof.Says

/-- A saturating form gives the exact result clamped, and raises SAT in the lanes where it was. -/
theorem gives_of_saturate {i : Instr} {o : Ops} {s : State} {lo hi : Int} (hle : lo ≤ hi) {f : Word → Word → Int}
    (h : exec i s = alu32 i o s fun x y _ => saturate lo hi (f x y)) :
    gives i s o.d (fun l => clamp lo hi (f (a o s l) (b o s l))) (raised s fun l => clamped lo hi (f (a o s l) (b o s l))) := by
  simp only [saturate_eq_clamp hle] at h
  exact gives_of_alu32 h

/-- A choice told by the opposite condition: the smaller and the larger value, by `<` where the model has `≤`. -/
theorem ite_eq_ite_of_iff_not {α : Type} {p q : Prop} [Decidable p] [Decidable q] (h : p ↔ ¬ q) (u v : α) :
    (if p then u else v) = if q then v else u := by
  by_cases hq : q
  · rw [if_pos hq, if_neg fun hp => h.mp hp hq]
  · rw [if_neg hq, if_pos (h.mpr hq)]

/-- Settles O1, form by form: the rule for the shape of its meaning, and the value on numbers. -/
theorem integerArithmeticComputesR87 : Obligations.IntegerArithmeticComputesR87 := by
  unfold Obligations.IntegerArithmeticComputesR87
  rintro ⟨sw, d, ra, rb, la, lb, f, ext⟩ s a b c ap bp cp z y
  and_intros <;> rintro rfl
  -- IADD
  · exact gives_of_plain (f := fun x y _ => x + y) rfl fun _ => rfl
  · exact givesPair_of_alu64 (f := (· + ·)) rfl fun _ => rfl
  · exact gives_of_saturate (f := fun x y => x.toInt + y.toInt) (by decide) rfl
  · exact gives_of_saturate (f := fun x y => (x.toNat : Int) + y.toNat) (by decide) rfl
  -- ISUB
  · exact gives_of_plain (f := fun x y _ => x - y) rfl fun _ => rfl
  · exact givesPair_of_alu64 (f := (· - ·)) rfl fun _ => rfl
  · exact gives_of_saturate (f := fun x y => x.toInt - y.toInt) (by decide) rfl
  · exact gives_of_saturate (f := fun x y => (x.toNat : Int) - y.toNat) (by decide) rfl
  -- IMUL
  · exact gives_of_plain (f := fun x y _ => x * y) rfl fun _ => rfl
  · exact gives_of_plain (f := fun x y _ => hiProduct (x.toInt * y.toInt)) rfl fun _ => rfl
  · exact gives_of_plain (f := fun x y _ => hiProduct ((x.toNat : Int) * y.toNat)) rfl fun _ => hiProduct_toNat _ _
  · exact givesPair_of_aluWide (f := fun x y _ => truncInt 64 (x.toInt * y.toInt)) rfl fun _ => rfl
  · exact givesPair_of_aluWide (f := fun x y _ => x.setWidth 64 * y.setWidth 64) rfl fun _ => setWidth_mul_setWidth _ _
  -- IMAC
  · exact gives_of_plain (f := fun x y z => x * y + z) rfl fun _ => rfl
  · exact givesPair_of_aluWide (f := fun x y z => truncInt 64 (x.toInt * y.toInt + z.toInt)) rfl fun _ => rfl
  · exact givesPair_of_aluWide (f := fun x y z => x.setWidth 64 * y.setWidth 64 + z) rfl fun _ => setWidth_mul_add _ _ _
  -- IMIN
  · exact gives_of_plain (f := fun x y _ => if x.toInt ≤ y.toInt then x else y) rfl fun _ => ite_eq_ite_of_iff_not Int.not_lt.symm ..
  · exact gives_of_plain (f := fun x y _ => if x.toNat ≤ y.toNat then x else y) rfl fun _ => ite_eq_ite_of_iff_not Nat.not_lt.symm ..
  · exact givesPair_of_alu64 (f := fun x y => if x.toInt ≤ y.toInt then x else y) rfl fun _ => ite_eq_ite_of_iff_not Int.not_lt.symm ..
  · exact givesPair_of_alu64 (f := fun x y => if x.toNat ≤ y.toNat then x else y) rfl fun _ => ite_eq_ite_of_iff_not Nat.not_lt.symm ..
  -- IMAX
  · exact gives_of_plain (f := fun x y _ => if x.toInt ≤ y.toInt then y else x) rfl fun _ => ite_eq_ite_of_iff_not Int.not_lt.symm ..
  · exact gives_of_plain (f := fun x y _ => if x.toNat ≤ y.toNat then y else x) rfl fun _ => ite_eq_ite_of_iff_not Nat.not_lt.symm ..
  · exact givesPair_of_alu64 (f := fun x y => if x.toInt ≤ y.toInt then y else x) rfl fun _ => ite_eq_ite_of_iff_not Int.not_lt.symm ..
  · exact givesPair_of_alu64 (f := fun x y => if x.toNat ≤ y.toNat then y else x) rfl fun _ => ite_eq_ite_of_iff_not Nat.not_lt.symm ..
  -- IABS and INEG
  · exact gives_of_plain (f := fun x _ _ => truncInt 32 (x.toInt.natAbs : Int)) rfl fun _ => truncInt_natAbs _
  · exact givesPair_of_alu64 (f := fun x _ => truncInt 64 (x.toInt.natAbs : Int)) rfl fun _ => truncInt_natAbs _
  · exact gives_of_plain (f := fun x _ _ => -x) rfl fun _ => rfl
  · exact givesPair_of_alu64 (f := fun x _ => -x) rfl fun _ => rfl

/-! ## Logic, shifts and fields (R88 to R90) -/

/-- A shift form of 64 bits: a pair shifted by a word. -/
theorem givesPair_of_shiftForm {i : Instr} {o : Ops} {s : State} {f32 : Word → Nat → Word} {f64 : DWord → Nat → DWord} {g : Nat → DWord}
    (h : exec i s = shiftForm i o s f32 f64) (hf : 4 ≤ o.f.toNat) (hg : ∀ l, f64 (aPair o s l) (b o s l).toNat = g l) :
    givesPair i s o.d g := by
  rw [shiftForm, if_pos hf] at h
  rw [← funext hg]
  exact givesPair_of_writePair (f := fun w l => f64 (w.srcPair o.ext o.a l) (w.src o.ext o.b l).toNat) h

/-- Settles O2, form by form likewise. -/
theorem logicShiftsAndFieldsComputeR88R89R90 : Obligations.LogicShiftsAndFieldsComputeR88R89R90 := by
  unfold Obligations.LogicShiftsAndFieldsComputeR88R89R90
  rintro ⟨sw, d, ra, rb, la, lb, f, ext⟩ s a b c ap n pos len fld mask
  and_intros
  -- AND to NOT
  · exact gives_of_plain (f := fun x y _ => x &&& y) rfl fun _ => rfl
  · exact gives_of_plain (f := fun x y _ => x ||| y) rfl fun _ => rfl
  · exact gives_of_plain (f := fun x y _ => x ^^^ y) rfl fun _ => rfl
  · exact gives_of_plain (f := fun x y _ => x &&& ~~~y) rfl fun _ => rfl
  · exact gives_of_plain (f := fun x y _ => x ||| ~~~y) rfl fun _ => rfl
  · exact gives_of_plain (f := fun x _ _ => ~~~x) rfl fun _ => rfl
  -- SHL, SHR, SAR and ROL
  · rintro rfl; exact gives_of_plain (f := fun x y _ => shiftLeft x y.toNat) rfl fun _ => shiftLeft_eq _ _
  · rintro rfl; exact givesPair_of_shiftForm (f32 := shiftLeft) (f64 := shiftLeft) rfl (Nat.le_of_ble_eq_true rfl) fun _ => shiftLeft_eq _ _
  · rintro rfl; exact gives_of_plain (f := fun x y _ => shiftRight x y.toNat) rfl fun _ => shiftRight_eq _ _
  · rintro rfl; exact givesPair_of_shiftForm (f32 := shiftRight) (f64 := shiftRight) rfl (Nat.le_of_ble_eq_true rfl) fun _ => shiftRight_eq _ _
  · rintro rfl; exact gives_of_plain (f := fun x y _ => shiftArith x y.toNat) rfl fun _ => shiftArith_eq _ _
  · rintro rfl; exact givesPair_of_shiftForm (f32 := shiftArith) (f64 := shiftArith) rfl (Nat.le_of_ble_eq_true rfl) fun _ => shiftArith_eq _ _
  · rintro rfl; exact gives_of_plain (f := fun x y _ => rotLeft x y.toNat) rfl fun _ => rfl
  · rintro rfl; exact givesPair_of_shiftForm (f32 := rotLeft) (f64 := rotLeft) rfl (Nat.le_of_ble_eq_true rfl) fun _ => rfl
  -- ONES, CLZ, CTZ and BITREV
  · exact gives_of_plain (f := fun x _ _ => BitVec.ofNat 32 (onesBelow x 32)) rfl fun _ => by rw [onesBelow_eq]
  · exact gives_of_plain (f := fun x _ _ => BitVec.ofNat 32 (zerosDown x 32)) rfl fun _ => by rw [zerosDown_eq]
  · exact gives_of_plain (f := fun x _ _ => BitVec.ofNat 32 (zerosUp x 32)) rfl fun l => by
      rw [zerosUp_eq _ (Nat.le_refl 32)]; simp only [Nat.sub_self, Nat.zero_add]; rfl
  · obtain ⟨t, ht, hd, hfl⟩ := gives_of_plain (i := .bitrev ⟨sw, d, ra, rb, la, lb, f, ext⟩) (s := s)
      (f := fun x _ _ => x.reverse) rfl fun _ => rfl
    refine ⟨t, ht, by rw [hfl, BitVec.or_zero], fun l => (a l).reverse, hd, fun l i hi => ?_⟩
    rw [BitVec.getLsbD_reverse, BitVec.getMsbD_eq_getLsbD]
    simp [hi]
  -- BFX and BFI
  · rintro rfl; exact gives_of_plain (f := fun x y _ => bfxValue true x y) rfl fun _ => by
      simp only [bfxValue_eq, Bool.true_and, Bool.and_eq_true, decide_eq_true_eq, Int.natCast_pow]; rfl
  · rintro rfl; exact gives_of_plain (f := fun x y _ => bfxValue false x y) rfl fun _ => bfxValue_eq false _ _
  · exact gives_of_plain (f := fun x y z => bfiValue x y z) rfl fun _ => bfiValue_eq _ _ _

end Sys2Proof.Proofs
end

section
/-! PROOFS. Address, compare, select and move, the floating forms in f32, and the exchange and votes of lanes. -/

namespace Sys2Proof.Proofs

open Sys2Proof.Machine Sys2Proof.Says

/-- An integer compare gives the condition of its function code. -/
theorem givesPred_icmp {o : Ops} {s : State} {f : BitVec 4} (hf : o.f = f) :
    givesPred (.icmp o) s o.d (fun l => icmpHolds f.toNat (a o s l) (b o s l)) 0#32 :=
  givesPred_of_writePred (f := fun w _ l => icmpHolds o.f.toNat (w.src o.ext o.a l) (w.src o.ext o.b l)) rfl fun _ _ _ => hf ▸ rfl

/-- Predicate logic gives the operation of its function code. -/
theorem givesPred_plog {o : Ops} {s : State} {f : BitVec 4} (hf : o.f = f) :
    givesPred (.plog o) s o.d (fun l => plogValue f.toNat (s.w.pred o.a.toNat l) (s.w.pred o.b.toNat l)) 0#32 :=
  givesPred_of_writePred (f := fun w _ l => plogValue o.f.toNat (w.pred o.a.toNat l) (w.pred o.b.toNat l)) rfl fun _ _ _ => hf ▸ rfl

/-- The select chooses by the predicate and its sense (R93). -/
theorem gives_sel (o : Ops) (s : State) :
    gives (.sel o) s o.d (fun l => if s.w.pred (o.f.toNat % 8) l = o.f.getLsbD 3 then b o s l else a o s l) 0#32 := by
  have h := gives_of_writeDest (i := .sel o) (o := o) (s := s) (d := o.d)
    (f := fun w _ l => if w.pred (o.f.toNat % 8) l != o.f.getLsbD 3 then w.src o.ext o.a l else w.src o.ext o.b l) rfl
  simp only [bne_iff_ne, ite_not, ne_eq] at h
  exact h

/-- A special selector's value is written as it stands before the instruction; reading `clock.lo` in an active lane latches the high
half (R16, R95). -/
theorem movs_answers (o : Ops) (s : State) :
    ∃ t, exec (.movs o) s = .next t ∧ t.w.aflags = s.w.aflags ∧ dest s t o.d (fun l => specialValue s o.a.toNat l)
      ∧ t.w.clockHi = if o.a = 10#6 ∧ s.w.activeLanes ≠ 0#32 then some (hiWord s.clock) else s.w.clockHi := by
  obtain ⟨t, ht, haf, hch, hr⟩ := aluRun_answers (.movs o) o s fun w0 w1 act =>
    let w2 := w1.writeDest o.d act (fun l => specialValue ({ s with w := w0 }) o.a.toNat l)
    if o.a = 10#6 && act != 0#32 then { w2 with clockHi := some (hiWord s.clock) } else w2
  obtain ⟨hwf, hwc⟩ := Warp.writeDest_flags (s.w.lastUse (.movs o) o) o.d s.w.activeLanes (fun l => specialValue s o.a.toNat l)
  obtain ⟨hlf, hlc⟩ := s.w.lastUse_flags (.movs o) o
  refine ⟨t, ht, ?_⟩
  by_cases hc : o.a = 10#6 ∧ s.w.activeLanes ≠ 0#32
  · have hb : (decide (o.a = 10#6) && s.w.activeLanes != 0#32) = true := by simp [hc]
    simp only [hb, if_true] at haf hch hr
    exact ⟨haf.trans (hwf.trans hlf), dest_of_past hr, hch.trans (if_pos hc).symm⟩
  · have hb : (decide (o.a = 10#6) && s.w.activeLanes != 0#32) = false := by simpa using hc
    simp only [hb] at haf hch hr
    exact ⟨haf.trans (hwf.trans hlf), dest_of_past hr, (hch.trans (hwc.trans hlc)).trans (if_neg hc).symm⟩

/-- Settles O3, form by form. -/
theorem addressCompareSelectMoveComputeR91ToR95 : Obligations.AddressCompareSelectMoveComputeR91ToR95 := by
  unfold Obligations.AddressCompareSelectMoveComputeR91ToR95
  rintro ⟨sw, d, ra, rb, la, lb, f, ext⟩ s a b ap cmp cmpU p
  and_intros
  -- LEA
  · intro _
    have h := givesPair_of_writePair (i := .lea ⟨sw, d, ra, rb, la, lb, f, ext⟩) (o := ⟨sw, d, ra, rb, la, lb, f, ext⟩) (s := s) (d := d)
      (f := fun w l => w.srcPair ext ra l + ((w.src ext rb l).setWidth 64 <<< f.toNat)) rfl
    simp only [setWidth_shiftLeft] at h
    exact h
  -- ICMP
  · exact fun h => givesPred_icmp h
  · exact fun h => givesPred_icmp h
  · exact fun h => givesPred_icmp h
  · exact fun h => givesPred_icmp h
  · exact fun h => givesPred_icmp h
  · exact fun h => givesPred_icmp h
  · exact fun h => givesPred_icmp h
  · exact fun h => givesPred_icmp h
  · exact fun h => givesPred_icmp h
  · exact fun h => givesPred_icmp h
  -- SEL
  · exact gives_sel ⟨sw, d, ra, rb, la, lb, f, ext⟩ s
  -- PLOG
  · exact fun h => givesPred_plog h
  · exact fun h => givesPred_plog h
  · exact fun h => givesPred_plog h
  · exact fun h => givesPred_plog h
  -- MOV and MOVS
  · rintro rfl; exact gives_of_plain (f := fun x _ _ => x) rfl fun _ => rfl
  · rintro rfl; exact givesPair_of_alu64 (f := fun x _ => x) rfl fun _ => rfl
  · exact movs_answers ⟨sw, d, ra, rb, la, lb, f, ext⟩ s

/-! ## Floating forms in f32 (R96 to R99) -/

/-- An arithmetic form whose format code names f32 gives what its operation does in f32, and raises what it raises. -/
theorem gives_of_packed {i : Instr} {o : Ops} {s : State} {fm : Nat} {f : Fmt → Nat → Nat → Nat → Flagged Nat}
    (h : exec i s = alu32 i o s (packed fm f)) (hfm : fm = 0) :
    gives i s o.d (fun l => BitVec.ofNat 32 (f fmtF32 (a o s l).toNat (b o s l).toNat (c o s l).toNat).val)
      (raised s fun l => (f fmtF32 (a o s l).toNat (b o s l).toNat (c o s l).toNat).flags) := by
  subst hfm
  exact gives_of_alu32 h

/-- A function code below 4 names f32. -/
theorem fmtCode_eq_zero {o : Ops} (h : o.f.toNat < 4) : fmtCode o = 0 := Nat.div_eq_of_lt h

/-- In f32 the sign is bit 31 (R99). -/
theorem signBits_f32 {o : Ops} (h : o.f.toNat < 4) : signBits (fmtCode o) = 0x80000000#32 := by
  rw [signBits, if_pos (fmtCode_eq_zero h)]

/-- In the packed formats the signs are bits 15 and 31 (R99). -/
theorem signBits_packed {o : Ops} (h : 4 ≤ o.f.toNat) : signBits (fmtCode o) = 0x80008000#32 :=
  if_neg (Nat.ne_of_gt (Nat.div_pos h (by decide)))

/-- A float compare gives the condition of its function code, and raises NV where a source is a signalling NaN (R98). -/
theorem givesPred_fcmp {o : Ops} {s : State} {f : BitVec 4} (hf : o.f = f) :
    givesPred (.fcmp o) s o.d (fun l => fcmpHolds f.toNat (a o s l) (b o s l)) (raised s fun l =>
      if (fmtF32.unpack (a o s l).toNat).isSignalling || (fmtF32.unpack (b o s l).toNat).isSignalling then flagNV else 0#32) := by
  subst hf
  obtain ⟨t, ht, haf, -, hr⟩ := aluRun_answers (.fcmp o) o s fun w0 w1 act =>
    (w1.writePred o.d act (fun l => fcmpHolds o.f.toNat (w0.src o.ext o.a l) (w0.src o.ext o.b l))).addFlags
      (laneFlags act (fun l => flagIf ((fmtF32.unpack (w0.src o.ext o.a l).toNat).isSignalling
        || (fmtF32.unpack (w0.src o.ext o.b l).toNat).isSignalling) flagNV))
  refine ⟨t, ht, destPred_of_past hr, haf.trans ?_⟩
  rw [Warp.addFlags_aflags, (Warp.writePred_flags ..).1, (Warp.lastUse_flags ..).1]
  rfl

/-- Settles O4: the arithmetic forms run the model's operations in f32, and the sign forms act on the sign bits of their format. -/
theorem floatFormsComputeInF32 : Obligations.FloatFormsComputeInF32 := by
  unfold Obligations.FloatFormsComputeInF32
  intro o s a b c m nan lt gt eq nv op
  and_intros
  -- FADD, FMUL and FMA
  · exact fun h => gives_of_packed (f := fun f x y _ => fadd f (rndCode o) x y) rfl (fmtCode_eq_zero h)
  · exact fun h => gives_of_packed (f := fun f x y _ => fmul f (rndCode o) x y) rfl (fmtCode_eq_zero h)
  · exact fun h => gives_of_packed (f := fun f x y z => ffma f (rndCode o) x y z) rfl (fmtCode_eq_zero h)
  -- FMIN, FMAX and FAMAX
  · exact fun h => gives_of_packed (f := fun f x y _ => fmin f x y) rfl (by rw [h]; rfl)
  · exact fun h => gives_of_packed (f := fun f x y _ => fmax f x y) rfl (by rw [h]; rfl)
  · exact gives_of_packed (f := fun f x y _ => famax f x y) rfl rfl
  -- FCMP
  · exact fun h => givesPred_fcmp h
  · exact fun h => givesPred_fcmp h
  · exact fun h => givesPred_fcmp h
  · exact fun h => givesPred_fcmp h
  · exact fun h => givesPred_fcmp h
  · exact fun h => givesPred_fcmp h
  · exact fun h => givesPred_fcmp h
  · exact fun h => givesPred_fcmp h
  -- FABS
  · exact fun h => gives_of_plain (f := fun x _ _ => x &&& ~~~(signBits (fmtCode o))) rfl fun _ => by rw [signBits_f32 h]; rfl
  · exact fun h => gives_of_plain (f := fun x _ _ => x &&& ~~~(signBits (fmtCode o))) rfl fun _ => by rw [signBits_packed h]; rfl
  -- FNEG
  · exact fun h => gives_of_plain (f := fun x _ _ => x ^^^ signBits (fmtCode o)) rfl fun _ => by rw [signBits_f32 h]
  · exact fun h => gives_of_plain (f := fun x _ _ => x ^^^ signBits (fmtCode o)) rfl fun _ => by rw [signBits_packed h]
  -- FCOPYS
  · exact fun h => gives_of_plain (f := fun x y _ => (x &&& ~~~(signBits (fmtCode o))) ||| (y &&& signBits (fmtCode o))) rfl
      fun _ => by rw [signBits_f32 h]; rfl
  · exact fun h => gives_of_plain (f := fun x y _ => (x &&& ~~~(signBits (fmtCode o))) ||| (y &&& signBits (fmtCode o))) rfl
      fun _ => by rw [signBits_packed h]; rfl

/-! ## Lane exchange and votes (R105, R106) -/

/-- The exchange reads the lane that its function code names (R105). -/
theorem gives_lxch {o : Ops} {s : State} {f : BitVec 4} {j : Nat → Nat} (hf : o.f = f)
    (hj : ∀ i, lxchLane f.toNat (b o s i).toNat i = j i) : gives (.lxch o) s o.d (fun i => a o s (j i)) 0#32 := by
  subst hf
  rw [← funext hj]
  exact gives_of_writeDest (f := fun w _ l => w.src o.ext o.a (lxchLane o.f.toNat (w.src o.ext o.b l).toNat l)) rfl

/-- A vote gives every active lane what its test says of the active lanes' predicates. -/
theorem givesPred_of_voteRun {i : Instr} {o : Ops} {s : State} {f : List Bool → Bool} {v : Bool} (h : exec i s = voteRun i o s f)
    (hv : f (s.w.activeLanes.toList.map fun l => s.w.pred (o.a.toNat % 8) l) = v) : givesPred i s o.d (fun _ => v) 0#32 :=
  givesPred_of_writePred (f := fun w act _ => f (act.toList.map fun l => w.pred (o.a.toNat % 8) l)) h fun _ _ _ => hv

/-- Every active lane's predicate is true. -/
theorem all_toList_map (m : LaneMask) (p : Nat → Bool) : (m.toList.map p).all id = lanes.all fun l => !m.getLsbD l || p l := by
  rw [LaneMask.toList, List.all_map, List.all_filter]
  congr 1

/-- Some active lane's predicate is. -/
theorem any_toList_map (m : LaneMask) (p : Nat → Bool) : (m.toList.map p).any id = lanes.any fun l => m.getLsbD l && p l := by
  rw [LaneMask.toList, List.any_map, List.any_filter]
  congr 1

/-- A lane of a mask is the lowest of it when no lane of it is below. -/
theorem lowest_beq_some {m : LaneMask} {l : Nat} (hl : l < 32) (hm : m.getLsbD l = true) :
    (m.lowest == some l) = lanes.all fun j => !m.getLsbD j || decide (l ≤ j) := by
  have hlow : m.lowest = some l ↔ m.getLsbD l = true ∧ l ∈ List.range 32 ∧ ∀ j < l, (!m.getLsbD j) = true := by
    rw [LaneMask.lowest, LaneMask.toList, List.head?_filter, lanes_eq_range]
    exact List.find?_range_eq_some
  rw [Bool.eq_iff_iff, beq_iff_eq, hlow, List.all_eq_true]
  constructor
  · rintro ⟨-, -, hbelow⟩ j -
    by_cases hj : j < l
    · rw [hbelow j hj, Bool.true_or]
    · rw [decide_eq_true (Nat.le_of_not_lt hj), Bool.or_true]
  · intro h
    refine ⟨hm, List.mem_range.mpr hl, fun j hj => ?_⟩
    simpa [Nat.not_le_of_lt hj] using h j (mem_lanes.mpr (Nat.lt_trans hj hl))

/-- Settles O8: the exchange by the lane it reads, the votes by what they ask of the active lanes' predicates. -/
theorem laneExchangeAndVotesComputeR105R106 : Obligations.LaneExchangeAndVotesComputeR105R106 := by
  unfold Obligations.LaneExchangeAndVotesComputeR105R106
  intro o s n act p
  have hall := all_toList_map act p
  have hany := any_toList_map act p
  and_intros
  · exact fun h => gives_lxch h fun _ => rfl
  · exact fun h => gives_lxch h fun _ => rfl
  · exact fun h => gives_lxch h fun _ => rfl
  · exact fun h => gives_lxch h fun _ => rfl
  · exact givesPred_of_voteRun (f := fun ps => ps.all id) rfl hall
  · exact givesPred_of_voteRun (f := fun ps => ps.any id) rfl hany
  · exact givesPred_of_voteRun (f := fun ps => ps.all id || !(ps.any id)) rfl (by rw [← hall, ← hany])
  · obtain ⟨t, ht, hd, hfl⟩ := gives_of_writeDest (i := .lanesMask o) (o := o) (s := s) (d := o.d)
      (f := fun w act _ => maskOf fun l => act.getLsbD l && w.pred (o.a.toNat % 8) l) rfl
    exact ⟨t, _, ht, hd, by rw [hfl, BitVec.or_zero], fun l hl => getLsbD_maskOf _ hl⟩
  · exact givesPred_of_writePred (f := fun _ act l => act.lowest == some l) rfl fun l hl hm => lowest_beq_some hl hm

end Sys2Proof.Proofs
end
